-- ==== Sys2Proof/Word.lean ====
section
/-! DEFINITION. The machine's words: widths of spec/00_scope.md R8 and spec/10_state.md R21, R23, and their plainest
arithmetic. -/

namespace Sys2Proof

/-- A byte of memory. -/
abbrev Byte := BitVec 8
/-- A 16-bit instruction or data word. -/
abbrev Word16 := BitVec 16
/-- A 32-bit long word: an address, an AGU register, a control register. -/
abbrev Word := BitVec 32
/-- A 40-bit data register (R21). -/
abbrev DWord := BitVec 40

/-- `$FFFF FFF8`: what a stack pointer can hold (R31). -/
def spMask : Word := 0xFFFFFFF8#32
/-- The bits of SR that are not reserved (R38, D31). -/
def srMask : Word := 0xF8FC0F7F#32
/-- The bits of VBA that can be written (R34, R48). -/
def vbaMask : Word := 0xFFFFF000#32
/-- PC without its bit 0 (R32). -/
def pcMask : Word := 0xFFFFFFFE#32

end Sys2Proof
end

