-- ==== Sys2Proof/Config.lean ====
section
/-! DEFINITION. What the spec leaves open: the parameters of the model (spec/00_scope.md R6), as plain data, and the free
values. -/

namespace Sys2Proof

namespace Config

/-- Free values (log 7): where the spec leaves a value undefined or unstated after an instruction that goes on, that value is
`freeBits n tag`, cut to its width, with n the State's counter `fresh` and `tag` saying which value of the set it is.  No body:
nothing can be proved of it. -/
opaque freeBits : Nat → Nat → BitVec 64

/-- What the 48 bits of CORE_CMD stand for (R708): a length (bits 51:50), the prefix bits H (49) and h (48), and three instruction
words, the first in bits 15:0.  No body: the register's layout is lost (log 11). -/
opaque coreCmdLayout : BitVec 48 → BitVec 52

/-- What a memory byte that the state does not list reads as (log 3; DESIGN CHOICE, unsafe: R603 gives memory no reset value). -/
def blankByte : Byte := 0#8

end Config

/-- Sources that an event-selector mask bit can stand for (R721; the map from bits to sources is the parameter ESEL_BITMAP). -/
inductive EselSource where
  | edca (i : Fin 6) | extEdca (i : Fin 2) | edcd | counter | ee (i : Fin 6) | eed | debugev
  deriving DecidableEq, Repr

/-- The parameters of R6, fixed for one run. -/
structure Params where
  /-- BIG_ENDIAN: the byte-order pin, copied to EMR.BEM at reset (R46, R104). -/
  bigEndian : Bool
  /-- EMR_GP: the pins behind EMR.GP6..GP0 (R46). -/
  emrGp : BitVec 7
  /-- RESET_PC (OPEN-1). -/
  resetPc : Word
  /-- VBA_RESET (OPEN-2). -/
  vbaReset : Word
  /-- EONCE_BASE, "rba" (R701). -/
  eonceBase : Word
  /-- TB_SIZE: entries of the trace buffer (R740). -/
  tbSize : Nat
  /-- SCID: ESR bits 23:17 (R750). -/
  scid : BitVec 7
  /-- EDCA_EXT: how many of the external channels EDCA6, EDCA7 exist (R725). -/
  edcaExt : Nat
  /-- ESEL_BITMAP: the source of each of the 16 mask bits, bit 0 first (OPEN-3). -/
  eselMap : List (Option EselSource)
  /-- PREFIX2_FIRST_POSITION: position of the first word after a two-word prefix, 2 or 1 (R158, D39). -/
  prefix2First : Nat
  deriving DecidableEq, Repr

/-- The parameters that State.reset takes (log 2; DESIGN CHOICE: R6 leaves them to the system around the core). EONCE_BASE
is a page at the top of the address space. -/
def Params.default : Params :=
  { bigEndian := false, emrGp := 0#7, resetPc := 0#32, vbaReset := 0#32, eonceBase := 0xFFFFFE00#32, tbSize := 0
    scid := 0#7, edcaExt := 0
    eselMap := [some (.edca 0), some (.edca 1), some (.edca 2), some (.edca 3), some (.edca 4), some (.edca 5),
                some (.extEdca 0), some (.extEdca 1), some .edcd, some .counter, some (.ee 0), some (.ee 1),
                some (.ee 2), some (.ee 3), some (.ee 4), some .debugev]
    prefix2First := 2 }

end Sys2Proof
end

