-- ==== Sys2Proof/Syntax.lean ====
section
/-! DEFINITION. The instructions of the SC140, over operands that are register names and the fields' own bit vectors
(spec/30_encoding.md R160 to R177).  Every row of spec/opcode_table.json is a constructor, or one form of a constructor's memory,
displacement, target or count operand: Lean compiles at most 244 constructors with fields, so the rows of one mnemonic that differ
in that operand only share one (log 38).  Register numbers are final: the
high-bank bits of a prefix (R156) are already added. -/

namespace Sys2Proof

/-- A data register D0..D15 (R21). -/
abbrev DReg := Fin 16
/-- An address register R0..R15; R8..R15 are B0..B7 (R24). -/
abbrev RReg := Fin 16
/-- An index register Rr of `(Rn+Rr)`, R0..R7 only (R161). -/
abbrev RLow := Fin 8
/-- A register pair: number i is D(2i), D(2i+1) (R165). -/
abbrev Pair := Fin 8
/-- A register quad: number i is D(4i)..D(4i+3) (R165). -/
abbrev Quad := Fin 4
/-- A hardware loop 0..3 (R35). -/
abbrev LoopIx := Fin 4

/-- The w bit of a move: 0 writes memory (or the named register), 1 reads it (R362, R364). -/
inductive Dir where
  | write | read
  deriving DecidableEq, Repr

/-- Which 16 bits of a register a bit-mask instruction works on (R390). -/
inductive Half where
  | low | high
  deriving DecidableEq, Repr

/-- DR: a data or address register (R166). -/
inductive DR where
  | d (n : DReg) | r (n : RReg)
  deriving DecidableEq, Repr

/-- C4: a data, address, base, offset or modulo register (R167). -/
inductive C4 where
  | d (n : DReg) | r (n : RReg) | b (k : Fin 8) | n (k : Fin 4) | m (k : Fin 4)
  deriving DecidableEq, Repr

/-- C3: a base, offset or modulo register (R168). -/
inductive C3 where
  | b (k : Fin 8) | n (k : Fin 4) | m (k : Fin 4)
  deriving DecidableEq, Repr

/-- C1: a control register (R170). -/
inductive C1 where
  | emr | vba | sr | mctl
  deriving DecidableEq, Repr

/-- C2: a control or loop register (R169). -/
inductive C2 where
  | emr | vba | sr | mctl | sa (k : LoopIx) | lc (k : LoopIx)
  deriving DecidableEq, Repr

/-- Rx: an AGU source and destination register (R171). -/
inductive Rx where
  | n (k : Fin 4) | sp | r (n : RReg)
  deriving DecidableEq, Repr

/-- rx: an AGU source register (R171). -/
inductive RxSrc where
  | n (k : Fin 4) | pc | sp | r (n : RReg)
  deriving DecidableEq, Repr

/-- The MMM addressing modes (R351); the MM modes are the four without an Ni. -/
inductive EaMode where
  | indexN0 | postDec | plain | postInc | postN (k : Fin 4)
  deriving DecidableEq, Repr

/-- De: what uses the even slot of a stack frame (R416). `d i` is D(2i), `ext i` is D(2i).E, `extPair i` is
D(2i).E:D(2i+1).E, `r i` is R(2i), `b i` is B(2i), `n i` is N(2i), `m i` is M(2i). -/
inductive PushEven where
  | d (i : Fin 8) | r (i : Fin 8) | b (i : Fin 4) | n (i : Fin 2) | m (i : Fin 2) | sa (k : LoopIx)
  | ext (i : Fin 8) | extPair (i : Fin 8)
  deriving DecidableEq, Repr

/-- Do: what uses the odd slot of a stack frame (R416). `d i` is D(2i+1), and so on. -/
inductive PushOdd where
  | d (i : Fin 8) | r (i : Fin 8) | b (i : Fin 4) | n (i : Fin 2) | m (i : Fin 2) | lc (k : LoopIx)
  | ext (i : Fin 8) | vba | sr | mctl
  deriving DecidableEq, Repr

/-- The memory operands of the bit-mask instructions (R390). -/
inductive BmuMem where
  | rn (n : RReg) | spShort (u : BitVec 5) | abs16 (a : BitVec 16) | sp (s : BitVec 16)
  deriving DecidableEq, Repr

/-- The memory operand of a single-register move (R351): which of its forms an instruction has is its rows (WellFormed). -/
inductive Mem where
  /-- (EA) or (ea) -/
  | ea (m : EaMode) (rn : RReg)
  /-- (Rn+s15) -/
  | disp (rn : RReg) (s : BitVec 15)
  /-- (Rn+u3), the offset in units of the access width -/
  | short (rn : RReg) (u : BitVec 3)
  /-- (Rn+Rr) -/
  | index (rn : RReg) (rr : RLow)
  /-- (a16) -/
  | abs16 (a : BitVec 16)
  /-- (a32) -/
  | abs32 (a : BitVec 32)
  /-- (SP+s15) -/
  | sp (s : BitVec 15)
  /-- (SP-u6), the offset in units of the access width -/
  | spShort (u : BitVec 6)
  deriving DecidableEq, Repr

/-- The memory operand of an extension move (R363). -/
inductive ExtMem where
  | sp (s : BitVec 15) | abs32 (a : BitVec 32)
  deriving DecidableEq, Repr

/-- The displacement of BRA and BRAD without its bit 0: the short form has 10 bits (R426), the long 20 (R423). -/
inductive Disp10 where
  | short (x : BitVec 10) | long (x : BitVec 20)
  deriving DecidableEq, Repr

/-- The displacement of the other branches without its bit 0: 8 bits (R424) or 20 (R423). -/
inductive Disp8 where
  | short (x : BitVec 8) | long (x : BitVec 20)
  deriving DecidableEq, Repr

/-- Where a jump goes (R447). -/
inductive JumpTo where
  | abs (a : BitVec 32) | reg (rn : RReg)
  deriving DecidableEq, Repr

/-- The count of a loop (R454). -/
inductive LoopCount where
  | u6 (u : BitVec 6) | u16 (u : BitVec 16) | reg (dr : DR)
  deriving DecidableEq, Repr

/-- The instructions: the rows of spec/opcode_table.json. -/
inductive Instr where
  /-- `ABS Dn` (R210). -/
  | abs (n : DReg)
  /-- `ADD #u5,Dn` (R212). -/
  | addImm (u : BitVec 5) (n : DReg)
  /-- `ADD Da,Db,Dn` (R212). -/
  | addReg (a : DReg) (b : DReg) (n : DReg)
  /-- `ADD Da,Da,Dn` (R212). -/
  | addSame (a : DReg) (b : DReg) (n : DReg)
  /-- `ADD2 Da,Dn` (R213). -/
  | add2 (a : DReg) (n : DReg)
  /-- `ADDNC.W #s16,Da,Dn` (R214). -/
  | addnc (s : BitVec 16) (a : DReg) (n : DReg)
  /-- `ADR Da,Dn` (R215). -/
  | adr (a : DReg) (n : DReg)
  /-- `ASL Da,Dn (alias of ADD Da,Da,Dn)` (R216). -/
  | asl (a : DReg) (n : DReg)
  /-- `ASR Da,Dn` (R217). -/
  | asr (a : DReg) (n : DReg)
  /-- `CLR Dn (alias of SUB Da,Da,Dn)` (R218). -/
  | clr (a : DReg) (n : DReg)
  /-- `CMPEQ Da,Dn` (R219). -/
  | cmpeq (a : DReg) (n : DReg)
  /-- `CMPEQ.W #u5,Dn` (R219). -/
  | cmpeqU (u : BitVec 5) (n : DReg)
  /-- `CMPEQ.W #s16,Dn` (R219). -/
  | cmpeqS (s : BitVec 16) (n : DReg)
  /-- `CMPGT Da,Dn` (R220). -/
  | cmpgt (a : DReg) (n : DReg)
  /-- `CMPGT.W #u5,Dn` (R220). -/
  | cmpgtU (u : BitVec 5) (n : DReg)
  /-- `CMPGT.W #s16,Dn` (R220). -/
  | cmpgtS (s : BitVec 16) (n : DReg)
  /-- `CMPHI Da,Dn` (R221). -/
  | cmphi (a : DReg) (n : DReg)
  /-- `DECGE Dn` (R223). -/
  | decge (n : DReg)
  /-- `DIV Da,Dn` (R224). -/
  | div (a : DReg) (n : DReg)
  /-- `IADDNC.W #s16,Dn` (R225). -/
  | iaddnc (s : BitVec 16) (n : DReg)
  /-- `INC Dn (alias of ADD #1,Dn)` (R226). -/
  | inc (n : DReg)
  /-- `INC Dn (encoding of the Example 5-13 listing)` (R226). -/
  | incListed (n : DReg)
  /-- `INC.F Dn` (R227). -/
  | incF (n : DReg)
  /-- `MAX Dg,Dh` (R228). -/
  | max (g : DReg) (h : DReg)
  /-- `MAX2VIT D4,D2` (R230). -/
  | max2vitA (a : DReg) (b : DReg)
  /-- `MAX2VIT D0,D6` (R230). -/
  | max2vitB (a : DReg) (b : DReg)
  /-- `MIN Dg,Dh` (R232). -/
  | min (g : DReg) (h : DReg)
  /-- `NEG Dn` (R233). -/
  | neg (n : DReg)
  /-- `RND Da,Dn` (R234). -/
  | rnd (a : DReg) (n : DReg)
  /-- `SAT.L Dn` (R236). -/
  | satL (n : DReg)
  /-- `SBC Dc,Dd` (R237). -/
  | sbc (c : DReg) (d : DReg)
  /-- `SBR Da,Dn` (R238). -/
  | sbr (a : DReg) (n : DReg)
  /-- `SUB #u5,Dn` (R239). -/
  | subImm (u : BitVec 5) (n : DReg)
  /-- `SUB Da,Db,Dn (Db - Da)` (R239). -/
  | subReg (a : DReg) (b : DReg) (n : DReg)
  /-- `SUB Da,Db,Dn (Da - Db, swapped pair)` (R239). -/
  | subRegSwap (a : DReg) (b : DReg) (n : DReg)
  /-- `SUB Da,Da,Dn` (R239). -/
  | subSame (a : DReg) (b : DReg) (n : DReg)
  /-- `SUB2 Da,Dn` (R240). -/
  | sub2 (a : DReg) (n : DReg)
  /-- `SUBL Da,Dn` (R241). -/
  | subl (a : DReg) (n : DReg)
  /-- `SUBNC.W #s16,Dn` (R242). -/
  | subnc (s : BitVec 16) (n : DReg)
  /-- `TFR Da,Dn` (R243). -/
  | tfr (a : DReg) (n : DReg)
  /-- `TFRF Da,Dn` (R244). -/
  | tfrf (a : DReg) (n : DReg)
  /-- `TFRT Da,Dn` (R245). -/
  | tfrt (a : DReg) (n : DReg)
  /-- `TSTEQ Dn` (R246). -/
  | tsteq (n : DReg)
  /-- `TSTGE Dn` (R247). -/
  | tstge (n : DReg)
  /-- `IMAC [-]Da,Db,Dn` (R263). -/
  | imac (neg : Bool) (a : DReg) (b : DReg) (n : DReg)
  /-- `IMAC [-]Da,Da,Dn` (R263). -/
  | imacSame (neg : Bool) (a : DReg) (b : DReg) (n : DReg)
  /-- `IMACLHUU Da,Db,Dn` (R264). -/
  | imaclhuu (a : DReg) (b : DReg) (n : DReg)
  /-- `IMACUS Da,Db,Dn` (R265). -/
  | imacus (a : DReg) (b : DReg) (n : DReg)
  /-- `IMPY Da,Db,Dn` (R266). -/
  | impy (a : DReg) (b : DReg) (n : DReg)
  /-- `IMPY Da,Da,Dn` (R266). -/
  | impySame (a : DReg) (b : DReg) (n : DReg)
  /-- `IMPY.W #s16,Dn` (R267). -/
  | impyW (s : BitVec 16) (n : DReg)
  /-- `IMPYHLUU Da,Db,Dn` (R268). -/
  | impyhluu (a : DReg) (b : DReg) (n : DReg)
  /-- `IMPYSU Da,Db,Dn` (R269). -/
  | impysu (a : DReg) (b : DReg) (n : DReg)
  /-- `IMPYUU Da,Db,Dn` (R270). -/
  | impyuu (a : DReg) (b : DReg) (n : DReg)
  /-- `MAC [-]Da,Db,Dn` (R271). -/
  | mac (neg : Bool) (a : DReg) (b : DReg) (n : DReg)
  /-- `MAC [-]Da,Da,Dn` (R271). -/
  | macSame (neg : Bool) (a : DReg) (b : DReg) (n : DReg)
  /-- `MAC #s16,Da,Dn` (R271). -/
  | macImm (s : BitVec 16) (a : DReg) (n : DReg)
  /-- `MACR [-]Da,Db,Dn` (R272). -/
  | macr (neg : Bool) (a : DReg) (b : DReg) (n : DReg)
  /-- `MACR [-]Da,Da,Dn` (R272). -/
  | macrSame (neg : Bool) (a : DReg) (b : DReg) (n : DReg)
  /-- `MACSU Dc,Dd,Dn` (R273). -/
  | macsu (c : DReg) (d : DReg) (n : DReg)
  /-- `MACUS Dc,Dd,Dn` (R274). -/
  | macus (c : DReg) (d : DReg) (n : DReg)
  /-- `MACUU Dc,Dd,Dn` (R275). -/
  | macuu (c : DReg) (d : DReg) (n : DReg)
  /-- `MPY Da,Db,Dn` (R276). -/
  | mpy (a : DReg) (b : DReg) (n : DReg)
  /-- `MPY Da,Da,Dn` (R276). -/
  | mpySame (a : DReg) (b : DReg) (n : DReg)
  /-- `MPYR Da,Db,Dn` (R277). -/
  | mpyr (a : DReg) (b : DReg) (n : DReg)
  /-- `MPYR Da,Da,Dn` (R277). -/
  | mpyrSame (a : DReg) (b : DReg) (n : DReg)
  /-- `MPYSU Dc,Dd,Dn` (R278). -/
  | mpysu (c : DReg) (d : DReg) (n : DReg)
  /-- `MPYUS Dc,Dd,Dn` (R279). -/
  | mpyus (c : DReg) (d : DReg) (n : DReg)
  /-- `MPYUU Dc,Dd,Dn` (R280). -/
  | mpyuu (c : DReg) (d : DReg) (n : DReg)
  /-- `AND #0{u16},Da,Dn` (R290). -/
  | andImmLow (u : BitVec 16) (a : DReg) (n : DReg)
  /-- `AND #{u16}0000,Da,Dn` (R290). -/
  | andImmHigh (u : BitVec 16) (a : DReg) (n : DReg)
  /-- `AND Da,Dn` (R290). -/
  | andReg (a : DReg) (n : DReg)
  /-- `ASLL #u5,Dn` (R291). -/
  | asllImm (u : BitVec 5) (n : DReg)
  /-- `ASLL Da,Dn` (R291). -/
  | asllReg (a : DReg) (n : DReg)
  /-- `ASLW Da,Dn` (R292). -/
  | aslw (a : DReg) (n : DReg)
  /-- `ASRR #u5,Dn` (R293). -/
  | asrrImm (u : BitVec 5) (n : DReg)
  /-- `ASRR Da,Dn` (R293). -/
  | asrrReg (a : DReg) (n : DReg)
  /-- `ASRW Da,Dn` (R294). -/
  | asrw (a : DReg) (n : DReg)
  /-- `CLB Da,Dn` (R295). -/
  | clb (a : DReg) (n : DReg)
  /-- `EOR Da,Dn` (R296). -/
  | eorReg (a : DReg) (n : DReg)
  /-- `EXTRACT #U6,#u6,Db,Dn` (R297). -/
  | extractImm (w : BitVec 6) (o : BitVec 6) (b : DReg) (n : DReg)
  /-- `EXTRACT Da,Db,Dn` (R297). -/
  | extractReg (a : DReg) (b : DReg) (n : DReg)
  /-- `EXTRACTU #U6,#u6,Db,Dn` (R298). -/
  | extractuImm (w : BitVec 6) (o : BitVec 6) (b : DReg) (n : DReg)
  /-- `EXTRACTU Da,Db,Dn` (R298). -/
  | extractuReg (a : DReg) (b : DReg) (n : DReg)
  /-- `INSERT #U6,#u6,Db,Dn` (R299). -/
  | insertImm (w : BitVec 6) (o : BitVec 6) (b : DReg) (n : DReg)
  /-- `INSERT Da,Db,Dn` (R299). -/
  | insertReg (a : DReg) (b : DReg) (n : DReg)
  /-- `LSLL Da,Dn` (R300). -/
  | lsll (a : DReg) (n : DReg)
  /-- `LSR Dn` (R301). -/
  | lsr (n : DReg)
  /-- `LSRR #u5,Dn` (R302). -/
  | lsrrImm (u : BitVec 5) (n : DReg)
  /-- `LSRR Da,Dn` (R302). -/
  | lsrrReg (a : DReg) (n : DReg)
  /-- `LSRW Da,Dn` (R303). -/
  | lsrw (a : DReg) (n : DReg)
  /-- `NOT Da,Dn` (R304). -/
  | notReg (a : DReg) (n : DReg)
  /-- `OR Da,Dn` (R305). -/
  | orReg (a : DReg) (n : DReg)
  /-- `ROL Dn` (R306). -/
  | rol (n : DReg)
  /-- `ROR Dn` (R307). -/
  | ror (n : DReg)
  /-- `SXT.B Da,Dn` (R308). -/
  | sxtB (a : DReg) (n : DReg)
  /-- `SXT.L Dn` (R309). -/
  | sxtL (n : DReg)
  /-- `SXT.W Da,Dn` (R310). -/
  | sxtW (a : DReg) (n : DReg)
  /-- `ZXT.B Da,Dn` (R311). -/
  | zxtB (a : DReg) (n : DReg)
  /-- `ZXT.L Dn` (R312). -/
  | zxtL (n : DReg)
  /-- `ZXT.W Da,Dn` (R313). -/
  | zxtW (a : DReg) (n : DReg)
  /-- `ADDA #u5,Rx` (R322). -/
  | addaImm (u : BitVec 5) (x : Rx)
  /-- `ADDA #s16,rx,Rn` (R322). -/
  | addaImm16 (s : BitVec 16) (src : RxSrc) (n : RReg)
  /-- `ADDA rx,Rx` (R322). -/
  | addaReg (src : RxSrc) (x : Rx)
  /-- `ADDL1A rx,Rx` (R323). -/
  | addl1a (src : RxSrc) (x : Rx)
  /-- `ADDL2A rx,Rx` (R324). -/
  | addl2a (src : RxSrc) (x : Rx)
  /-- `ASL2A Rx` (R325). -/
  | asl2a (x : Rx)
  /-- `ASLA Rx` (R326). -/
  | asla (x : Rx)
  /-- `ASRA Rx` (R327). -/
  | asra (x : Rx)
  /-- `CMPEQA rx,Rx` (R328). -/
  | cmpeqa (src : RxSrc) (x : Rx)
  /-- `CMPGTA rx,Rx` (R329). -/
  | cmpgta (src : RxSrc) (x : Rx)
  /-- `CMPHIA rx,Rx` (R330). -/
  | cmphia (src : RxSrc) (x : Rx)
  /-- `DECA Rx (alias of SUBA #1,Rx)` (R331). -/
  | deca (x : Rx)
  /-- `DECEQA Rx` (R332). -/
  | deceqa (x : Rx)
  /-- `DECGEA Rx` (R333). -/
  | decgea (x : Rx)
  /-- `INCA Rx (alias of ADDA #1,Rx)` (R334). -/
  | inca (x : Rx)
  /-- `LSRA Rx` (R335). -/
  | lsra (x : Rx)
  /-- `SUBA #u5,Rx` (R336). -/
  | subaImm (u : BitVec 5) (x : Rx)
  /-- `SUBA rx,Rx` (R336). -/
  | subaReg (src : RxSrc) (x : Rx)
  /-- `SXTA.B rx,Rx` (R337). -/
  | sxtaB (src : RxSrc) (x : Rx)
  /-- `SXTA.W Rx` (R338). -/
  | sxtaW (x : Rx)
  /-- `TFRA rx,Rx` (R339). -/
  | tfra (src : RxSrc) (x : Rx)
  /-- `TFRA OSP,Rn` (R340). -/
  | tfraFromOsp (n : RReg)
  /-- `TFRA Rn,OSP` (R340). -/
  | tfraToOsp (n : RReg)
  /-- `TSTEQA.L Rx` (R341). -/
  | tsteqaL (x : Rx)
  /-- `TSTEQA.W Rx` (R342). -/
  | tsteqaW (x : Rx)
  /-- `TSTGEA.L Rx` (R343). -/
  | tstgeaL (x : Rx)
  /-- `TSTGTA Rx` (R344). -/
  | tstgta (x : Rx)
  /-- `ZXTA.B rx,Rx` (R345). -/
  | zxtaB (src : RxSrc) (x : Rx)
  /-- `ZXTA.W Rx` (R346). -/
  | zxtaW (x : Rx)
  /-- `MOVE.2F (EA),Da:Db` (R355). -/
  | move2f (ea : EaMode) (rn : RReg) (p : Pair)
  /-- `MOVE.2L (EA),Da:Db / Da:Db,(EA)` (R356). -/
  | move2l (dir : Dir) (ea : EaMode) (rn : RReg) (p : Pair)
  /-- `MOVE.2W (EA),Da:Db / Da:Db,(EA)` (R357). -/
  | move2w (dir : Dir) (ea : EaMode) (rn : RReg) (p : Pair)
  /-- `MOVE.4F (EA),Da:Db:Dc:Dd` (R358). -/
  | move4f (ea : EaMode) (rn : RReg) (q : Quad)
  /-- `MOVE.4W (EA),Da:Db:Dc:Dd / Da:Db:Dc:Dd,(EA)` (R359). -/
  | move4w (dir : Dir) (ea : EaMode) (rn : RReg) (q : Quad)
  /-- `MOVE.B (a16),DR`; `MOVE.B (ea),DR`; `MOVE.B (SP+s15),DR` (R360). -/
  | movebLoad (m : Mem) (dr : DR)
  /-- `MOVE.B DR,(a16)`; `MOVE.B DR,(a32)`; `MOVE.B DR,(Rn+s15)`; `MOVE.B DR,(ea)`; `MOVE.B DR,(SP+s15)` (R360). -/
  | movebStore (dr : DR) (m : Mem)
  /-- `MOVE.F #s16,Db` (R361). -/
  | movefImm (s : BitVec 16) (b : DReg)
  /-- `MOVE.F (a16),Db`; `MOVE.F (a32),Db`; `MOVE.F (EA),Db`; `MOVE.F (Rn+s15),Db`; `MOVE.F (SP+s15),Db` (R361). -/
  | movefLoad (m : Mem) (b : DReg)
  /-- `MOVE.F Db,(ea)` (R361). -/
  | movefStore (b : DReg) (m : Mem)
  /-- `MOVE.L #s32,C4` (R362). -/
  | movelImmC4 (v : BitVec 32) (c : C4)
  /-- `MOVE.L #u32,C1` (R362). -/
  | movelImmC1 (v : BitVec 32) (c : C1)
  /-- `MOVE.L C4,Db (w=1) / Db,C4 (w=0)` (R362). -/
  | movelC4 (dir : Dir) (c : C4) (b : DReg)
  /-- `MOVE.L C2,Db (w=1) / Db,C2 (w=0)` (R362). -/
  | movelC2 (dir : Dir) (c : C2) (b : DReg)
  /-- `MOVE.L (SP+s15),De.E`; `MOVE.L (a32),De.E` (R363). -/
  | movelExtEven (m : ExtMem) (e : Pair)
  /-- `MOVE.L Da.E:Db.E,(SP+s15)`; `MOVE.L Da.E:Db.E,(a32)` (R363). -/
  | movelExtStore (p : Pair) (m : ExtMem)
  /-- `MOVE.L (SP+s15),Do.E`; `MOVE.L (a32),Do.E` (R363). -/
  | movelExtOdd (m : ExtMem) (o : Pair)
  /-- `MOVE.L (a32),DR / DR,(a32)`; `MOVE.L (Rn+u3),DR / DR,(Rn+u3)`; `MOVE.L (Rn+s15),DR / DR,(Rn+s15)`; `MOVE.L
  (Rn+Rr),DR / DR,(Rn+Rr)`; `MOVE.L (EA),DR / DR,(EA)`; `MOVE.L (SP-u6),DR / DR,(SP-u6)` (R364). -/
  | movel (dir : Dir) (m : Mem) (dr : DR)
  /-- `MOVE.L (a16),C4 / C4,(a16)`; `MOVE.L (SP+s15),C4 / C4,(SP+s15)` (R364). -/
  | movelC4Mem (dir : Dir) (m : Mem) (c : C4)
  /-- `MOVE.L (Rn),C3 / C3,(Rn)` (R364). -/
  | movelC3 (dir : Dir) (rn : RReg) (c : C3)
  /-- `MOVE.W #s7,DR` (R365). -/
  | movewImm7 (s : BitVec 7) (dr : DR)
  /-- `MOVE.W #s16,C4` (R365). -/
  | movewImm16 (s : BitVec 16) (c : C4)
  /-- `MOVE.W #s16,(a16)`; `MOVE.W #s16,(SP-u5)`; `MOVE.W #s16,(Rn)`; `MOVE.W #s16,(SP+sa16)` (R365). -/
  | movewImmMem (s : BitVec 16) (ea : BmuMem)
  /-- `MOVE.W (a32),DR / DR,(a32)`; `MOVE.W (Rn+u3),DR / DR,(Rn+u3)`; `MOVE.W (Rn+s15),DR / DR,(Rn+s15)`; `MOVE.W
  (Rn+Rr),DR / DR,(Rn+Rr)`; `MOVE.W (EA),DR / DR,(EA)`; `MOVE.W (SP-u6),DR / DR,(SP-u6)` (R366). -/
  | movew (dir : Dir) (m : Mem) (dr : DR)
  /-- `MOVE.W (a16),C4 / C4,(a16)`; `MOVE.W (SP+s15),C4 / C4,(SP+s15)` (R366). -/
  | movewC4Mem (dir : Dir) (m : Mem) (c : C4)
  /-- `MOVE.W (Rn),C3 / C3,(Rn)` (R366). -/
  | movewC3 (dir : Dir) (rn : RReg) (c : C3)
  /-- `MOVET Rq,Rn` (R367). -/
  | movet (q : RReg) (n : RReg)
  /-- `MOVEF Rq,Rn` (R367). -/
  | movef (q : RReg) (n : RReg)
  /-- `MOVES.2F Da:Db,(EA)` (R368). -/
  | moves2f (p : Pair) (ea : EaMode) (rn : RReg)
  /-- `MOVES.4F Da:Db:Dc:Dd,(EA)` (R369). -/
  | moves4f (q : Quad) (ea : EaMode) (rn : RReg)
  /-- `MOVES.F Db,(a16)`; `MOVES.F Db,(a32)`; `MOVES.F Db,(Rn+s15)`; `MOVES.F Db,(EA)`; `MOVES.F Db,(SP+s15)` (R370). -/
  | movesf (b : DReg) (m : Mem)
  /-- `MOVES.L Db,(EA)` (R371). -/
  | moveslEa (b : DReg) (ea : EaMode) (rn : RReg)
  /-- `MOVEU.B (a16),DR`; `MOVEU.B (a32),DR`; `MOVEU.B (Rn+s15),DR`; `MOVEU.B (ea),DR`; `MOVEU.B (SP+s15),DR` (R373). -/
  | moveub (m : Mem) (dr : DR)
  /-- `MOVEU.L #u32,Db` (R374). -/
  | moveulImm (v : BitVec 32) (b : DReg)
  /-- `MOVEU.W #u16,Db.H` (R375). -/
  | moveuwHigh (u : BitVec 16) (b : DReg)
  /-- `MOVEU.W #u16,Db.L` (R375). -/
  | moveuwLow (u : BitVec 16) (b : DReg)
  /-- `MOVEU.W (a16),C4`; `MOVEU.W (SP+s15),C4` (R376). -/
  | moveuwC4 (m : Mem) (c : C4)
  /-- `MOVEU.W (a32),DR`; `MOVEU.W (Rn+s15),DR`; `MOVEU.W (EA),DR` (R376). -/
  | moveuw (m : Mem) (dr : DR)
  /-- `VSL.2F D1:D3,(Rn)+N0` (R377). -/
  | vsl2f (high : Bool) (rn : RReg)
  /-- `VSL.2W D1:D3,(Rn)+N0` (R378). -/
  | vsl2w (high : Bool) (rn : RReg)
  /-- `VSL.4F D2:D6:D1:D3,(Rn)+N0` (R379). -/
  | vsl4f (high : Bool) (rn : RReg)
  /-- `VSL.4W D2:D6:D1:D3,(Rn)+N0` (R380). -/
  | vsl4w (high : Bool) (rn : RReg)
  /-- `POP De` (R391). -/
  | popEven (e : PushEven)
  /-- `POP Do` (R391). -/
  | popOdd (o : PushOdd)
  /-- `POPN De` (R392). -/
  | popnEven (e : PushEven)
  /-- `POPN Do` (R392). -/
  | popnOdd (o : PushOdd)
  /-- `PUSH De` (R393). -/
  | pushEven (e : PushEven)
  /-- `PUSH Do` (R393). -/
  | pushOdd (o : PushOdd)
  /-- `PUSHN De` (R394). -/
  | pushnEven (e : PushEven)
  /-- `PUSHN Do` (R394). -/
  | pushnOdd (o : PushOdd)
  /-- `BMCLR #u16,DR.H (h=1) / DR.L (h=0)` (R399). -/
  | bmclrDr (m : BitVec 16) (half : Half) (dr : DR)
  /-- `BMCLR #u16,C1.H (h=1) / C1.L (h=0)` (R399). -/
  | bmclrC1 (m : BitVec 16) (half : Half) (c : C1)
  /-- `BMCLR.W #u16,(Rn)`; `BMCLR.W #u16,(SP-u5)`; `BMCLR.W #u16,(a16)`; `BMCLR.W #u16,(SP+s16)` (R400). -/
  | bmclrMem (m : BitVec 16) (ea : BmuMem)
  /-- `BMSET #u16,DR.H (h=1) / DR.L (h=0)` (R401). -/
  | bmsetDr (m : BitVec 16) (half : Half) (dr : DR)
  /-- `BMSET #u16,C1.H (h=1) / C1.L (h=0)` (R401). -/
  | bmsetC1 (m : BitVec 16) (half : Half) (c : C1)
  /-- `BMSET.W #u16,(Rn)`; `BMSET.W #u16,(SP-u5)`; `BMSET.W #u16,(a16)`; `BMSET.W #u16,(SP+s16)` (R402). -/
  | bmsetMem (m : BitVec 16) (ea : BmuMem)
  /-- `BMCHG #u16,DR.H (h=1) / DR.L (h=0)` (R397). -/
  | bmchgDr (m : BitVec 16) (half : Half) (dr : DR)
  /-- `BMCHG #u16,C1.H (h=1) / C1.L (h=0)` (R397). -/
  | bmchgC1 (m : BitVec 16) (half : Half) (c : C1)
  /-- `BMCHG.W #u16,(Rn)`; `BMCHG.W #u16,(SP-u5)`; `BMCHG.W #u16,(a16)`; `BMCHG.W #u16,(SP+s16)` (R398). -/
  | bmchgMem (m : BitVec 16) (ea : BmuMem)
  /-- `BMTSTC #u16,DR.H (h=1) / DR.L (h=0)` (R405). -/
  | bmtstcDr (m : BitVec 16) (half : Half) (dr : DR)
  /-- `BMTSTC #u16,C1.H (h=1) / C1.L (h=0)` (R405). -/
  | bmtstcC1 (m : BitVec 16) (half : Half) (c : C1)
  /-- `BMTSTC.W #u16,(Rn)`; `BMTSTC.W #u16,(SP-u5)`; `BMTSTC.W #u16,(a16)`; `BMTSTC.W #u16,(SP+s16)` (R406). -/
  | bmtstcMem (m : BitVec 16) (ea : BmuMem)
  /-- `BMTSTS #u16,DR.H (h=1) / DR.L (h=0)` (R407). -/
  | bmtstsDr (m : BitVec 16) (half : Half) (dr : DR)
  /-- `BMTSTS #u16,C1.H (h=1) / C1.L (h=0)` (R407). -/
  | bmtstsC1 (m : BitVec 16) (half : Half) (c : C1)
  /-- `BMTSTS.W #u16,(Rn)`; `BMTSTS.W #u16,(SP-u5)`; `BMTSTS.W #u16,(a16)`; `BMTSTS.W #u16,(SP+s16)` (R408). -/
  | bmtstsMem (m : BitVec 16) (ea : BmuMem)
  /-- `BMTSET #u16,DR.H (h=1) / DR.L (h=0)` (R403). -/
  | bmtsetDr (m : BitVec 16) (half : Half) (dr : DR)
  /-- `BMTSET.W #u16,(Rn)`; `BMTSET.W #u16,(SP-u5)`; `BMTSET.W #u16,(a16)`; `BMTSET.W #u16,(SP+s16)` (R404). -/
  | bmtsetMem (m : BitVec 16) (ea : BmuMem)
  /-- `AND #u16,DR.L / DR.H (alias of BMCLR #~u16)` (R395). -/
  | andDr (m : BitVec 16) (half : Half) (dr : DR)
  /-- `AND.W #u16,<mem> (alias of BMCLR.W #~u16)` (R396). -/
  | andMem (m : BitVec 16) (ea : BmuMem)
  /-- `EOR #u16,DR.L / DR.H (alias of BMCHG)` (R409). -/
  | eorDr (m : BitVec 16) (half : Half) (dr : DR)
  /-- `EOR.W #u16,<mem> (alias of BMCHG.W)` (R410). -/
  | eorMem (m : BitVec 16) (ea : BmuMem)
  /-- `NOT DR.L / DR.H (alias of BMCHG #$ffff)` (R411). -/
  | notDr (half : Half) (dr : DR)
  /-- `NOT.W <mem> (alias of BMCHG.W #$ffff)` (R412). -/
  | notMem (ea : BmuMem)
  /-- `OR #u16,DR.L / DR.H (alias of BMSET)` (R413). -/
  | orDr (m : BitVec 16) (half : Half) (dr : DR)
  /-- `OR.W #u16,<mem> (alias of BMSET.W)` (R414). -/
  | orMem (m : BitVec 16) (ea : BmuMem)
  /-- `BRAD <label (short)`; `BRAD >label (long)` (R427). -/
  | brad (d : Disp10)
  /-- `BRA <label (short)`; `BRA >label (long)` (R426). -/
  | bra (d : Disp10)
  /-- `BSRD <label (short)`; `BSRD >label (long)` (R429). -/
  | bsrd (d : Disp8)
  /-- `BSR <label (short)`; `BSR >label (long)` (R428). -/
  | bsr (d : Disp8)
  /-- `BTD <label (short)`; `BTD >label (long)` (R431). -/
  | btd (d : Disp8)
  /-- `BT <label (short)`; `BT >label (long)` (R430). -/
  | bt (d : Disp8)
  /-- `BFD <label (short)`; `BFD >label (long)` (R425). -/
  | bfd (d : Disp8)
  /-- `BF <label (short)`; `BF >label (long)` (R424). -/
  | bf (d : Disp8)
  /-- `JMPD label`; `JMPD Rn` (R435). -/
  | jmpd (t : JumpTo)
  /-- `JMP label`; `JMP Rn` (R434). -/
  | jmp (t : JumpTo)
  /-- `JSRD label`; `JSRD Rn` (R437). -/
  | jsrd (t : JumpTo)
  /-- `JSR label`; `JSR Rn` (R436). -/
  | jsr (t : JumpTo)
  /-- `JTD label`; `JTD Rn` (R439). -/
  | jtd (t : JumpTo)
  /-- `JT label`; `JT Rn` (R438). -/
  | jt (t : JumpTo)
  /-- `JFD label`; `JFD Rn` (R433). -/
  | jfd (t : JumpTo)
  /-- `JF label`; `JF Rn` (R432). -/
  | jf (t : JumpTo)
  /-- `BREAK label` (R451). -/
  | break_ (d : BitVec 16)
  /-- `SKIPLS label` (R457). -/
  | skipls (d : BitVec 16)
  /-- `CONTD label` (R453). -/
  | contd (d : BitVec 16)
  /-- `CONT label` (R452). -/
  | cont (d : BitVec 16)
  /-- `DOSETUPn label` (R456). -/
  | dosetup (l : LoopIx) (d : BitVec 16)
  /-- `DOENn #u6`; `DOENn #u16`; `DOENn DR` (R454). -/
  | doen (l : LoopIx) (c : LoopCount)
  /-- `DOENSHn #u6`; `DOENSHn #u16`; `DOENSHn DR` (R455). -/
  | doensh (l : LoopIx) (c : LoopCount)
  /-- `ILLEGAL` (R474). -/
  | illegal (c : Fin 3)
  /-- `one-word prefix (IFc via ccc, LPMARKA j, LPMARKB p)` (R478). -/
  | prefix1 (aaa : BitVec 3) (p : Bool) (j : Bool) (ccc : BitVec 3)
  /-- `two-word prefix (IFc via ccc, LPMARKA j, LPMARKB p, high-register bits)` (R478). -/
  | prefix2 (aaa : BitVec 3) (hb : BitVec 16) (p : Bool) (j : Bool) (ccc : BitVec 3)
  /-- `IFA (prefix ccc)` (R478). -/
  | ifa (aaa : BitVec 3)
  /-- `IFF (prefix ccc)` (R479). -/
  | iff (aaa : BitVec 3)
  /-- `IFT (prefix ccc)` (R480). -/
  | ift (aaa : BitVec 3)
  /-- `LPMARKA (prefix bit j = 1)` (R481). -/
  | lpmarka (aaa : BitVec 3)
  /-- `LPMARKB (prefix bit p = 1)` (R481). -/
  | lpmarkb (aaa : BitVec 3)
  /-- `RTE` (R440). -/
  | rte
  /-- `RTED` (R441). -/
  | rted
  /-- `RTS` (R442). -/
  | rts
  /-- `RTSD` (R443). -/
  | rtsd
  /-- `RTSTK` (R444). -/
  | rtstk
  /-- `RTSTKD` (R445). -/
  | rtstkd
  /-- `TRAP` (R446). -/
  | trap
  /-- `DEBUG` (R470). -/
  | debug
  /-- `DEBUGEV` (R471). -/
  | debugev
  /-- `DI` (R472). -/
  | di
  /-- `EI` (R473). -/
  | ei
  /-- `MARK` (R475). -/
  | mark
  /-- `STOP` (R476). -/
  | stop
  /-- `WAIT` (R477). -/
  | wait
  /-- `NOP` (R482). -/
  | nop
  deriving DecidableEq, Repr

end Sys2Proof
end

