-- ==== Sys2Proof/WellFormed.lean ====
section
/-! DEFINITION. Which instructions can be encoded: the operand tables of spec/30_encoding.md R163 to R165, and the operands
that an instruction's own page excludes. -/

namespace Sys2Proof

/-- The register pairs of JJJJJ, code 0 first, as numbers of the low bank (R163). -/
def pairTable : List (Nat × Nat) :=
  [(0,4), (0,5), (0,6), (0,7), (1,4), (1,5), (1,6), (1,7), (2,4), (2,5), (2,6), (2,7), (3,4), (3,5), (3,6), (3,7),
   (0,0), (0,1), (0,2), (0,3), (4,4), (4,5), (4,6), (4,7), (1,2), (1,3), (5,6), (5,7), (2,2), (2,3), (6,6), (6,7)]

/-- Is (a, b) a pair of JJJJJ (each register in either bank)? -/
def pairOk (a b : DReg) : Bool := pairTable.contains (a.val % 8, b.val % 8)
/-- Is (a, b) a pair of jj: one odd register, each reading in either bank (R164, R156)? -/
def sameOk (a b : DReg) : Bool := a.val % 8 == b.val % 8 && a.val % 2 == 1
/-- Is (c, d) a pair of ee (R165)? -/
def eeOk (c d : DReg) : Bool := c.val % 2 == 0 && d.val % 8 == c.val % 8 + 1
/-- Is (g, h) a pair of GG (R165)? -/
def ggOk (g h : DReg) : Bool := decide (g.val % 8 < 4) && h.val % 8 == g.val % 8 + 4
/-- A ccc value that is not reserved (R155). -/
def cccOk (c : BitVec 3) : Bool := c != 4#3 && c != 5#3
/-- A one-word prefix that none of NOP, IFA, IFT, IFF, LPMARKA, LPMARKB names whole (R478 to R482). -/
def prefixMixed (p j : Bool) (ccc : BitVec 3) : Bool :=
  !((ccc == 0#3 && !(p && j)) || ((ccc == 2#3 || ccc == 3#3) && !p && !j))

/-- The forms of a `Mem` operand; `eaShort` are the MM modes (R351). -/
inductive MemForm where
  | ea | eaShort | disp | short | index | abs16 | abs32 | sp | spShort
  deriving DecidableEq, Repr

/-- Is the operand of one of these forms? -/
def Mem.among (m : Mem) (forms : List MemForm) : Bool :=
  match m with
  | .ea (.postN _) _ => forms.contains .ea
  | .ea _ _ => forms.contains .ea || forms.contains .eaShort
  | .disp _ _ => forms.contains .disp
  | .short _ _ => forms.contains .short
  | .index _ _ => forms.contains .index
  | .abs16 _ => forms.contains .abs16
  | .abs32 _ => forms.contains .abs32
  | .sp _ => forms.contains .sp
  | .spShort _ => forms.contains .spShort

/-- The well-formed instructions: those that an execution set can hold. -/
def Instr.WF : Instr → Bool
  | .abs _ => true
  | .addImm _ _ => true
  | .addReg a b _ => pairOk a b
  | .addSame a b _ => sameOk a b
  | .add2 _ _ => true
  | .addnc _ _ _ => true
  | .adr _ _ => true
  | .asl _ _ => true
  | .asr _ _ => true
  | .clr _ _ => true
  | .cmpeq _ _ => true
  | .cmpeqU _ _ => true
  | .cmpeqS _ _ => true
  | .cmpgt _ _ => true
  | .cmpgtU _ _ => true
  | .cmpgtS _ _ => true
  | .cmphi _ _ => true
  | .decge _ => true
  | .div _ _ => true
  | .iaddnc _ _ => true
  | .inc _ => true
  | .incListed _ => true
  | .incF _ => true
  | .max g h => ggOk g h
  | .max2vitA a b => a.val % 8 == 4 && b.val % 8 == 2
  | .max2vitB a b => a.val % 8 == 0 && b.val % 8 == 6
  | .min g h => ggOk g h
  | .neg _ => true
  | .rnd _ _ => true
  | .satL _ => true
  | .sbc c d => eeOk c d
  | .sbr _ _ => true
  | .subImm _ _ => true
  | .subReg a b _ => pairOk a b
  | .subRegSwap a b _ => pairOk a b
  | .subSame a b _ => sameOk a b
  | .sub2 _ _ => true
  | .subl _ _ => true
  | .subnc _ _ => true
  | .tfr _ _ => true
  | .tfrf _ _ => true
  | .tfrt _ _ => true
  | .tsteq _ => true
  | .tstge _ => true
  | .imac _ a b _ => pairOk a b
  | .imacSame _ a b _ => sameOk a b
  | .imaclhuu _ _ _ => true
  | .imacus _ _ _ => true
  | .impy a b _ => pairOk a b
  | .impySame a b _ => sameOk a b
  | .impyW _ _ => true
  | .impyhluu _ _ _ => true
  | .impysu _ _ _ => true
  | .impyuu _ _ _ => true
  | .mac _ a b _ => pairOk a b
  | .macSame _ a b _ => sameOk a b
  | .macImm _ _ _ => true
  | .macr _ a b _ => pairOk a b
  | .macrSame _ a b _ => sameOk a b
  | .macsu c d _ => eeOk c d
  | .macus c d _ => eeOk c d
  | .macuu c d _ => eeOk c d
  | .mpy a b _ => pairOk a b
  | .mpySame a b _ => sameOk a b
  | .mpyr a b _ => pairOk a b
  | .mpyrSame a b _ => sameOk a b
  | .mpysu c d _ => eeOk c d
  | .mpyus c d _ => eeOk c d
  | .mpyuu c d _ => eeOk c d
  | .andImmLow _ _ _ => true
  | .andImmHigh _ _ _ => true
  | .andReg _ _ => true
  | .asllImm _ _ => true
  | .asllReg _ _ => true
  | .aslw _ _ => true
  | .asrrImm _ _ => true
  | .asrrReg _ _ => true
  | .asrw _ _ => true
  | .clb _ _ => true
  | .eorReg _ _ => true
  | .extractImm _ _ _ _ => true
  | .extractReg _ _ _ => true
  | .extractuImm _ _ _ _ => true
  | .extractuReg _ _ _ => true
  | .insertImm _ _ _ _ => true
  | .insertReg _ _ _ => true
  | .lsll _ _ => true
  | .lsr _ => true
  | .lsrrImm _ _ => true
  | .lsrrReg _ _ => true
  | .lsrw _ _ => true
  | .notReg _ _ => true
  | .orReg _ _ => true
  | .rol _ => true
  | .ror _ => true
  | .sxtB _ _ => true
  | .sxtL _ => true
  | .sxtW _ _ => true
  | .zxtB _ _ => true
  | .zxtL _ => true
  | .zxtW _ _ => true
  | .addaImm _ _ => true
  | .addaImm16 _ _ _ => true
  | .addaReg _ _ => true
  | .addl1a _ _ => true
  | .addl2a _ _ => true
  | .asl2a _ => true
  | .asla _ => true
  | .asra _ => true
  | .cmpeqa _ _ => true
  | .cmpgta _ _ => true
  | .cmphia _ _ => true
  | .deca x => x != .sp
  | .deceqa x => x != .sp
  | .decgea x => x != .sp
  | .inca x => x != .sp
  | .lsra _ => true
  | .subaImm _ _ => true
  | .subaReg _ _ => true
  | .sxtaB _ _ => true
  | .sxtaW _ => true
  | .tfra _ _ => true
  | .tfraFromOsp _ => true
  | .tfraToOsp _ => true
  | .tsteqaL _ => true
  | .tsteqaW _ => true
  | .tstgeaL _ => true
  | .tstgta _ => true
  | .zxtaB _ _ => true
  | .zxtaW _ => true
  | .move2f _ _ _ => true
  | .move2l _ _ _ _ => true
  | .move2w _ _ _ _ => true
  | .move4f _ _ _ => true
  | .move4w _ _ _ _ => true
  | .movebLoad m _ => m.among [.eaShort, .abs16, .sp]
  | .movebStore _ m => m.among [.eaShort, .disp, .abs16, .abs32, .sp]
  | .movefImm _ _ => true
  | .movefLoad m _ => m.among [.ea, .disp, .abs16, .abs32, .sp]
  | .movefStore _ m => m.among [.eaShort]
  | .movelImmC4 _ _ => true
  | .movelImmC1 _ _ => true
  | .movelC4 _ _ _ => true
  | .movelC2 _ _ _ => true
  | .movelExtEven _ _ => true
  | .movelExtStore _ _ => true
  | .movelExtOdd _ _ => true
  | .movel _ m _ => m.among [.ea, .disp, .short, .index, .abs32, .spShort]
  | .movelC4Mem _ m _ => m.among [.abs16, .sp]
  | .movelC3 _ _ _ => true
  | .movewImm7 _ _ => true
  | .movewImm16 _ _ => true
  | .movewImmMem _ _ => true
  | .movew _ m _ => m.among [.ea, .disp, .short, .index, .abs32, .spShort]
  | .movewC4Mem _ m _ => m.among [.abs16, .sp]
  | .movewC3 _ _ _ => true
  | .movet _ _ => true
  | .movef _ _ => true
  | .moves2f _ _ _ => true
  | .moves4f _ _ _ => true
  | .movesf _ m => m.among [.ea, .disp, .abs16, .abs32, .sp]
  | .moveslEa _ _ _ => true
  | .moveub m _ => m.among [.eaShort, .disp, .abs16, .abs32, .sp]
  | .moveulImm _ _ => true
  | .moveuwHigh _ _ => true
  | .moveuwLow _ _ => true
  | .moveuwC4 m _ => m.among [.abs16, .sp]
  | .moveuw m _ => m.among [.ea, .disp, .abs32]
  | .vsl2f _ _ => true
  | .vsl2w _ _ => true
  | .vsl4f _ _ => true
  | .vsl4w _ _ => true
  | .popEven _ => true
  | .popOdd _ => true
  | .popnEven _ => true
  | .popnOdd _ => true
  | .pushEven _ => true
  | .pushOdd _ => true
  | .pushnEven _ => true
  | .pushnOdd _ => true
  | .bmclrDr _ _ _ => true
  | .bmclrC1 _ _ _ => true
  | .bmclrMem _ _ => true
  | .bmsetDr _ _ _ => true
  | .bmsetC1 _ _ _ => true
  | .bmsetMem _ _ => true
  | .bmchgDr _ _ _ => true
  | .bmchgC1 _ _ _ => true
  | .bmchgMem _ _ => true
  | .bmtstcDr _ _ _ => true
  | .bmtstcC1 _ _ _ => true
  | .bmtstcMem _ _ => true
  | .bmtstsDr _ _ _ => true
  | .bmtstsC1 _ _ _ => true
  | .bmtstsMem _ _ => true
  | .bmtsetDr _ _ _ => true
  | .bmtsetMem _ _ => true
  | .andDr _ _ _ => true
  | .andMem _ _ => true
  | .eorDr _ _ _ => true
  | .eorMem _ _ => true
  | .notDr _ _ => true
  | .notMem _ => true
  | .orDr _ _ _ => true
  | .orMem _ _ => true
  | .brad _ => true
  | .bra _ => true
  | .bsrd _ => true
  | .bsr _ => true
  | .btd _ => true
  | .bt _ => true
  | .bfd _ => true
  | .bf _ => true
  | .jmpd _ => true
  | .jmp _ => true
  | .jsrd _ => true
  | .jsr _ => true
  | .jtd _ => true
  | .jt _ => true
  | .jfd _ => true
  | .jf _ => true
  | .break_ _ => true
  | .skipls _ => true
  | .contd _ => true
  | .cont _ => true
  | .dosetup _ _ => true
  | .doen _ _ => true
  | .doensh _ _ => true
  | .illegal _ => true
  | .prefix1 _ p j ccc => cccOk ccc && prefixMixed p j ccc
  | .prefix2 aaa _ _ _ ccc => cccOk ccc && aaa != 0#3 && aaa != 1#3
  | .ifa aaa => aaa != 0#3
  | .iff _ => true
  | .ift _ => true
  | .lpmarka _ => true
  | .lpmarkb _ => true
  | .rte => true
  | .rted => true
  | .rts => true
  | .rtsd => true
  | .rtstk => true
  | .rtstkd => true
  | .trap => true
  | .debug => true
  | .debugev => true
  | .di => true
  | .ei => true
  | .mark => true
  | .stop => true
  | .wait => true
  | .nop => true

end Sys2Proof
end

