-- ==== Sys2Proof/Decode.lean ====
section
/-! DEFINITION. From words to instructions and back (spec/30_encoding.md).  A `Row` is one row of spec/opcode_table.json:
its fixed bits, where its fields' bits stand, and what it builds.  Words are numbered as the table numbers them: bit 0 is the
least significant bit of the first word, the second word is bits 31..16, the third bits 47..32. -/

namespace Sys2Proof

/-- The high-bank bits that a prefix gives one instruction (R156): E1, E2, E3 of its DALU unit, H (or T) and h (or t) of its
AGU unit. -/
structure Bank where
  e1 : Bool
  e2 : Bool
  e3 : Bool
  hi : Bool
  lo : Bool
  deriving DecidableEq, Repr

/-- No two-word prefix: every register is of the low bank. -/
def Bank.zero : Bank := ⟨false, false, false, false, false⟩

/-! ### Operand fields -/

/-- A three-bit register field with its high-bank bit (R160, R161, R156). -/
def regOf (hi : Bool) (v : Nat) : Fin 16 := Fin.ofNat 16 (v % 8 + if hi then 8 else 0)
/-- The three-bit code of a register. -/
def regCode (n : Fin 16) : Nat := n.val % 8
/-- The high-bank bit of a register. -/
def regHigh (n : Fin 16) : Bool := decide (8 ≤ n.val)

/-- JJJJJ (R163). -/
def pairOf (k2 k1 : Bool) (v : Nat) : DReg × DReg :=
  let p := (pairTable[v]?).getD (0, 0)
  (regOf k2 p.1, regOf k1 p.2)
/-- The JJJJJ code of a pair of registers. -/
def pairCode (a b : DReg) : Nat := pairTable.idxOf (regCode a, regCode b)
/-- jj (R164). -/
def sameOf (k2 k1 : Bool) (v : Nat) : DReg × DReg := (regOf k2 (2 * v + 1), regOf k1 (2 * v + 1))
/-- The jj code. -/
def sameCode (a : DReg) : Nat := regCode a / 2
/-- ee (R165). -/
def eeOf (kc kd : Bool) (v : Nat) : DReg × DReg := (regOf kc (2 * v), regOf kd (2 * v + 1))
/-- The ee code. -/
def eeCode (c : DReg) : Nat := regCode c / 2
/-- GG (R165). -/
def ggOf (kg kh : Bool) (v : Nat) : DReg × DReg := (regOf kg (v % 4), regOf kh (v % 4 + 4))
/-- The GG code. -/
def ggCode (g : DReg) : Nat := regCode g % 4

/-- HHHH (R166). -/
def drOf (k : Bool) (v : Nat) : DR := if v < 8 then .d (regOf k v) else .r (regOf k v)
/-- The HHHH code. -/
def drCode : DR → Nat
  | .d n => regCode n
  | .r n => 8 + regCode n
/-- The h bit that a DR needs. -/
def drHigh : DR → Bool
  | .d n => regHigh n
  | .r n => regHigh n

/-- DDDDD of C4 (R167). -/
def c4Of (k : Bool) (v : Nat) : C4 :=
  let i := v / 2
  if v % 2 = 0 then (if i < 8 then .d (regOf k i) else .r (regOf k i))
  else if i < 8 then .b (Fin.ofNat 8 i)
  else if i < 12 then .n (Fin.ofNat 4 i) else .m (Fin.ofNat 4 i)
/-- The DDDDD code. -/
def c4Code : C4 → Nat
  | .d n => 2 * regCode n
  | .r n => 16 + 2 * regCode n
  | .b k => 2 * k.val + 1
  | .n k => 17 + 2 * k.val
  | .m k => 25 + 2 * k.val
/-- The h bit that a C4 needs. -/
def c4High : C4 → Bool
  | .d n => regHigh n
  | .r n => regHigh n
  | .b _ => false
  | .n _ => false
  | .m _ => false

/-- DDDD of C3 (R168). -/
def c3Of (v : Nat) : C3 :=
  if v < 8 then .b (Fin.ofNat 8 v) else if v < 12 then .n (Fin.ofNat 4 v) else .m (Fin.ofNat 4 v)
/-- The DDDD code. -/
def c3Code : C3 → Nat
  | .b k => k.val
  | .n k => 8 + k.val
  | .m k => 12 + k.val

/-- CCC (R170); the other codes are not assigned. -/
def c1Of (v : Nat) : Option C1 :=
  if v = 0 then some .emr else if v = 1 then some .vba else if v = 5 then some .sr
  else if v = 7 then some .mctl else none
/-- The CCC code. -/
def c1Code : C1 → Nat
  | .emr => 0
  | .vba => 1
  | .sr => 5
  | .mctl => 7

/-- CCCC (R169); 0010, 0011, 0100, 0110 are not assigned. -/
def c2Of (v : Nat) : Option C2 :=
  if v = 0 then some .emr else if v = 1 then some .vba else if v = 5 then some .sr
  else if v = 7 then some .mctl
  else if v < 8 then none
  else if v % 2 = 0 then some (.sa (Fin.ofNat 4 (v / 2))) else some (.lc (Fin.ofNat 4 (v / 2)))
/-- The CCCC code. -/
def c2Code : C2 → Nat
  | .emr => 0
  | .vba => 1
  | .sr => 5
  | .mctl => 7
  | .sa k => 8 + 2 * k.val
  | .lc k => 9 + 2 * k.val

/-- RRRR (R171); 0100, 0101, 0110 are not assigned. -/
def rxOf (k : Bool) (v : Nat) : Option Rx :=
  if v < 4 then some (.n (Fin.ofNat 4 v)) else if v < 7 then none
  else if v = 7 then some .sp else some (.r (regOf k v))
/-- The RRRR code. -/
def rxCode : Rx → Nat
  | .n k => k.val
  | .sp => 7
  | .r n => 8 + regCode n
/-- The H bit that an Rx needs. -/
def rxHigh : Rx → Bool
  | .n _ => false
  | .sp => false
  | .r n => regHigh n

/-- rrrr (R171); 0100, 0101 are not assigned. -/
def rxSrcOf (k : Bool) (v : Nat) : Option RxSrc :=
  if v < 4 then some (.n (Fin.ofNat 4 v)) else if v < 6 then none else if v = 6 then some .pc
  else if v = 7 then some .sp else some (.r (regOf k v))
/-- The rrrr code. -/
def rxSrcCode : RxSrc → Nat
  | .n k => k.val
  | .pc => 6
  | .sp => 7
  | .r n => 8 + regCode n
/-- The h bit that an rx needs. -/
def rxSrcHigh : RxSrc → Bool
  | .n _ => false
  | .pc => false
  | .sp => false
  | .r n => regHigh n

/-- MMM (R351). -/
def eaOf (v : Nat) : EaMode :=
  if v = 0 then .indexN0 else if v = 1 then .postDec else if v = 2 then .plain
  else if v = 3 then .postInc else .postN (Fin.ofNat 4 v)
/-- The MMM code. -/
def eaCode : EaMode → Nat
  | .indexN0 => 0
  | .postDec => 1
  | .plain => 2
  | .postInc => 3
  | .postN k => 4 + k.val

/-- MM (R351). -/
def eaShortOf (v : Nat) : EaMode :=
  if v = 0 then .postInc else if v = 1 then .postDec else if v = 2 then .indexN0 else .plain
/-- The MM code; (Rn)+Ni has none. -/
def eaShortCode : EaMode → Nat
  | .postInc => 0
  | .postDec => 1
  | .indexN0 => 2
  | .plain => 3
  | .postN _ => 0

/-- hh, ff, QQ or qq with the h bit (R162, R165). -/
def pair8Of (k : Bool) (v : Nat) : Pair := Fin.ofNat 8 (v % 4 + if k then 4 else 0)
/-- The two-bit code of a pair. -/
def pair8Code (p : Pair) : Nat := p.val % 4
/-- The h bit that a pair needs. -/
def pair8High (p : Pair) : Bool := decide (4 ≤ p.val)
/-- The quad bit with the h bit (R165). -/
def quadOf (k : Bool) (v : Nat) : Quad := Fin.ofNat 4 (v % 2 + if k then 2 else 0)
/-- The quad bit. -/
def quadCode (q : Quad) : Nat := q.val % 2
/-- The h bit that a quad needs. -/
def quadHigh (q : Quad) : Bool := decide (2 ≤ q.val)

/-- EEEEE (R416): bits 4, 3:2 and 1:0 of the field. -/
def evenOf (k : Bool) (v : Nat) : Option PushEven :=
  let i := v / 4 % 4
  let kind := v % 4
  let high : Fin 8 := Fin.ofNat 8 (i + if k then 4 else 0)
  if v < 16 then
    (if kind = 0 then some (.d high) else if kind = 1 then some (.b (Fin.ofNat 4 i))
     else if kind = 2 then none else some (.ext high))
  else
    (if kind = 0 then some (.r high)
     else if kind = 1 then (if i < 2 then some (.n (Fin.ofNat 2 i)) else some (.m (Fin.ofNat 2 i)))
     else if kind = 2 then some (.sa (Fin.ofNat 4 i)) else some (.extPair high))
/-- The EEEEE code. -/
def evenCode : PushEven → Nat
  | .d i => 4 * (i.val % 4)
  | .b i => 4 * i.val + 1
  | .ext i => 4 * (i.val % 4) + 3
  | .r i => 16 + 4 * (i.val % 4)
  | .n i => 17 + 4 * i.val
  | .m i => 25 + 4 * i.val
  | .sa k => 18 + 4 * k.val
  | .extPair i => 19 + 4 * (i.val % 4)
/-- The h bit that a De needs. -/
def evenHigh : PushEven → Bool
  | .d i => decide (4 ≤ i.val)
  | .r i => decide (4 ≤ i.val)
  | .ext i => decide (4 ≤ i.val)
  | .extPair i => decide (4 ≤ i.val)
  | .b _ => false
  | .n _ => false
  | .m _ => false
  | .sa _ => false

/-- eeeee (R416). -/
def oddOf (k : Bool) (v : Nat) : Option PushOdd :=
  let i := v / 4 % 4
  let kind := v % 4
  let high : Fin 8 := Fin.ofNat 8 (i + if k then 4 else 0)
  if v < 16 then
    (if kind = 0 then some (.d high) else if kind = 1 then some (.b (Fin.ofNat 4 i))
     else if kind = 2 then
       (if i = 0 then some .vba else if i = 2 then some .sr else if i = 3 then some .mctl else none)
     else some (.ext high))
  else
    (if kind = 0 then some (.r high)
     else if kind = 1 then (if i < 2 then some (.n (Fin.ofNat 2 i)) else some (.m (Fin.ofNat 2 i)))
     else if kind = 2 then some (.lc (Fin.ofNat 4 i)) else none)
/-- The eeeee code. -/
def oddCode : PushOdd → Nat
  | .d i => 4 * (i.val % 4)
  | .b i => 4 * i.val + 1
  | .vba => 2
  | .sr => 10
  | .mctl => 14
  | .ext i => 4 * (i.val % 4) + 3
  | .r i => 16 + 4 * (i.val % 4)
  | .n i => 17 + 4 * i.val
  | .m i => 25 + 4 * i.val
  | .lc k => 18 + 4 * k.val
/-- The h bit that a Do needs. -/
def oddHigh : PushOdd → Bool
  | .d i => decide (4 ≤ i.val)
  | .r i => decide (4 ≤ i.val)
  | .ext i => decide (4 ≤ i.val)
  | .b _ => false
  | .n _ => false
  | .m _ => false
  | .lc _ => false
  | .vba => false
  | .sr => false
  | .mctl => false

/-- The w bit (R364). -/
def dirOf (v : Nat) : Dir := if v = 0 then .write else .read
/-- The w bit of a direction. -/
def dirCode : Dir → Nat
  | .write => 0
  | .read => 1
/-- The h bit of a bit-mask instruction (R390). -/
def halfOf (v : Nat) : Half := if v = 0 then .low else .high
/-- The h bit of a half. -/
def halfCode : Half → Nat
  | .low => 0
  | .high => 1
/-- The low cells of ILLEGAL (R474): $9E78, $9E79 and $9E7A. -/
def candOf (v : Nat) : Option (Fin 3) := if h : v < 3 then some ⟨v, h⟩ else none

/-! ### Rows -/

/-- A field's value: its pieces, most significant first, each `(lowest bit, width)` (R14(c)). -/
def getField (w : Nat) (segs : List (Nat × Nat)) : Nat :=
  segs.foldl (fun acc s => acc * 2 ^ s.2 + (w >>> s.1) % 2 ^ s.2) 0

/-- The width of a field. -/
def fieldWidth (segs : List (Nat × Nat)) : Nat := (segs.map Prod.snd).sum

/-- The bits of a field's value, each piece at its place. -/
def putField (v : Nat) : List (Nat × Nat) → Nat
  | [] => 0
  | s :: rest => ((v >>> fieldWidth rest) % 2 ^ s.2) <<< s.1 + putField v rest

/-- One row of the opcode table. -/
structure Row where
  /-- how many words -/
  words : Nat
  /-- the fixed bits -/
  mask : Nat
  /-- and their values -/
  mat : Nat
  /-- bits outside `mask` that the encoder sets: the `*` of a Type 1 row (R152) -/
  star : Nat
  /-- the fields -/
  fields : List (List (Nat × Nat))
  /-- the instruction, from the bank bits and the fields' values; `none` for a code that is not assigned (R179) -/
  build : Bank → List Nat → Option Instr

/-- Does a row's pattern match? -/
def Row.hits (r : Row) (w : Nat) : Bool := w &&& r.mask == r.mat

/-- The fields' values. -/
def Row.unpack (r : Row) (w : Nat) : List Nat := r.fields.map (getField w)

/-- The fields' bits. -/
def packFields : List (List (Nat × Nat)) → List Nat → Nat
  | f :: fs, v :: vs => putField v f + packFields fs vs
  | _, _ => 0

/-- The words of a row with these field values, as one number. -/
def Row.pack (r : Row) (vals : List Nat) : Nat := r.mat + r.star + packFields r.fields vals

/-- `ABS Dn` (R210): `0*10 01FF F110 0110`. -/
def rowAbs : Row :=
  { words := 1, mask := 0xBC7F, mat := 0x2466, star := 0x4000
    fields := [[(7, 3)]]
    build := fun k vs => match vs with
      | [v0] => some (.abs (regOf k.e3 v0))
      | _ => none }

/-- `ADD #u5,Dn` (R212): `0*11 10FF F10i iiii`. -/
def rowAddImm : Row :=
  { words := 1, mask := 0xBC60, mat := 0x3840, star := 0x4000
    fields := [[(0, 5)], [(7, 3)]]
    build := fun k vs => match vs with
      | [v0, v1] => some (.addImm (BitVec.ofNat 5 v0) (regOf k.e3 v1))
      | _ => none }

/-- `ADD Da,Db,Dn` (R212): `0*10 11FF F10J JJJJ`. -/
def rowAddReg : Row :=
  { words := 1, mask := 0xBC60, mat := 0x2C40, star := 0x4000
    fields := [[(0, 5)], [(7, 3)]]
    build := fun k vs => match vs with
      | [v0, v1] => some (.addReg (pairOf k.e2 k.e1 v0).1 (pairOf k.e2 k.e1 v0).2 (regOf k.e3 v1))
      | _ => none }

/-- `ADD Da,Da,Dn` (R212): `0*10 00FF F110 00jj`. -/
def rowAddSame : Row :=
  { words := 1, mask := 0xBC7C, mat := 0x2060, star := 0x4000
    fields := [[(0, 2)], [(7, 3)]]
    build := fun k vs => match vs with
      | [v0, v1] => some (.addSame (sameOf k.e2 k.e1 v0).1 (sameOf k.e2 k.e1 v0).2 (regOf k.e3 v1))
      | _ => none }

/-- `ADD2 Da,Dn` (R213): `1101 00FF F100 0JJJ`. -/
def rowAdd2 : Row :=
  { words := 1, mask := 0xFC78, mat := 0xD040, star := 0
    fields := [[(0, 3)], [(7, 3)]]
    build := fun k vs => match vs with
      | [v0, v1] => some (.add2 (regOf k.e1 v0) (regOf k.e3 v1))
      | _ => none }

/-- `ADDNC.W #s16,Da,Dn` (R214): `0011 JJJ1 iii0 0FFF / 100i iiii iiii iiii`. -/
def rowAddnc : Row :=
  { words := 2, mask := 0xE000F118, mat := 0x80003100, star := 0
    fields := [[(5, 3), (16, 13)], [(9, 3)], [(0, 3)]]
    build := fun k vs => match vs with
      | [v0, v1, v2] => some (.addnc (BitVec.ofNat 16 v0) (regOf k.e1 v1) (regOf k.e3 v2))
      | _ => none }

/-- `ADR Da,Dn` (R215): `0*11 00FF F100 0JJJ`. -/
def rowAdr : Row :=
  { words := 1, mask := 0xBC78, mat := 0x3040, star := 0x4000
    fields := [[(0, 3)], [(7, 3)]]
    build := fun k vs => match vs with
      | [v0, v1] => some (.adr (regOf k.e1 v0) (regOf k.e3 v1))
      | _ => none }

/-- `ASR Da,Dn` (R217): `0*11 01FF F100 0JJJ`. -/
def rowAsr : Row :=
  { words := 1, mask := 0xBC78, mat := 0x3440, star := 0x4000
    fields := [[(0, 3)], [(7, 3)]]
    build := fun k vs => match vs with
      | [v0, v1] => some (.asr (regOf k.e1 v0) (regOf k.e3 v1))
      | _ => none }

/-- `CMPEQ Da,Dn` (R219): `0*11 00FF F110 0JJJ`. -/
def rowCmpeq : Row :=
  { words := 1, mask := 0xBC78, mat := 0x3060, star := 0x4000
    fields := [[(0, 3)], [(7, 3)]]
    build := fun k vs => match vs with
      | [v0, v1] => some (.cmpeq (regOf k.e1 v0) (regOf k.e3 v1))
      | _ => none }

/-- `CMPEQ.W #u5,Dn` (R219): `1101 00FF F01i iiii`. -/
def rowCmpeqU : Row :=
  { words := 1, mask := 0xFC60, mat := 0xD020, star := 0
    fields := [[(0, 5)], [(7, 3)]]
    build := fun k vs => match vs with
      | [v0, v1] => some (.cmpeqU (BitVec.ofNat 5 v0) (regOf k.e3 v1))
      | _ => none }

/-- `CMPEQ.W #s16,Dn` (R219): `0011 0100 iii1 0FFF / 100i iiii iiii iiii`. -/
def rowCmpeqS : Row :=
  { words := 2, mask := 0xE000FF18, mat := 0x80003410, star := 0
    fields := [[(5, 3), (16, 13)], [(0, 3)]]
    build := fun k vs => match vs with
      | [v0, v1] => some (.cmpeqS (BitVec.ofNat 16 v0) (regOf k.e3 v1))
      | _ => none }

/-- `CMPGT Da,Dn` (R220): `0*11 00FF F111 0JJJ`. -/
def rowCmpgt : Row :=
  { words := 1, mask := 0xBC78, mat := 0x3070, star := 0x4000
    fields := [[(0, 3)], [(7, 3)]]
    build := fun k vs => match vs with
      | [v0, v1] => some (.cmpgt (regOf k.e1 v0) (regOf k.e3 v1))
      | _ => none }

/-- `CMPGT.W #u5,Dn` (R220): `1101 01FF F01i iiii`. -/
def rowCmpgtU : Row :=
  { words := 1, mask := 0xFC60, mat := 0xD420, star := 0
    fields := [[(0, 5)], [(7, 3)]]
    build := fun k vs => match vs with
      | [v0, v1] => some (.cmpgtU (BitVec.ofNat 5 v0) (regOf k.e3 v1))
      | _ => none }

/-- `CMPGT.W #s16,Dn` (R220): `0011 0110 iii1 0FFF / 100i iiii iiii iiii`. -/
def rowCmpgtS : Row :=
  { words := 2, mask := 0xE000FF18, mat := 0x80003610, star := 0
    fields := [[(5, 3), (16, 13)], [(0, 3)]]
    build := fun k vs => match vs with
      | [v0, v1] => some (.cmpgtS (BitVec.ofNat 16 v0) (regOf k.e3 v1))
      | _ => none }

/-- `CMPHI Da,Dn` (R221): `0*11 00FF F111 1JJJ`. -/
def rowCmphi : Row :=
  { words := 1, mask := 0xBC78, mat := 0x3078, star := 0x4000
    fields := [[(0, 3)], [(7, 3)]]
    build := fun k vs => match vs with
      | [v0, v1] => some (.cmphi (regOf k.e1 v0) (regOf k.e3 v1))
      | _ => none }

/-- `DECGE Dn` (R223): `0*10 01FF F110 1100`. -/
def rowDecge : Row :=
  { words := 1, mask := 0xBC7F, mat := 0x246C, star := 0x4000
    fields := [[(7, 3)]]
    build := fun k vs => match vs with
      | [v0] => some (.decge (regOf k.e3 v0))
      | _ => none }

/-- `DIV Da,Dn` (R224): `0*11 00FF F101 0JJJ`. -/
def rowDiv : Row :=
  { words := 1, mask := 0xBC78, mat := 0x3050, star := 0x4000
    fields := [[(0, 3)], [(7, 3)]]
    build := fun k vs => match vs with
      | [v0, v1] => some (.div (regOf k.e1 v0) (regOf k.e3 v1))
      | _ => none }

/-- `IADDNC.W #s16,Dn` (R225): `0011 1010 iii1 0FFF / 100i iiii iiii iiii`. -/
def rowIaddnc : Row :=
  { words := 2, mask := 0xE000FF18, mat := 0x80003A10, star := 0
    fields := [[(5, 3), (16, 13)], [(0, 3)]]
    build := fun k vs => match vs with
      | [v0, v1] => some (.iaddnc (BitVec.ofNat 16 v0) (regOf k.e3 v1))
      | _ => none }

/-- `INC Dn (encoding of the Example 5-13 listing)` (R226): `0*10 01FF F110 1111`. -/
def rowIncListed : Row :=
  { words := 1, mask := 0xBC7F, mat := 0x246F, star := 0x4000
    fields := [[(7, 3)]]
    build := fun k vs => match vs with
      | [v0] => some (.incListed (regOf k.e3 v0))
      | _ => none }

/-- `INC.F Dn` (R227): `0*10 01FF F110 0111`. -/
def rowIncF : Row :=
  { words := 1, mask := 0xBC7F, mat := 0x2467, star := 0x4000
    fields := [[(7, 3)]]
    build := fun k vs => match vs with
      | [v0] => some (.incF (regOf k.e3 v0))
      | _ => none }

/-- `MAX Dg,Dh` (R228): `0*10 11GG 0111 1100`. -/
def rowMax : Row :=
  { words := 1, mask := 0xBCFF, mat := 0x2C7C, star := 0x4000
    fields := [[(8, 2)]]
    build := fun k vs => match vs with
      | [v0] => some (.max (ggOf k.e1 k.e3 v0).1 (ggOf k.e1 k.e3 v0).2)
      | _ => none }

/-- `MAX2VIT D4,D2` (R230): `1101 0100 0101 1000`. -/
def rowMax2vitA : Row :=
  { words := 1, mask := 0xFFFF, mat := 0xD458, star := 0
    fields := []
    build := fun k vs => match vs with
      | [] => some (.max2vitA (regOf k.e1 4) (regOf k.e3 2))
      | _ => none }

/-- `MAX2VIT D0,D6` (R230): `1101 0100 0101 1001`. -/
def rowMax2vitB : Row :=
  { words := 1, mask := 0xFFFF, mat := 0xD459, star := 0
    fields := []
    build := fun k vs => match vs with
      | [] => some (.max2vitB (regOf k.e1 0) (regOf k.e3 6))
      | _ => none }

/-- `MIN Dg,Dh` (R232): `0*10 11GG 0111 1101`. -/
def rowMin : Row :=
  { words := 1, mask := 0xBCFF, mat := 0x2C7D, star := 0x4000
    fields := [[(8, 2)]]
    build := fun k vs => match vs with
      | [v0] => some (.min (ggOf k.e1 k.e3 v0).1 (ggOf k.e1 k.e3 v0).2)
      | _ => none }

/-- `NEG Dn` (R233): `0*10 01FF F110 0100`. -/
def rowNeg : Row :=
  { words := 1, mask := 0xBC7F, mat := 0x2464, star := 0x4000
    fields := [[(7, 3)]]
    build := fun k vs => match vs with
      | [v0] => some (.neg (regOf k.e3 v0))
      | _ => none }

/-- `RND Da,Dn` (R234): `0*11 01FF F100 1JJJ`. -/
def rowRnd : Row :=
  { words := 1, mask := 0xBC78, mat := 0x3448, star := 0x4000
    fields := [[(0, 3)], [(7, 3)]]
    build := fun k vs => match vs with
      | [v0, v1] => some (.rnd (regOf k.e1 v0) (regOf k.e3 v1))
      | _ => none }

/-- `SAT.L Dn` (R236): `0*10 01FF F110 0101`. -/
def rowSatL : Row :=
  { words := 1, mask := 0xBC7F, mat := 0x2465, star := 0x4000
    fields := [[(7, 3)]]
    build := fun k vs => match vs with
      | [v0] => some (.satL (regOf k.e3 v0))
      | _ => none }

/-- `SBC Dc,Dd` (R237): `0*10 11ee 0111 1011`. -/
def rowSbc : Row :=
  { words := 1, mask := 0xBCFF, mat := 0x2C7B, star := 0x4000
    fields := [[(8, 2)]]
    build := fun k vs => match vs with
      | [v0] => some (.sbc (eeOf k.e1 k.e3 v0).1 (eeOf k.e1 k.e3 v0).2)
      | _ => none }

/-- `SBR Da,Dn` (R238): `0*11 00FF F100 1JJJ`. -/
def rowSbr : Row :=
  { words := 1, mask := 0xBC78, mat := 0x3048, star := 0x4000
    fields := [[(0, 3)], [(7, 3)]]
    build := fun k vs => match vs with
      | [v0, v1] => some (.sbr (regOf k.e1 v0) (regOf k.e3 v1))
      | _ => none }

/-- `SUB #u5,Dn` (R239): `0*11 10FF F11i iiii`. -/
def rowSubImm : Row :=
  { words := 1, mask := 0xBC60, mat := 0x3860, star := 0x4000
    fields := [[(0, 5)], [(7, 3)]]
    build := fun k vs => match vs with
      | [v0, v1] => some (.subImm (BitVec.ofNat 5 v0) (regOf k.e3 v1))
      | _ => none }

/-- `SUB Da,Db,Dn (Db - Da)` (R239): `0*10 11FF F00J JJJJ`. -/
def rowSubReg : Row :=
  { words := 1, mask := 0xBC60, mat := 0x2C00, star := 0x4000
    fields := [[(0, 5)], [(7, 3)]]
    build := fun k vs => match vs with
      | [v0, v1] => some (.subReg (pairOf k.e2 k.e1 v0).1 (pairOf k.e2 k.e1 v0).2 (regOf k.e3 v1))
      | _ => none }

/-- `SUB Da,Db,Dn (Da - Db, swapped pair)` (R239): `0*10 11FF F01J JJJJ`. -/
def rowSubRegSwap : Row :=
  { words := 1, mask := 0xBC60, mat := 0x2C20, star := 0x4000
    fields := [[(0, 5)], [(7, 3)]]
    build := fun k vs => match vs with
      | [v0, v1] => some (.subRegSwap (pairOf k.e2 k.e1 v0).1 (pairOf k.e2 k.e1 v0).2 (regOf k.e3 v1))
      | _ => none }

/-- `SUB Da,Da,Dn` (R239): `0*10 00FF F110 01jj`. -/
def rowSubSame : Row :=
  { words := 1, mask := 0xBC7C, mat := 0x2064, star := 0x4000
    fields := [[(0, 2)], [(7, 3)]]
    build := fun k vs => match vs with
      | [v0, v1] => some (.subSame (sameOf k.e2 k.e1 v0).1 (sameOf k.e2 k.e1 v0).2 (regOf k.e3 v1))
      | _ => none }

/-- `SUB2 Da,Dn` (R240): `1101 00FF F100 1JJJ`. -/
def rowSub2 : Row :=
  { words := 1, mask := 0xFC78, mat := 0xD048, star := 0
    fields := [[(0, 3)], [(7, 3)]]
    build := fun k vs => match vs with
      | [v0, v1] => some (.sub2 (regOf k.e1 v0) (regOf k.e3 v1))
      | _ => none }

/-- `SUBL Da,Dn` (R241): `0*11 00FF F101 1JJJ`. -/
def rowSubl : Row :=
  { words := 1, mask := 0xBC78, mat := 0x3058, star := 0x4000
    fields := [[(0, 3)], [(7, 3)]]
    build := fun k vs => match vs with
      | [v0, v1] => some (.subl (regOf k.e1 v0) (regOf k.e3 v1))
      | _ => none }

/-- `SUBNC.W #s16,Dn` (R242): `0011 1100 iii1 0FFF / 100i iiii iiii iiii`. -/
def rowSubnc : Row :=
  { words := 2, mask := 0xE000FF18, mat := 0x80003C10, star := 0
    fields := [[(5, 3), (16, 13)], [(0, 3)]]
    build := fun k vs => match vs with
      | [v0, v1] => some (.subnc (BitVec.ofNat 16 v0) (regOf k.e3 v1))
      | _ => none }

/-- `TFR Da,Dn` (R243): `0*11 01FF F101 0JJJ`. -/
def rowTfr : Row :=
  { words := 1, mask := 0xBC78, mat := 0x3450, star := 0x4000
    fields := [[(0, 3)], [(7, 3)]]
    build := fun k vs => match vs with
      | [v0, v1] => some (.tfr (regOf k.e1 v0) (regOf k.e3 v1))
      | _ => none }

/-- `TFRF Da,Dn` (R244): `1101 00FF F101 1JJJ`. -/
def rowTfrf : Row :=
  { words := 1, mask := 0xFC78, mat := 0xD058, star := 0
    fields := [[(0, 3)], [(7, 3)]]
    build := fun k vs => match vs with
      | [v0, v1] => some (.tfrf (regOf k.e1 v0) (regOf k.e3 v1))
      | _ => none }

/-- `TFRT Da,Dn` (R245): `1101 00FF F101 0JJJ`. -/
def rowTfrt : Row :=
  { words := 1, mask := 0xFC78, mat := 0xD050, star := 0
    fields := [[(0, 3)], [(7, 3)]]
    build := fun k vs => match vs with
      | [v0, v1] => some (.tfrt (regOf k.e1 v0) (regOf k.e3 v1))
      | _ => none }

/-- `TSTEQ Dn` (R246): `0*10 01FF F110 1001`. -/
def rowTsteq : Row :=
  { words := 1, mask := 0xBC7F, mat := 0x2469, star := 0x4000
    fields := [[(7, 3)]]
    build := fun k vs => match vs with
      | [v0] => some (.tsteq (regOf k.e3 v0))
      | _ => none }

/-- `TSTGE Dn` (R247): `0*10 01FF F110 1000`. -/
def rowTstge : Row :=
  { words := 1, mask := 0xBC7F, mat := 0x2468, star := 0x4000
    fields := [[(7, 3)]]
    build := fun k vs => match vs with
      | [v0] => some (.tstge (regOf k.e3 v0))
      | _ => none }

/-- `IMAC [-]Da,Db,Dn` (R263): `0*10 10FF Fk0J JJJJ`. -/
def rowImac : Row :=
  { words := 1, mask := 0xBC20, mat := 0x2800, star := 0x4000
    fields := [[(6, 1)], [(0, 5)], [(7, 3)]]
    build := fun k vs => match vs with
      | [v0, v1, v2] => some (.imac (v0 == 1) (pairOf k.e2 k.e1 v1).1 (pairOf k.e2 k.e1 v1).2 (regOf k.e3 v2))
      | _ => none }

/-- `IMAC [-]Da,Da,Dn` (R263): `0*10 10FF F110 k1jj`. -/
def rowImacSame : Row :=
  { words := 1, mask := 0xBC74, mat := 0x2864, star := 0x4000
    fields := [[(3, 1)], [(0, 2)], [(7, 3)]]
    build := fun k vs => match vs with
      | [v0, v1, v2] => some (.imacSame (v0 == 1) (sameOf k.e2 k.e1 v1).1 (sameOf k.e2 k.e1 v1).2 (regOf k.e3 v2))
      | _ => none }

/-- `IMACLHUU Da,Db,Dn` (R264): `0011 1000 jjj0 0FFF / 1000 0000 0000 0JJJ`. -/
def rowImaclhuu : Row :=
  { words := 2, mask := 0xFFF8FF18, mat := 0x80003800, star := 0
    fields := [[(5, 3)], [(16, 3)], [(0, 3)]]
    build := fun k vs => match vs with
      | [v0, v1, v2] => some (.imaclhuu (regOf k.e2 v0) (regOf k.e1 v1) (regOf k.e3 v2))
      | _ => none }

/-- `IMACUS Da,Db,Dn` (R265): `0011 0000 jjj0 0FFF / 1000 0000 0000 0JJJ`. -/
def rowImacus : Row :=
  { words := 2, mask := 0xFFF8FF18, mat := 0x80003000, star := 0
    fields := [[(5, 3)], [(16, 3)], [(0, 3)]]
    build := fun k vs => match vs with
      | [v0, v1, v2] => some (.imacus (regOf k.e2 v0) (regOf k.e1 v1) (regOf k.e3 v2))
      | _ => none }

/-- `IMPY Da,Db,Dn` (R266): `0*10 10FF F01J JJJJ`. -/
def rowImpy : Row :=
  { words := 1, mask := 0xBC60, mat := 0x2820, star := 0x4000
    fields := [[(0, 5)], [(7, 3)]]
    build := fun k vs => match vs with
      | [v0, v1] => some (.impy (pairOf k.e2 k.e1 v0).1 (pairOf k.e2 k.e1 v0).2 (regOf k.e3 v1))
      | _ => none }

/-- `IMPY Da,Da,Dn` (R266): `0*10 10FF F111 01jj`. -/
def rowImpySame : Row :=
  { words := 1, mask := 0xBC7C, mat := 0x2874, star := 0x4000
    fields := [[(0, 2)], [(7, 3)]]
    build := fun k vs => match vs with
      | [v0, v1] => some (.impySame (sameOf k.e2 k.e1 v0).1 (sameOf k.e2 k.e1 v0).2 (regOf k.e3 v1))
      | _ => none }

/-- `IMPY.W #s16,Dn` (R267): `0011 1110 iii1 0FFF / 100i iiii iiii iiii`. -/
def rowImpyW : Row :=
  { words := 2, mask := 0xE000FF18, mat := 0x80003E10, star := 0
    fields := [[(5, 3), (16, 13)], [(0, 3)]]
    build := fun k vs => match vs with
      | [v0, v1] => some (.impyW (BitVec.ofNat 16 v0) (regOf k.e3 v1))
      | _ => none }

/-- `IMPYHLUU Da,Db,Dn` (R268): `0011 1010 jjj0 0FFF / 1000 0000 0000 0JJJ`. -/
def rowImpyhluu : Row :=
  { words := 2, mask := 0xFFF8FF18, mat := 0x80003A00, star := 0
    fields := [[(5, 3)], [(16, 3)], [(0, 3)]]
    build := fun k vs => match vs with
      | [v0, v1, v2] => some (.impyhluu (regOf k.e2 v0) (regOf k.e1 v1) (regOf k.e3 v2))
      | _ => none }

/-- `IMPYSU Da,Db,Dn` (R269): `0011 0100 jjj0 0FFF / 1000 0000 0000 0JJJ`. -/
def rowImpysu : Row :=
  { words := 2, mask := 0xFFF8FF18, mat := 0x80003400, star := 0
    fields := [[(5, 3)], [(16, 3)], [(0, 3)]]
    build := fun k vs => match vs with
      | [v0, v1, v2] => some (.impysu (regOf k.e2 v0) (regOf k.e1 v1) (regOf k.e3 v2))
      | _ => none }

/-- `IMPYUU Da,Db,Dn` (R270): `0011 0110 jjj0 0FFF / 1000 0000 0000 0JJJ`. -/
def rowImpyuu : Row :=
  { words := 2, mask := 0xFFF8FF18, mat := 0x80003600, star := 0
    fields := [[(5, 3)], [(16, 3)], [(0, 3)]]
    build := fun k vs => match vs with
      | [v0, v1, v2] => some (.impyuu (regOf k.e2 v0) (regOf k.e1 v1) (regOf k.e3 v2))
      | _ => none }

/-- `MAC [-]Da,Db,Dn` (R271): `0*10 00FF Fk0J JJJJ`. -/
def rowMac : Row :=
  { words := 1, mask := 0xBC20, mat := 0x2000, star := 0x4000
    fields := [[(6, 1)], [(0, 5)], [(7, 3)]]
    build := fun k vs => match vs with
      | [v0, v1, v2] => some (.mac (v0 == 1) (pairOf k.e2 k.e1 v1).1 (pairOf k.e2 k.e1 v1).2 (regOf k.e3 v2))
      | _ => none }

/-- `MAC [-]Da,Da,Dn` (R271): `0*10 10FF F110 k0jj`. -/
def rowMacSame : Row :=
  { words := 1, mask := 0xBC74, mat := 0x2860, star := 0x4000
    fields := [[(3, 1)], [(0, 2)], [(7, 3)]]
    build := fun k vs => match vs with
      | [v0, v1, v2] => some (.macSame (v0 == 1) (sameOf k.e2 k.e1 v1).1 (sameOf k.e2 k.e1 v1).2 (regOf k.e3 v2))
      | _ => none }

/-- `MAC #s16,Da,Dn` (R271): `0011 JJJ1 iii1 0FFF / 100i iiii iiii iiii`. -/
def rowMacImm : Row :=
  { words := 2, mask := 0xE000F118, mat := 0x80003110, star := 0
    fields := [[(5, 3), (16, 13)], [(9, 3)], [(0, 3)]]
    build := fun k vs => match vs with
      | [v0, v1, v2] => some (.macImm (BitVec.ofNat 16 v0) (regOf k.e1 v1) (regOf k.e3 v2))
      | _ => none }

/-- `MACR [-]Da,Db,Dn` (R272): `0*10 01FF Fk0J JJJJ`. -/
def rowMacr : Row :=
  { words := 1, mask := 0xBC20, mat := 0x2400, star := 0x4000
    fields := [[(6, 1)], [(0, 5)], [(7, 3)]]
    build := fun k vs => match vs with
      | [v0, v1, v2] => some (.macr (v0 == 1) (pairOf k.e2 k.e1 v1).1 (pairOf k.e2 k.e1 v1).2 (regOf k.e3 v2))
      | _ => none }

/-- `MACR [-]Da,Da,Dn` (R272): `0*10 10FF F111 1kjj`. -/
def rowMacrSame : Row :=
  { words := 1, mask := 0xBC78, mat := 0x2878, star := 0x4000
    fields := [[(2, 1)], [(0, 2)], [(7, 3)]]
    build := fun k vs => match vs with
      | [v0, v1, v2] => some (.macrSame (v0 == 1) (sameOf k.e2 k.e1 v1).1 (sameOf k.e2 k.e1 v1).2 (regOf k.e3 v2))
      | _ => none }

/-- `MACSU Dc,Dd,Dn` (R273): `0*10 00FF F111 00ee`. -/
def rowMacsu : Row :=
  { words := 1, mask := 0xBC7C, mat := 0x2070, star := 0x4000
    fields := [[(0, 2)], [(7, 3)]]
    build := fun k vs => match vs with
      | [v0, v1] => some (.macsu (eeOf k.e2 k.e1 v0).1 (eeOf k.e2 k.e1 v0).2 (regOf k.e3 v1))
      | _ => none }

/-- `MACUS Dc,Dd,Dn` (R274): `0*10 11FF F110 00ee`. -/
def rowMacus : Row :=
  { words := 1, mask := 0xBC7C, mat := 0x2C60, star := 0x4000
    fields := [[(0, 2)], [(7, 3)]]
    build := fun k vs => match vs with
      | [v0, v1] => some (.macus (eeOf k.e2 k.e1 v0).1 (eeOf k.e2 k.e1 v0).2 (regOf k.e3 v1))
      | _ => none }

/-- `MACUU Dc,Dd,Dn` (R275): `0*10 11FF F110 01ee`. -/
def rowMacuu : Row :=
  { words := 1, mask := 0xBC7C, mat := 0x2C64, star := 0x4000
    fields := [[(0, 2)], [(7, 3)]]
    build := fun k vs => match vs with
      | [v0, v1] => some (.macuu (eeOf k.e2 k.e1 v0).1 (eeOf k.e2 k.e1 v0).2 (regOf k.e3 v1))
      | _ => none }

/-- `MPY Da,Db,Dn` (R276): `0*10 00FF F01J JJJJ`. -/
def rowMpy : Row :=
  { words := 1, mask := 0xBC60, mat := 0x2020, star := 0x4000
    fields := [[(0, 5)], [(7, 3)]]
    build := fun k vs => match vs with
      | [v0, v1] => some (.mpy (pairOf k.e2 k.e1 v0).1 (pairOf k.e2 k.e1 v0).2 (regOf k.e3 v1))
      | _ => none }

/-- `MPY Da,Da,Dn` (R276): `0*10 10FF F111 00jj`. -/
def rowMpySame : Row :=
  { words := 1, mask := 0xBC7C, mat := 0x2870, star := 0x4000
    fields := [[(0, 2)], [(7, 3)]]
    build := fun k vs => match vs with
      | [v0, v1] => some (.mpySame (sameOf k.e2 k.e1 v0).1 (sameOf k.e2 k.e1 v0).2 (regOf k.e3 v1))
      | _ => none }

/-- `MPYR Da,Db,Dn` (R277): `0*10 01FF F01J JJJJ`. -/
def rowMpyr : Row :=
  { words := 1, mask := 0xBC60, mat := 0x2420, star := 0x4000
    fields := [[(0, 5)], [(7, 3)]]
    build := fun k vs => match vs with
      | [v0, v1] => some (.mpyr (pairOf k.e2 k.e1 v0).1 (pairOf k.e2 k.e1 v0).2 (regOf k.e3 v1))
      | _ => none }

/-- `MPYR Da,Da,Dn` (R277): `0*10 00FF F110 10jj`. -/
def rowMpyrSame : Row :=
  { words := 1, mask := 0xBC7C, mat := 0x2068, star := 0x4000
    fields := [[(0, 2)], [(7, 3)]]
    build := fun k vs => match vs with
      | [v0, v1] => some (.mpyrSame (sameOf k.e2 k.e1 v0).1 (sameOf k.e2 k.e1 v0).2 (regOf k.e3 v1))
      | _ => none }

/-- `MPYSU Dc,Dd,Dn` (R278): `0*10 11FF F110 10ee`. -/
def rowMpysu : Row :=
  { words := 1, mask := 0xBC7C, mat := 0x2C68, star := 0x4000
    fields := [[(0, 2)], [(7, 3)]]
    build := fun k vs => match vs with
      | [v0, v1] => some (.mpysu (eeOf k.e2 k.e1 v0).1 (eeOf k.e2 k.e1 v0).2 (regOf k.e3 v1))
      | _ => none }

/-- `MPYUS Dc,Dd,Dn` (R279): `0*10 00FF F111 01ee`. -/
def rowMpyus : Row :=
  { words := 1, mask := 0xBC7C, mat := 0x2074, star := 0x4000
    fields := [[(0, 2)], [(7, 3)]]
    build := fun k vs => match vs with
      | [v0, v1] => some (.mpyus (eeOf k.e2 k.e1 v0).1 (eeOf k.e2 k.e1 v0).2 (regOf k.e3 v1))
      | _ => none }

/-- `MPYUU Dc,Dd,Dn` (R280): `0*10 11FF F110 11ee`. -/
def rowMpyuu : Row :=
  { words := 1, mask := 0xBC7C, mat := 0x2C6C, star := 0x4000
    fields := [[(0, 2)], [(7, 3)]]
    build := fun k vs => match vs with
      | [v0, v1] => some (.mpyuu (eeOf k.e2 k.e1 v0).1 (eeOf k.e2 k.e1 v0).2 (regOf k.e3 v1))
      | _ => none }

/-- `AND #0{u16},Da,Dn` (R290): `0011 JJJ1 iii1 1FFF / 100i iiii iiii iiii`. -/
def rowAndImmLow : Row :=
  { words := 2, mask := 0xE000F118, mat := 0x80003118, star := 0
    fields := [[(5, 3), (16, 13)], [(9, 3)], [(0, 3)]]
    build := fun k vs => match vs with
      | [v0, v1, v2] => some (.andImmLow (BitVec.ofNat 16 v0) (regOf k.e1 v1) (regOf k.e3 v2))
      | _ => none }

/-- `AND #{u16}0000,Da,Dn` (R290): `0011 JJJ1 iii0 1FFF / 100i iiii iiii iiii`. -/
def rowAndImmHigh : Row :=
  { words := 2, mask := 0xE000F118, mat := 0x80003108, star := 0
    fields := [[(5, 3), (16, 13)], [(9, 3)], [(0, 3)]]
    build := fun k vs => match vs with
      | [v0, v1, v2] => some (.andImmHigh (BitVec.ofNat 16 v0) (regOf k.e1 v1) (regOf k.e3 v2))
      | _ => none }

/-- `AND Da,Dn` (R290): `1101 11FF F000 0JJJ`. -/
def rowAndReg : Row :=
  { words := 1, mask := 0xFC78, mat := 0xDC00, star := 0
    fields := [[(0, 3)], [(7, 3)]]
    build := fun k vs => match vs with
      | [v0, v1] => some (.andReg (regOf k.e1 v0) (regOf k.e3 v1))
      | _ => none }

/-- `ASLL #u5,Dn` (R291): `0*11 11FF F10i iiii`. -/
def rowAsllImm : Row :=
  { words := 1, mask := 0xBC60, mat := 0x3C40, star := 0x4000
    fields := [[(0, 5)], [(7, 3)]]
    build := fun k vs => match vs with
      | [v0, v1] => some (.asllImm (BitVec.ofNat 5 v0) (regOf k.e3 v1))
      | _ => none }

/-- `ASLL Da,Dn` (R291): `1101 01FF F001 0JJJ`. -/
def rowAsllReg : Row :=
  { words := 1, mask := 0xFC78, mat := 0xD410, star := 0
    fields := [[(0, 3)], [(7, 3)]]
    build := fun k vs => match vs with
      | [v0, v1] => some (.asllReg (regOf k.e1 v0) (regOf k.e3 v1))
      | _ => none }

/-- `ASLW Da,Dn` (R292): `1101 10FF F001 0JJJ`. -/
def rowAslw : Row :=
  { words := 1, mask := 0xFC78, mat := 0xD810, star := 0
    fields := [[(0, 3)], [(7, 3)]]
    build := fun k vs => match vs with
      | [v0, v1] => some (.aslw (regOf k.e1 v0) (regOf k.e3 v1))
      | _ => none }

/-- `ASRR #u5,Dn` (R293): `0*11 11FF F11i iiii`. -/
def rowAsrrImm : Row :=
  { words := 1, mask := 0xBC60, mat := 0x3C60, star := 0x4000
    fields := [[(0, 5)], [(7, 3)]]
    build := fun k vs => match vs with
      | [v0, v1] => some (.asrrImm (BitVec.ofNat 5 v0) (regOf k.e3 v1))
      | _ => none }

/-- `ASRR Da,Dn` (R293): `1101 01FF F001 1JJJ`. -/
def rowAsrrReg : Row :=
  { words := 1, mask := 0xFC78, mat := 0xD418, star := 0
    fields := [[(0, 3)], [(7, 3)]]
    build := fun k vs => match vs with
      | [v0, v1] => some (.asrrReg (regOf k.e1 v0) (regOf k.e3 v1))
      | _ => none }

/-- `ASRW Da,Dn` (R294): `1101 10FF F001 1JJJ`. -/
def rowAsrw : Row :=
  { words := 1, mask := 0xFC78, mat := 0xD818, star := 0
    fields := [[(0, 3)], [(7, 3)]]
    build := fun k vs => match vs with
      | [v0, v1] => some (.asrw (regOf k.e1 v0) (regOf k.e3 v1))
      | _ => none }

/-- `CLB Da,Dn` (R295): `1101 00FF F001 0JJJ`. -/
def rowClb : Row :=
  { words := 1, mask := 0xFC78, mat := 0xD010, star := 0
    fields := [[(0, 3)], [(7, 3)]]
    build := fun k vs => match vs with
      | [v0, v1] => some (.clb (regOf k.e1 v0) (regOf k.e3 v1))
      | _ => none }

/-- `EOR Da,Dn` (R296): `1101 11FF F001 0JJJ`. -/
def rowEorReg : Row :=
  { words := 1, mask := 0xFC78, mat := 0xDC10, star := 0
    fields := [[(0, 3)], [(7, 3)]]
    build := fun k vs => match vs with
      | [v0, v1] => some (.eorReg (regOf k.e1 v0) (regOf k.e3 v1))
      | _ => none }

/-- `EXTRACT #U6,#u6,Db,Dn` (R297): `0011 jjj0 1100 1FFF / 1001 IIII IIii iiii`. -/
def rowExtractImm : Row :=
  { words := 2, mask := 0xF000F1F8, mat := 0x900030C8, star := 0
    fields := [[(22, 6)], [(16, 6)], [(9, 3)], [(0, 3)]]
    build := fun k vs => match vs with
      | [v0, v1, v2, v3] => some (.extractImm (BitVec.ofNat 6 v0) (BitVec.ofNat 6 v1) (regOf k.e1 v2) (regOf k.e3 v3))
      | _ => none }

/-- `EXTRACT Da,Db,Dn` (R297): `0011 jjj0 1000 1FFF / 1001 0000 0000 0JJJ`. -/
def rowExtractReg : Row :=
  { words := 2, mask := 0xFFF8F1F8, mat := 0x90003088, star := 0
    fields := [[(16, 3)], [(9, 3)], [(0, 3)]]
    build := fun k vs => match vs with
      | [v0, v1, v2] => some (.extractReg (regOf k.e2 v0) (regOf k.e1 v1) (regOf k.e3 v2))
      | _ => none }

/-- `EXTRACTU #U6,#u6,Db,Dn` (R298): `0011 jjj0 1100 1FFF / 1000 IIII IIii iiii`. -/
def rowExtractuImm : Row :=
  { words := 2, mask := 0xF000F1F8, mat := 0x800030C8, star := 0
    fields := [[(22, 6)], [(16, 6)], [(9, 3)], [(0, 3)]]
    build := fun k vs => match vs with
      | [v0, v1, v2, v3] => some (.extractuImm (BitVec.ofNat 6 v0) (BitVec.ofNat 6 v1) (regOf k.e1 v2) (regOf k.e3 v3))
      | _ => none }

/-- `EXTRACTU Da,Db,Dn` (R298): `0011 jjj0 1000 1FFF / 1000 0000 0000 0JJJ`. -/
def rowExtractuReg : Row :=
  { words := 2, mask := 0xFFF8F1F8, mat := 0x80003088, star := 0
    fields := [[(16, 3)], [(9, 3)], [(0, 3)]]
    build := fun k vs => match vs with
      | [v0, v1, v2] => some (.extractuReg (regOf k.e2 v0) (regOf k.e1 v1) (regOf k.e3 v2))
      | _ => none }

/-- `INSERT #U6,#u6,Db,Dn` (R299): `0011 jjj0 1110 1FFF / 1000 IIII IIii iiii`. -/
def rowInsertImm : Row :=
  { words := 2, mask := 0xF000F1F8, mat := 0x800030E8, star := 0
    fields := [[(22, 6)], [(16, 6)], [(9, 3)], [(0, 3)]]
    build := fun k vs => match vs with
      | [v0, v1, v2, v3] => some (.insertImm (BitVec.ofNat 6 v0) (BitVec.ofNat 6 v1) (regOf k.e1 v2) (regOf k.e3 v3))
      | _ => none }

/-- `INSERT Da,Db,Dn` (R299): `0011 jjj0 1010 1FFF / 1000 0000 0000 0JJJ`. -/
def rowInsertReg : Row :=
  { words := 2, mask := 0xFFF8F1F8, mat := 0x800030A8, star := 0
    fields := [[(16, 3)], [(9, 3)], [(0, 3)]]
    build := fun k vs => match vs with
      | [v0, v1, v2] => some (.insertReg (regOf k.e2 v0) (regOf k.e1 v1) (regOf k.e3 v2))
      | _ => none }

/-- `LSLL Da,Dn` (R300): `1101 01FF F000 0JJJ`. -/
def rowLsll : Row :=
  { words := 1, mask := 0xFC78, mat := 0xD400, star := 0
    fields := [[(0, 3)], [(7, 3)]]
    build := fun k vs => match vs with
      | [v0, v1] => some (.lsll (regOf k.e1 v0) (regOf k.e3 v1))
      | _ => none }

/-- `LSR Dn` (R301): `0*10 01FF F110 1110`. -/
def rowLsr : Row :=
  { words := 1, mask := 0xBC7F, mat := 0x246E, star := 0x4000
    fields := [[(7, 3)]]
    build := fun k vs => match vs with
      | [v0] => some (.lsr (regOf k.e3 v0))
      | _ => none }

/-- `LSRR #u5,Dn` (R302): `1101 11FF F01i iiii`. -/
def rowLsrrImm : Row :=
  { words := 1, mask := 0xFC60, mat := 0xDC20, star := 0
    fields := [[(0, 5)], [(7, 3)]]
    build := fun k vs => match vs with
      | [v0, v1] => some (.lsrrImm (BitVec.ofNat 5 v0) (regOf k.e3 v1))
      | _ => none }

/-- `LSRR Da,Dn` (R302): `1101 01FF F000 1JJJ`. -/
def rowLsrrReg : Row :=
  { words := 1, mask := 0xFC78, mat := 0xD408, star := 0
    fields := [[(0, 3)], [(7, 3)]]
    build := fun k vs => match vs with
      | [v0, v1] => some (.lsrrReg (regOf k.e1 v0) (regOf k.e3 v1))
      | _ => none }

/-- `LSRW Da,Dn` (R303): `1101 10FF F000 1JJJ`. -/
def rowLsrw : Row :=
  { words := 1, mask := 0xFC78, mat := 0xD808, star := 0
    fields := [[(0, 3)], [(7, 3)]]
    build := fun k vs => match vs with
      | [v0, v1] => some (.lsrw (regOf k.e1 v0) (regOf k.e3 v1))
      | _ => none }

/-- `NOT Da,Dn` (R304): `1101 10FF F000 0JJJ`. -/
def rowNotReg : Row :=
  { words := 1, mask := 0xFC78, mat := 0xD800, star := 0
    fields := [[(0, 3)], [(7, 3)]]
    build := fun k vs => match vs with
      | [v0, v1] => some (.notReg (regOf k.e1 v0) (regOf k.e3 v1))
      | _ => none }

/-- `OR Da,Dn` (R305): `1101 11FF F001 1JJJ`. -/
def rowOrReg : Row :=
  { words := 1, mask := 0xFC78, mat := 0xDC18, star := 0
    fields := [[(0, 3)], [(7, 3)]]
    build := fun k vs => match vs with
      | [v0, v1] => some (.orReg (regOf k.e1 v0) (regOf k.e3 v1))
      | _ => none }

/-- `ROL Dn` (R306): `0*10 01FF F110 0010`. -/
def rowRol : Row :=
  { words := 1, mask := 0xBC7F, mat := 0x2462, star := 0x4000
    fields := [[(7, 3)]]
    build := fun k vs => match vs with
      | [v0] => some (.rol (regOf k.e3 v0))
      | _ => none }

/-- `ROR Dn` (R307): `0*10 01FF F110 0011`. -/
def rowRor : Row :=
  { words := 1, mask := 0xBC7F, mat := 0x2463, star := 0x4000
    fields := [[(7, 3)]]
    build := fun k vs => match vs with
      | [v0] => some (.ror (regOf k.e3 v0))
      | _ => none }

/-- `SXT.B Da,Dn` (R308): `0*11 01FF F110 0JJJ`. -/
def rowSxtB : Row :=
  { words := 1, mask := 0xBC78, mat := 0x3460, star := 0x4000
    fields := [[(0, 3)], [(7, 3)]]
    build := fun k vs => match vs with
      | [v0, v1] => some (.sxtB (regOf k.e1 v0) (regOf k.e3 v1))
      | _ => none }

/-- `SXT.L Dn` (R309): `0*10 01FF F110 0001`. -/
def rowSxtL : Row :=
  { words := 1, mask := 0xBC7F, mat := 0x2461, star := 0x4000
    fields := [[(7, 3)]]
    build := fun k vs => match vs with
      | [v0] => some (.sxtL (regOf k.e3 v0))
      | _ => none }

/-- `SXT.W Da,Dn` (R310): `0*11 01FF F111 0JJJ`. -/
def rowSxtW : Row :=
  { words := 1, mask := 0xBC78, mat := 0x3470, star := 0x4000
    fields := [[(0, 3)], [(7, 3)]]
    build := fun k vs => match vs with
      | [v0, v1] => some (.sxtW (regOf k.e1 v0) (regOf k.e3 v1))
      | _ => none }

/-- `ZXT.B Da,Dn` (R311): `0*11 01FF F110 1JJJ`. -/
def rowZxtB : Row :=
  { words := 1, mask := 0xBC78, mat := 0x3468, star := 0x4000
    fields := [[(0, 3)], [(7, 3)]]
    build := fun k vs => match vs with
      | [v0, v1] => some (.zxtB (regOf k.e1 v0) (regOf k.e3 v1))
      | _ => none }

/-- `ZXT.L Dn` (R312): `0*10 01FF F110 0000`. -/
def rowZxtL : Row :=
  { words := 1, mask := 0xBC7F, mat := 0x2460, star := 0x4000
    fields := [[(7, 3)]]
    build := fun k vs => match vs with
      | [v0] => some (.zxtL (regOf k.e3 v0))
      | _ => none }

/-- `ZXT.W Da,Dn` (R313): `0*11 01FF F111 1JJJ`. -/
def rowZxtW : Row :=
  { words := 1, mask := 0xBC78, mat := 0x3478, star := 0x4000
    fields := [[(0, 3)], [(7, 3)]]
    build := fun k vs => match vs with
      | [v0, v1] => some (.zxtW (regOf k.e1 v0) (regOf k.e3 v1))
      | _ => none }

/-- `ADDA #u5,Rx` (R322): `1110 RRRR 010i iiii`. -/
def rowAddaImm : Row :=
  { words := 1, mask := 0xF0E0, mat := 0xE040, star := 0
    fields := [[(0, 5)], [(8, 4)]]
    build := fun k vs => match vs with
      | [v0, v1] => (rxOf k.hi v1).map fun x => .addaImm (BitVec.ofNat 5 v0) x
      | _ => none }

/-- `ADDA #s16,rx,Rn` (R322): `0010 rrrr iii0 1RRR / 100i iiii iiii iiii`. -/
def rowAddaImm16 : Row :=
  { words := 2, mask := 0xE000F018, mat := 0x80002008, star := 0
    fields := [[(5, 3), (16, 13)], [(8, 4)], [(0, 3)]]
    build := fun k vs => match vs with
      | [v0, v1, v2] => (rxSrcOf k.lo v1).map fun src => .addaImm16 (BitVec.ofNat 16 v0) src (regOf k.hi v2)
      | _ => none }

/-- `ADDA rx,Rx` (R322): `1110 RRRR 0001 rrrr`. -/
def rowAddaReg : Row :=
  { words := 1, mask := 0xF0F0, mat := 0xE010, star := 0
    fields := [[(0, 4)], [(8, 4)]]
    build := fun k vs => match vs with
      | [v0, v1] => (rxSrcOf k.lo v0).bind fun src => (rxOf k.hi v1).map fun x => .addaReg src x
      | _ => none }

/-- `ADDL1A rx,Rx` (R323): `1110 RRRR 0000 rrrr`. -/
def rowAddl1a : Row :=
  { words := 1, mask := 0xF0F0, mat := 0xE000, star := 0
    fields := [[(0, 4)], [(8, 4)]]
    build := fun k vs => match vs with
      | [v0, v1] => (rxSrcOf k.lo v0).bind fun src => (rxOf k.hi v1).map fun x => .addl1a src x
      | _ => none }

/-- `ADDL2A rx,Rx` (R324): `1110 RRRR 0010 rrrr`. -/
def rowAddl2a : Row :=
  { words := 1, mask := 0xF0F0, mat := 0xE020, star := 0
    fields := [[(0, 4)], [(8, 4)]]
    build := fun k vs => match vs with
      | [v0, v1] => (rxSrcOf k.lo v0).bind fun src => (rxOf k.hi v1).map fun x => .addl2a src x
      | _ => none }

/-- `ASL2A Rx` (R325): `1110 RRRR 1111 1110`. -/
def rowAsl2a : Row :=
  { words := 1, mask := 0xF0FF, mat := 0xE0FE, star := 0
    fields := [[(8, 4)]]
    build := fun k vs => match vs with
      | [v0] => (rxOf k.hi v0).map fun x => .asl2a x
      | _ => none }

/-- `ASLA Rx` (R326): `1110 RRRR 1111 1100`. -/
def rowAsla : Row :=
  { words := 1, mask := 0xF0FF, mat := 0xE0FC, star := 0
    fields := [[(8, 4)]]
    build := fun k vs => match vs with
      | [v0] => (rxOf k.hi v0).map fun x => .asla x
      | _ => none }

/-- `ASRA Rx` (R327): `1110 RRRR 1111 1101`. -/
def rowAsra : Row :=
  { words := 1, mask := 0xF0FF, mat := 0xE0FD, star := 0
    fields := [[(8, 4)]]
    build := fun k vs => match vs with
      | [v0] => (rxOf k.hi v0).map fun x => .asra x
      | _ => none }

/-- `CMPEQA rx,Rx` (R328): `1110 RRRR 1010 rrrr`. -/
def rowCmpeqa : Row :=
  { words := 1, mask := 0xF0F0, mat := 0xE0A0, star := 0
    fields := [[(0, 4)], [(8, 4)]]
    build := fun k vs => match vs with
      | [v0, v1] => (rxSrcOf k.lo v0).bind fun src => (rxOf k.hi v1).map fun x => .cmpeqa src x
      | _ => none }

/-- `CMPGTA rx,Rx` (R329): `1110 RRRR 1001 rrrr`. -/
def rowCmpgta : Row :=
  { words := 1, mask := 0xF0F0, mat := 0xE090, star := 0
    fields := [[(0, 4)], [(8, 4)]]
    build := fun k vs => match vs with
      | [v0, v1] => (rxSrcOf k.lo v0).bind fun src => (rxOf k.hi v1).map fun x => .cmpgta src x
      | _ => none }

/-- `CMPHIA rx,Rx` (R330): `1110 RRRR 1000 rrrr`. -/
def rowCmphia : Row :=
  { words := 1, mask := 0xF0F0, mat := 0xE080, star := 0
    fields := [[(0, 4)], [(8, 4)]]
    build := fun k vs => match vs with
      | [v0, v1] => (rxSrcOf k.lo v0).bind fun src => (rxOf k.hi v1).map fun x => .cmphia src x
      | _ => none }

/-- `DECEQA Rx` (R332): `1110 RRRR 1111 0110`. -/
def rowDeceqa : Row :=
  { words := 1, mask := 0xF0FF, mat := 0xE0F6, star := 0
    fields := [[(8, 4)]]
    build := fun k vs => match vs with
      | [v0] => (rxOf k.hi v0).bind fun x => if x = .sp then none else some (.deceqa x)
      | _ => none }

/-- `DECGEA Rx` (R333): `1110 RRRR 1111 0111`. -/
def rowDecgea : Row :=
  { words := 1, mask := 0xF0FF, mat := 0xE0F7, star := 0
    fields := [[(8, 4)]]
    build := fun k vs => match vs with
      | [v0] => (rxOf k.hi v0).bind fun x => if x = .sp then none else some (.decgea x)
      | _ => none }

/-- `LSRA Rx` (R335): `1110 RRRR 1111 1111`. -/
def rowLsra : Row :=
  { words := 1, mask := 0xF0FF, mat := 0xE0FF, star := 0
    fields := [[(8, 4)]]
    build := fun k vs => match vs with
      | [v0] => (rxOf k.hi v0).map fun x => .lsra x
      | _ => none }

/-- `SUBA #u5,Rx` (R336): `1110 RRRR 011i iiii`. -/
def rowSubaImm : Row :=
  { words := 1, mask := 0xF0E0, mat := 0xE060, star := 0
    fields := [[(0, 5)], [(8, 4)]]
    build := fun k vs => match vs with
      | [v0, v1] => (rxOf k.hi v1).map fun x => .subaImm (BitVec.ofNat 5 v0) x
      | _ => none }

/-- `SUBA rx,Rx` (R336): `1110 RRRR 0011 rrrr`. -/
def rowSubaReg : Row :=
  { words := 1, mask := 0xF0F0, mat := 0xE030, star := 0
    fields := [[(0, 4)], [(8, 4)]]
    build := fun k vs => match vs with
      | [v0, v1] => (rxSrcOf k.lo v0).bind fun src => (rxOf k.hi v1).map fun x => .subaReg src x
      | _ => none }

/-- `SXTA.B rx,Rx` (R337): `1110 RRRR 1100 rrrr`. -/
def rowSxtaB : Row :=
  { words := 1, mask := 0xF0F0, mat := 0xE0C0, star := 0
    fields := [[(0, 4)], [(8, 4)]]
    build := fun k vs => match vs with
      | [v0, v1] => (rxSrcOf k.lo v0).bind fun src => (rxOf k.hi v1).map fun x => .sxtaB src x
      | _ => none }

/-- `SXTA.W Rx` (R338): `1110 RRRR 1111 1001`. -/
def rowSxtaW : Row :=
  { words := 1, mask := 0xF0FF, mat := 0xE0F9, star := 0
    fields := [[(8, 4)]]
    build := fun k vs => match vs with
      | [v0] => (rxOf k.hi v0).map fun x => .sxtaW x
      | _ => none }

/-- `TFRA rx,Rx` (R339): `1110 RRRR 1110 rrrr`. -/
def rowTfra : Row :=
  { words := 1, mask := 0xF0F0, mat := 0xE0E0, star := 0
    fields := [[(0, 4)], [(8, 4)]]
    build := fun k vs => match vs with
      | [v0, v1] => (rxSrcOf k.lo v0).bind fun src => (rxOf k.hi v1).map fun x => .tfra src x
      | _ => none }

/-- `TFRA OSP,Rn` (R340): `1001 1010 0111 0RRR`. -/
def rowTfraFromOsp : Row :=
  { words := 1, mask := 0xFFF8, mat := 0x9A70, star := 0
    fields := [[(0, 3)]]
    build := fun k vs => match vs with
      | [v0] => some (.tfraFromOsp (regOf k.hi v0))
      | _ => none }

/-- `TFRA Rn,OSP` (R340): `1001 1010 0111 1RRR`. -/
def rowTfraToOsp : Row :=
  { words := 1, mask := 0xFFF8, mat := 0x9A78, star := 0
    fields := [[(0, 3)]]
    build := fun k vs => match vs with
      | [v0] => some (.tfraToOsp (regOf k.hi v0))
      | _ => none }

/-- `TSTEQA.L Rx` (R341): `1110 RRRR 1111 0001`. -/
def rowTsteqaL : Row :=
  { words := 1, mask := 0xF0FF, mat := 0xE0F1, star := 0
    fields := [[(8, 4)]]
    build := fun k vs => match vs with
      | [v0] => (rxOf k.hi v0).map fun x => .tsteqaL x
      | _ => none }

/-- `TSTEQA.W Rx` (R342): `1110 RRRR 1111 0000`. -/
def rowTsteqaW : Row :=
  { words := 1, mask := 0xF0FF, mat := 0xE0F0, star := 0
    fields := [[(8, 4)]]
    build := fun k vs => match vs with
      | [v0] => (rxOf k.hi v0).map fun x => .tsteqaW x
      | _ => none }

/-- `TSTGEA.L Rx` (R343): `1110 RRRR 1111 0011`. -/
def rowTstgeaL : Row :=
  { words := 1, mask := 0xF0FF, mat := 0xE0F3, star := 0
    fields := [[(8, 4)]]
    build := fun k vs => match vs with
      | [v0] => (rxOf k.hi v0).map fun x => .tstgeaL x
      | _ => none }

/-- `TSTGTA Rx` (R344): `1110 RRRR 1111 0010`. -/
def rowTstgta : Row :=
  { words := 1, mask := 0xF0FF, mat := 0xE0F2, star := 0
    fields := [[(8, 4)]]
    build := fun k vs => match vs with
      | [v0] => (rxOf k.hi v0).map fun x => .tstgta x
      | _ => none }

/-- `ZXTA.B rx,Rx` (R345): `1110 RRRR 1101 rrrr`. -/
def rowZxtaB : Row :=
  { words := 1, mask := 0xF0F0, mat := 0xE0D0, star := 0
    fields := [[(0, 4)], [(8, 4)]]
    build := fun k vs => match vs with
      | [v0, v1] => (rxSrcOf k.lo v0).bind fun src => (rxOf k.hi v1).map fun x => .zxtaB src x
      | _ => none }

/-- `ZXTA.W Rx` (R346): `1110 RRRR 1111 1000`. -/
def rowZxtaW : Row :=
  { words := 1, mask := 0xF0FF, mat := 0xE0F8, star := 0
    fields := [[(8, 4)]]
    build := fun k vs => match vs with
      | [v0] => (rxOf k.hi v0).map fun x => .zxtaW x
      | _ => none }

/-- `MOVE.2F (EA),Da:Db` (R355): `0*01 1hh1 01MM MRRR`. -/
def rowMove2f : Row :=
  { words := 1, mask := 0xB9C0, mat := 0x1940, star := 0x4000
    fields := [[(3, 3)], [(0, 3)], [(9, 2)]]
    build := fun k vs => match vs with
      | [v0, v1, v2] => some (.move2f (eaOf v0) (regOf k.hi v1) (pair8Of k.lo v2))
      | _ => none }

/-- `MOVE.2L (EA),Da:Db / Da:Db,(EA)` (R356): `1100 0hhw 00MM MRRR`. -/
def rowMove2l : Row :=
  { words := 1, mask := 0xF8C0, mat := 0xC000, star := 0
    fields := [[(8, 1)], [(3, 3)], [(0, 3)], [(9, 2)]]
    build := fun k vs => match vs with
      | [v0, v1, v2, v3] => some (.move2l (dirOf v0) (eaOf v1) (regOf k.hi v2) (pair8Of k.lo v3))
      | _ => none }

/-- `MOVE.2W (EA),Da:Db / Da:Db,(EA)` (R357): `0*0w 1hh0 01MM MRRR`. -/
def rowMove2w : Row :=
  { words := 1, mask := 0xA9C0, mat := 0x0840, star := 0x4000
    fields := [[(12, 1)], [(3, 3)], [(0, 3)], [(9, 2)]]
    build := fun k vs => match vs with
      | [v0, v1, v2, v3] => some (.move2w (dirOf v0) (eaOf v1) (regOf k.hi v2) (pair8Of k.lo v3))
      | _ => none }

/-- `MOVE.4F (EA),Da:Db:Dc:Dd` (R358): `0*00 1k01 11MM MRRR`. -/
def rowMove4f : Row :=
  { words := 1, mask := 0xBBC0, mat := 0x09C0, star := 0x4000
    fields := [[(3, 3)], [(0, 3)], [(10, 1)]]
    build := fun k vs => match vs with
      | [v0, v1, v2] => some (.move4f (eaOf v0) (regOf k.hi v1) (quadOf k.lo v2))
      | _ => none }

/-- `MOVE.4W (EA),Da:Db:Dc:Dd / Da:Db:Dc:Dd,(EA)` (R359): `1100 1k0w 00MM MRRR`. -/
def rowMove4w : Row :=
  { words := 1, mask := 0xFAC0, mat := 0xC800, star := 0
    fields := [[(8, 1)], [(3, 3)], [(0, 3)], [(10, 1)]]
    build := fun k vs => match vs with
      | [v0, v1, v2, v3] => some (.move4w (dirOf v0) (eaOf v1) (regOf k.hi v2) (quadOf k.lo v3))
      | _ => none }

/-- `MOVE.B (a16),DR` (R360): `0001 HHHH AAA0 1110 / 100A AAAA AAAA AAAA`. -/
def rowMovebLoadAbs16 : Row :=
  { words := 2, mask := 0xE000F01F, mat := 0x8000100E, star := 0
    fields := [[(5, 3), (16, 13)], [(8, 4)]]
    build := fun k vs => match vs with
      | [v0, v1] => some (.movebLoad (.abs16 (BitVec.ofNat 16 v0)) (drOf k.lo v1))
      | _ => none }

/-- `MOVE.B DR,(a16)` (R360): `0000 HHHH AAA0 1100 / 100A AAAA AAAA AAAA`. -/
def rowMovebStoreAbs16 : Row :=
  { words := 2, mask := 0xE000F01F, mat := 0x8000000C, star := 0
    fields := [[(8, 4)], [(5, 3), (16, 13)]]
    build := fun k vs => match vs with
      | [v0, v1] => some (.movebStore (drOf k.lo v0) (.abs16 (BitVec.ofNat 16 v1)))
      | _ => none }

/-- `MOVE.B DR,(a32)` (R360): `0000 HHHH AAAa a001 / 001A AAAA AAAA AAAA / 10aa aaaa aaaa aaaa`. -/
def rowMovebStoreAbs32 : Row :=
  { words := 3, mask := 0xC000E000F007, mat := 0x800020000001, star := 0
    fields := [[(8, 4)], [(3, 2), (32, 14), (5, 3), (16, 13)]]
    build := fun k vs => match vs with
      | [v0, v1] => some (.movebStore (drOf k.lo v0) (.abs32 (BitVec.ofNat 32 v1)))
      | _ => none }

/-- `MOVE.B DR,(Rn+s15)` (R360): `0000 HHHH 0ss1 0RRR / 100s ssss ssss ssss`. -/
def rowMovebStoreDisp : Row :=
  { words := 2, mask := 0xE000F098, mat := 0x80000010, star := 0
    fields := [[(8, 4)], [(0, 3)], [(5, 2), (16, 13)]]
    build := fun k vs => match vs with
      | [v0, v1, v2] => some (.movebStore (drOf k.lo v0) (.disp (regOf k.hi v1) (BitVec.ofNat 15 v2)))
      | _ => none }

/-- `MOVE.B (ea),DR` (R360): `1001 HHHH 111M MRRR`. -/
def rowMovebLoadEa : Row :=
  { words := 1, mask := 0xF0E0, mat := 0x90E0, star := 0
    fields := [[(3, 2)], [(0, 3)], [(8, 4)]]
    build := fun k vs => match vs with
      | [v0, v1, v2] => some (.movebLoad (.ea (eaShortOf v0) (regOf k.hi v1)) (drOf k.lo v2))
      | _ => none }

/-- `MOVE.B DR,(ea)` (R360): `1001 HHHH 100M MRRR`. -/
def rowMovebStoreEa : Row :=
  { words := 1, mask := 0xF0E0, mat := 0x9080, star := 0
    fields := [[(8, 4)], [(3, 2)], [(0, 3)]]
    build := fun k vs => match vs with
      | [v0, v1, v2] => some (.movebStore (drOf k.lo v0) (.ea (eaShortOf v1) (regOf k.hi v2)))
      | _ => none }

/-- `MOVE.B (SP+s15),DR` (R360): `0001 HHHH 0ss1 1110 / 100s ssss ssss ssss`. -/
def rowMovebLoadSp : Row :=
  { words := 2, mask := 0xE000F09F, mat := 0x8000101E, star := 0
    fields := [[(5, 2), (16, 13)], [(8, 4)]]
    build := fun k vs => match vs with
      | [v0, v1] => some (.movebLoad (.sp (BitVec.ofNat 15 v0)) (drOf k.lo v1))
      | _ => none }

/-- `MOVE.B DR,(SP+s15)` (R360): `0000 HHHH 0ss1 1100 / 100s ssss ssss ssss`. -/
def rowMovebStoreSp : Row :=
  { words := 2, mask := 0xE000F09F, mat := 0x8000001C, star := 0
    fields := [[(8, 4)], [(5, 2), (16, 13)]]
    build := fun k vs => match vs with
      | [v0, v1] => some (.movebStore (drOf k.lo v0) (.sp (BitVec.ofNat 15 v1)))
      | _ => none }

/-- `MOVE.F #s16,Db` (R361): `0010 0jjj iii0 0001 / 100i iiii iiii iiii`. -/
def rowMovefImm : Row :=
  { words := 2, mask := 0xE000F81F, mat := 0x80002001, star := 0
    fields := [[(5, 3), (16, 13)], [(8, 3)]]
    build := fun k vs => match vs with
      | [v0, v1] => some (.movefImm (BitVec.ofNat 16 v0) (regOf k.lo v1))
      | _ => none }

/-- `MOVE.F (a16),Db` (R361): `0000 0jjj AAA0 1101 / 100A AAAA AAAA AAAA`. -/
def rowMovefLoadAbs16 : Row :=
  { words := 2, mask := 0xE000F81F, mat := 0x8000000D, star := 0
    fields := [[(5, 3), (16, 13)], [(8, 3)]]
    build := fun k vs => match vs with
      | [v0, v1] => some (.movefLoad (.abs16 (BitVec.ofNat 16 v0)) (regOf k.lo v1))
      | _ => none }

/-- `MOVE.F (a32),Db` (R361): `0000 1jjj AAAa a011 / 001A AAAA AAAA AAAA / 10aa aaaa aaaa aaaa`. -/
def rowMovefLoadAbs32 : Row :=
  { words := 3, mask := 0xC000E000F807, mat := 0x800020000803, star := 0
    fields := [[(3, 2), (32, 14), (5, 3), (16, 13)], [(8, 3)]]
    build := fun k vs => match vs with
      | [v0, v1] => some (.movefLoad (.abs32 (BitVec.ofNat 32 v0)) (regOf k.lo v1))
      | _ => none }

/-- `MOVE.F (EA),Db` (R361): `0*01 0jjj 01MM MRRR`. -/
def rowMovefLoadEa : Row :=
  { words := 1, mask := 0xB8C0, mat := 0x1040, star := 0x4000
    fields := [[(3, 3)], [(0, 3)], [(8, 3)]]
    build := fun k vs => match vs with
      | [v0, v1, v2] => some (.movefLoad (.ea (eaOf v0) (regOf k.hi v1)) (regOf k.lo v2))
      | _ => none }

/-- `MOVE.F (Rn+s15),Db` (R361): `0000 1jjj 1ss1 0RRR / 100s ssss ssss ssss`. -/
def rowMovefLoadDisp : Row :=
  { words := 2, mask := 0xE000F898, mat := 0x80000890, star := 0
    fields := [[(0, 3)], [(5, 2), (16, 13)], [(8, 3)]]
    build := fun k vs => match vs with
      | [v0, v1, v2] => some (.movefLoad (.disp (regOf k.hi v0) (BitVec.ofNat 15 v1)) (regOf k.lo v2))
      | _ => none }

/-- `MOVE.F (SP+s15),Db` (R361): `0000 0jjj 1ss1 1100 / 100s ssss ssss ssss`. -/
def rowMovefLoadSp : Row :=
  { words := 2, mask := 0xE000F89F, mat := 0x8000009C, star := 0
    fields := [[(5, 2), (16, 13)], [(8, 3)]]
    build := fun k vs => match vs with
      | [v0, v1] => some (.movefLoad (.sp (BitVec.ofNat 15 v0)) (regOf k.lo v1))
      | _ => none }

/-- `MOVE.F Db,(ea)` (R361): `1001 Mjjj 001M 1RRR`. -/
def rowMovefStoreEa : Row :=
  { words := 1, mask := 0xF0E8, mat := 0x9028, star := 0
    fields := [[(8, 3)], [(11, 1), (4, 1)], [(0, 3)]]
    build := fun k vs => match vs with
      | [v0, v1, v2] => some (.movefStore (regOf k.lo v0) (.ea (eaShortOf v1) (regOf k.hi v2)))
      | _ => none }

/-- `MOVE.L #s32,C4` (R362): `0011 DDDD iiiI I0D0 / 001i iiii iiii iiii / 10II IIII IIII IIII`. -/
def rowMovelImmC4 : Row :=
  { words := 3, mask := 0xC000E000F005, mat := 0x800020003000, star := 0
    fields := [[(3, 2), (32, 14), (5, 3), (16, 13)], [(8, 4), (1, 1)]]
    build := fun k vs => match vs with
      | [v0, v1] => some (.movelImmC4 (BitVec.ofNat 32 v0) (c4Of k.lo v1))
      | _ => none }

/-- `MOVE.L #u32,C1` (R362): `0011 0CCC iiiI I011 / 001i iiii iiii iiii / 10II IIII IIII IIII`. -/
def rowMovelImmC1 : Row :=
  { words := 3, mask := 0xC000E000F807, mat := 0x800020003003, star := 0
    fields := [[(3, 2), (32, 14), (5, 3), (16, 13)], [(8, 3)]]
    build := fun _ vs => match vs with
      | [v0, v1] => (c1Of v1).map fun c => .movelImmC1 (BitVec.ofNat 32 v0) c
      | _ => none }

/-- `MOVE.L C4,Db (w=1) / Db,C4 (w=0)` (R362): `1100 DDDD 010D wjjj`. -/
def rowMovelC4 : Row :=
  { words := 1, mask := 0xF0E0, mat := 0xC040, star := 0
    fields := [[(3, 1)], [(8, 4), (4, 1)], [(0, 3)]]
    build := fun k vs => match vs with
      | [v0, v1, v2] => some (.movelC4 (dirOf v0) (c4Of k.lo v1) (regOf k.hi v2))
      | _ => none }

/-- `MOVE.L C2,Db (w=1) / Db,C2 (w=0)` (R362): `1100 CCCC 0110 wjjj`. -/
def rowMovelC2 : Row :=
  { words := 1, mask := 0xF0F0, mat := 0xC060, star := 0
    fields := [[(3, 1)], [(8, 4)], [(0, 3)]]
    build := fun k vs => match vs with
      | [v0, v1, v2] => (c2Of v1).map fun c => .movelC2 (dirOf v0) c (regOf k.lo v2)
      | _ => none }

/-- `MOVE.L (SP+s15),De.E` (R363): `0000 1QQ0 1AA1 1110 / 100A AAAA AAAA AAAA`. -/
def rowMovelExtEvenSp : Row :=
  { words := 2, mask := 0xE000F99F, mat := 0x8000089E, star := 0
    fields := [[(5, 2), (16, 13)], [(9, 2)]]
    build := fun k vs => match vs with
      | [v0, v1] => some (.movelExtEven (.sp (BitVec.ofNat 15 v0)) (pair8Of k.lo v1))
      | _ => none }

/-- `MOVE.L Da.E:Db.E,(SP+s15)` (R363): `0000 1ff0 1AA1 1100 / 100A AAAA AAAA AAAA`. -/
def rowMovelExtStoreSp : Row :=
  { words := 2, mask := 0xE000F99F, mat := 0x8000089C, star := 0
    fields := [[(9, 2)], [(5, 2), (16, 13)]]
    build := fun k vs => match vs with
      | [v0, v1] => some (.movelExtStore (pair8Of k.lo v0) (.sp (BitVec.ofNat 15 v1)))
      | _ => none }

/-- `MOVE.L (SP+s15),Do.E` (R363): `0000 1qq1 1AA1 1110 / 100A AAAA AAAA AAAA`. -/
def rowMovelExtOddSp : Row :=
  { words := 2, mask := 0xE000F99F, mat := 0x8000099E, star := 0
    fields := [[(5, 2), (16, 13)], [(9, 2)]]
    build := fun k vs => match vs with
      | [v0, v1] => some (.movelExtOdd (.sp (BitVec.ofNat 15 v0)) (pair8Of k.lo v1))
      | _ => none }

/-- `MOVE.L (a32),De.E` (R363): `0001 1QQ0 AAAa a000 / 001A AAAA AAAA AAAA / 10aa aaaa aaaa aaaa`. -/
def rowMovelExtEvenAbs32 : Row :=
  { words := 3, mask := 0xC000E000F907, mat := 0x800020001800, star := 0
    fields := [[(3, 2), (32, 14), (5, 3), (16, 13)], [(9, 2)]]
    build := fun k vs => match vs with
      | [v0, v1] => some (.movelExtEven (.abs32 (BitVec.ofNat 32 v0)) (pair8Of k.lo v1))
      | _ => none }

/-- `MOVE.L Da.E:Db.E,(a32)` (R363): `0001 0ff0 AAAa a000 / 001A AAAA AAAA AAAA / 10aa aaaa aaaa aaaa`. -/
def rowMovelExtStoreAbs32 : Row :=
  { words := 3, mask := 0xC000E000F907, mat := 0x800020001000, star := 0
    fields := [[(9, 2)], [(3, 2), (32, 14), (5, 3), (16, 13)]]
    build := fun k vs => match vs with
      | [v0, v1] => some (.movelExtStore (pair8Of k.lo v0) (.abs32 (BitVec.ofNat 32 v1)))
      | _ => none }

/-- `MOVE.L (a32),Do.E` (R363): `0001 1qq1 AAAa a000 / 001A AAAA AAAA AAAA / 10aa aaaa aaaa aaaa`. -/
def rowMovelExtOddAbs32 : Row :=
  { words := 3, mask := 0xC000E000F907, mat := 0x800020001900, star := 0
    fields := [[(3, 2), (32, 14), (5, 3), (16, 13)], [(9, 2)]]
    build := fun k vs => match vs with
      | [v0, v1] => some (.movelExtOdd (.abs32 (BitVec.ofNat 32 v0)) (pair8Of k.lo v1))
      | _ => none }

/-- `MOVE.L (a32),DR / DR,(a32)` (R364): `0000 HHHH AAAa aw10 / 001A AAAA AAAA AAAA / 10aa aaaa aaaa aaaa`. -/
def rowMovelAbs32 : Row :=
  { words := 3, mask := 0xC000E000F003, mat := 0x800020000002, star := 0
    fields := [[(2, 1)], [(3, 2), (32, 14), (5, 3), (16, 13)], [(8, 4)]]
    build := fun k vs => match vs with
      | [v0, v1, v2] => some (.movel (dirOf v0) (.abs32 (BitVec.ofNat 32 v1)) (drOf k.lo v2))
      | _ => none }

/-- `MOVE.L (a16),C4 / C4,(a16)` (R364): `000w DDDD AAA0 10D1 / 100A AAAA AAAA AAAA`. -/
def rowMovelC4MemAbs16 : Row :=
  { words := 2, mask := 0xE000E01D, mat := 0x80000009, star := 0
    fields := [[(12, 1)], [(5, 3), (16, 13)], [(8, 4), (1, 1)]]
    build := fun k vs => match vs with
      | [v0, v1, v2] => some (.movelC4Mem (dirOf v0) (.abs16 (BitVec.ofNat 16 v1)) (c4Of k.lo v2))
      | _ => none }

/-- `MOVE.L (Rn+u3),DR / DR,(Rn+u3)` (R364): `1011 HHHH w1RR Rsss`. -/
def rowMovelShort : Row :=
  { words := 1, mask := 0xF040, mat := 0xB040, star := 0
    fields := [[(7, 1)], [(3, 3)], [(0, 3)], [(8, 4)]]
    build := fun k vs => match vs with
      | [v0, v1, v2, v3] => some (.movel (dirOf v0) (.short (regOf k.hi v1) (BitVec.ofNat 3 v2)) (drOf k.lo v3))
      | _ => none }

/-- `MOVE.L (Rn+s15),DR / DR,(Rn+s15)` (R364): `000w HHHH 1ss0 0RRR / 100s ssss ssss ssss`. -/
def rowMovelDisp : Row :=
  { words := 2, mask := 0xE000E098, mat := 0x80000080, star := 0
    fields := [[(12, 1)], [(0, 3)], [(5, 2), (16, 13)], [(8, 4)]]
    build := fun k vs => match vs with
      | [v0, v1, v2, v3] => some (.movel (dirOf v0) (.disp (regOf k.hi v1) (BitVec.ofNat 15 v2)) (drOf k.lo v3))
      | _ => none }

/-- `MOVE.L (Rn+Rr),DR / DR,(Rn+Rr)` (R364): `1010 HHHH w1RR Rrrr`. -/
def rowMovelIndex : Row :=
  { words := 1, mask := 0xF040, mat := 0xA040, star := 0
    fields := [[(7, 1)], [(3, 3)], [(0, 3)], [(8, 4)]]
    build := fun k vs => match vs with
      | [v0, v1, v2, v3] => some (.movel (dirOf v0) (.index (regOf k.hi v1) (Fin.ofNat 8 v2)) (drOf k.lo v3))
      | _ => none }

/-- `MOVE.L (EA),DR / DR,(EA)` (R364): `0*0w HHHH 10MM MRRR`. -/
def rowMovelEa : Row :=
  { words := 1, mask := 0xA0C0, mat := 0x0080, star := 0x4000
    fields := [[(12, 1)], [(3, 3)], [(0, 3)], [(8, 4)]]
    build := fun k vs => match vs with
      | [v0, v1, v2, v3] => some (.movel (dirOf v0) (.ea (eaOf v1) (regOf k.hi v2)) (drOf k.lo v3))
      | _ => none }

/-- `MOVE.L (Rn),C3 / C3,(Rn)` (R364): `1001 DDDD 0001 wRRR`. -/
def rowMovelC3 : Row :=
  { words := 1, mask := 0xF0F0, mat := 0x9010, star := 0
    fields := [[(3, 1)], [(0, 3)], [(8, 4)]]
    build := fun k vs => match vs with
      | [v0, v1, v2] => some (.movelC3 (dirOf v0) (regOf k.hi v1) (c3Of v2))
      | _ => none }

/-- `MOVE.L (SP-u6),DR / DR,(SP-u6)` (R364): `1111 HHHH w1ss ssss`. -/
def rowMovelSpShort : Row :=
  { words := 1, mask := 0xF040, mat := 0xF040, star := 0
    fields := [[(7, 1)], [(0, 6)], [(8, 4)]]
    build := fun k vs => match vs with
      | [v0, v1, v2] => some (.movel (dirOf v0) (.spShort (BitVec.ofNat 6 v1)) (drOf k.lo v2))
      | _ => none }

/-- `MOVE.L (SP+s15),C4 / C4,(SP+s15)` (R364): `000w DDDD 1ss1 10D0 / 100s ssss ssss ssss`. -/
def rowMovelC4MemSp : Row :=
  { words := 2, mask := 0xE000E09D, mat := 0x80000098, star := 0
    fields := [[(12, 1)], [(5, 2), (16, 13)], [(8, 4), (1, 1)]]
    build := fun k vs => match vs with
      | [v0, v1, v2] => some (.movelC4Mem (dirOf v0) (.sp (BitVec.ofNat 15 v1)) (c4Of k.lo v2))
      | _ => none }

/-- `MOVE.W #s7,DR` (R365): `1100 HHHH 1iii iiii`. -/
def rowMovewImm7 : Row :=
  { words := 1, mask := 0xF080, mat := 0xC080, star := 0
    fields := [[(0, 7)], [(8, 4)]]
    build := fun k vs => match vs with
      | [v0, v1] => some (.movewImm7 (BitVec.ofNat 7 v0) (drOf k.lo v1))
      | _ => none }

/-- `MOVE.W #s16,C4` (R365): `0010 DDDD iii0 00D0 / 100i iiii iiii iiii`. -/
def rowMovewImm16 : Row :=
  { words := 2, mask := 0xE000F01D, mat := 0x80002000, star := 0
    fields := [[(5, 3), (16, 13)], [(8, 4), (1, 1)]]
    build := fun k vs => match vs with
      | [v0, v1] => some (.movewImm16 (BitVec.ofNat 16 v0) (c4Of k.lo v1))
      | _ => none }

/-- `MOVE.W #s16,(a16)` (R365): `0011 1000 AAAi i100 / 001A AAAA AAAA AAAA / 10ii iiii iiii iiii`. -/
def rowMovewImmMemAbs16 : Row :=
  { words := 3, mask := 0xC000E000FF07, mat := 0x800020003804, star := 0
    fields := [[(3, 2), (32, 14)], [(5, 3), (16, 13)]]
    build := fun _ vs => match vs with
      | [v0, v1] => some (.movewImmMem (BitVec.ofNat 16 v0) (.abs16 (BitVec.ofNat 16 v1)))
      | _ => none }

/-- `MOVE.W #s16,(SP-u5)` (R365): `0001 1000 iiiA AAAA / 101i iiii iiii iiii`. -/
def rowMovewImmMemSpShort : Row :=
  { words := 2, mask := 0xE000FF00, mat := 0xA0001800, star := 0
    fields := [[(5, 3), (16, 13)], [(0, 5)]]
    build := fun _ vs => match vs with
      | [v0, v1] => some (.movewImmMem (BitVec.ofNat 16 v0) (.spShort (BitVec.ofNat 5 v1)))
      | _ => none }

/-- `MOVE.W #s16,(Rn)` (R365): `0001 1001 iii0 1RRR / 101i iiii iiii iiii`. -/
def rowMovewImmMemRn : Row :=
  { words := 2, mask := 0xE000FF18, mat := 0xA0001908, star := 0
    fields := [[(5, 3), (16, 13)], [(0, 3)]]
    build := fun k vs => match vs with
      | [v0, v1] => some (.movewImmMem (BitVec.ofNat 16 v0) (.rn (regOf k.hi v1)))
      | _ => none }

/-- `MOVE.W #s16,(SP+sa16)` (R365): `0011 1000 AAAi i101 / 001A AAAA AAAA AAAA / 10ii iiii iiii iiii`. -/
def rowMovewImmMemSp : Row :=
  { words := 3, mask := 0xC000E000FF07, mat := 0x800020003805, star := 0
    fields := [[(3, 2), (32, 14)], [(5, 3), (16, 13)]]
    build := fun _ vs => match vs with
      | [v0, v1] => some (.movewImmMem (BitVec.ofNat 16 v0) (.sp (BitVec.ofNat 16 v1)))
      | _ => none }

/-- `MOVE.W (a32),DR / DR,(a32)` (R366): `0000 HHHH AAAa aw00 / 001A AAAA AAAA AAAA / 10aa aaaa aaaa aaaa`. -/
def rowMovewAbs32 : Row :=
  { words := 3, mask := 0xC000E000F003, mat := 0x800020000000, star := 0
    fields := [[(2, 1)], [(3, 2), (32, 14), (5, 3), (16, 13)], [(8, 4)]]
    build := fun k vs => match vs with
      | [v0, v1, v2] => some (.movew (dirOf v0) (.abs32 (BitVec.ofNat 32 v1)) (drOf k.lo v2))
      | _ => none }

/-- `MOVE.W (a16),C4 / C4,(a16)` (R366): `000w DDDD AAA0 10D0 / 100A AAAA AAAA AAAA`. -/
def rowMovewC4MemAbs16 : Row :=
  { words := 2, mask := 0xE000E01D, mat := 0x80000008, star := 0
    fields := [[(12, 1)], [(5, 3), (16, 13)], [(8, 4), (1, 1)]]
    build := fun k vs => match vs with
      | [v0, v1, v2] => some (.movewC4Mem (dirOf v0) (.abs16 (BitVec.ofNat 16 v1)) (c4Of k.lo v2))
      | _ => none }

/-- `MOVE.W (Rn+u3),DR / DR,(Rn+u3)` (R366): `1011 HHHH w0RR Rsss`. -/
def rowMovewShort : Row :=
  { words := 1, mask := 0xF040, mat := 0xB000, star := 0
    fields := [[(7, 1)], [(3, 3)], [(0, 3)], [(8, 4)]]
    build := fun k vs => match vs with
      | [v0, v1, v2, v3] => some (.movew (dirOf v0) (.short (regOf k.hi v1) (BitVec.ofNat 3 v2)) (drOf k.lo v3))
      | _ => none }

/-- `MOVE.W (Rn+s15),DR / DR,(Rn+s15)` (R366): `000w HHHH 0ss0 0RRR / 100s ssss ssss ssss`. -/
def rowMovewDisp : Row :=
  { words := 2, mask := 0xE000E098, mat := 0x80000000, star := 0
    fields := [[(12, 1)], [(0, 3)], [(5, 2), (16, 13)], [(8, 4)]]
    build := fun k vs => match vs with
      | [v0, v1, v2, v3] => some (.movew (dirOf v0) (.disp (regOf k.hi v1) (BitVec.ofNat 15 v2)) (drOf k.lo v3))
      | _ => none }

/-- `MOVE.W (Rn+Rr),DR / DR,(Rn+Rr)` (R366): `1010 HHHH w0RR Rrrr`. -/
def rowMovewIndex : Row :=
  { words := 1, mask := 0xF040, mat := 0xA000, star := 0
    fields := [[(7, 1)], [(3, 3)], [(0, 3)], [(8, 4)]]
    build := fun k vs => match vs with
      | [v0, v1, v2, v3] => some (.movew (dirOf v0) (.index (regOf k.hi v1) (Fin.ofNat 8 v2)) (drOf k.lo v3))
      | _ => none }

/-- `MOVE.W (EA),DR / DR,(EA)` (R366): `0*0w HHHH 00MM MRRR`. -/
def rowMovewEa : Row :=
  { words := 1, mask := 0xA0C0, mat := 0x0000, star := 0x4000
    fields := [[(12, 1)], [(3, 3)], [(0, 3)], [(8, 4)]]
    build := fun k vs => match vs with
      | [v0, v1, v2, v3] => some (.movew (dirOf v0) (.ea (eaOf v1) (regOf k.hi v2)) (drOf k.lo v3))
      | _ => none }

/-- `MOVE.W (Rn),C3 / C3,(Rn)` (R366): `1001 DDDD 0000 wRRR`. -/
def rowMovewC3 : Row :=
  { words := 1, mask := 0xF0F0, mat := 0x9000, star := 0
    fields := [[(3, 1)], [(0, 3)], [(8, 4)]]
    build := fun k vs => match vs with
      | [v0, v1, v2] => some (.movewC3 (dirOf v0) (regOf k.hi v1) (c3Of v2))
      | _ => none }

/-- `MOVE.W (SP+s15),C4 / C4,(SP+s15)` (R366): `000w DDDD 0ss1 10D0 / 100s ssss ssss ssss`. -/
def rowMovewC4MemSp : Row :=
  { words := 2, mask := 0xE000E09D, mat := 0x80000018, star := 0
    fields := [[(12, 1)], [(5, 2), (16, 13)], [(8, 4), (1, 1)]]
    build := fun k vs => match vs with
      | [v0, v1, v2] => some (.movewC4Mem (dirOf v0) (.sp (BitVec.ofNat 15 v1)) (c4Of k.lo v2))
      | _ => none }

/-- `MOVE.W (SP-u6),DR / DR,(SP-u6)` (R366): `1111 HHHH w0ss ssss`. -/
def rowMovewSpShort : Row :=
  { words := 1, mask := 0xF040, mat := 0xF000, star := 0
    fields := [[(7, 1)], [(0, 6)], [(8, 4)]]
    build := fun k vs => match vs with
      | [v0, v1, v2] => some (.movew (dirOf v0) (.spShort (BitVec.ofNat 6 v1)) (drOf k.lo v2))
      | _ => none }

/-- `MOVET Rq,Rn` (R367): `1001 1RRR 0101 0qqq`. -/
def rowMovet : Row :=
  { words := 1, mask := 0xF8F8, mat := 0x9850, star := 0
    fields := [[(0, 3)], [(8, 3)]]
    build := fun k vs => match vs with
      | [v0, v1] => some (.movet (regOf k.lo v0) (regOf k.hi v1))
      | _ => none }

/-- `MOVEF Rq,Rn` (R367): `1001 1RRR 0101 1qqq`. -/
def rowMovef : Row :=
  { words := 1, mask := 0xF8F8, mat := 0x9858, star := 0
    fields := [[(0, 3)], [(8, 3)]]
    build := fun k vs => match vs with
      | [v0, v1] => some (.movef (regOf k.lo v0) (regOf k.hi v1))
      | _ => none }

/-- `MOVES.2F Da:Db,(EA)` (R368): `0*00 1hh1 01MM MRRR`. -/
def rowMoves2f : Row :=
  { words := 1, mask := 0xB9C0, mat := 0x0940, star := 0x4000
    fields := [[(9, 2)], [(3, 3)], [(0, 3)]]
    build := fun k vs => match vs with
      | [v0, v1, v2] => some (.moves2f (pair8Of k.lo v0) (eaOf v1) (regOf k.hi v2))
      | _ => none }

/-- `MOVES.4F Da:Db:Dc:Dd,(EA)` (R369): `0*00 1k00 11MM MRRR`. -/
def rowMoves4f : Row :=
  { words := 1, mask := 0xBBC0, mat := 0x08C0, star := 0x4000
    fields := [[(10, 1)], [(3, 3)], [(0, 3)]]
    build := fun k vs => match vs with
      | [v0, v1, v2] => some (.moves4f (quadOf k.lo v0) (eaOf v1) (regOf k.hi v2))
      | _ => none }

/-- `MOVES.F Db,(a16)` (R370): `0000 0jjj AAA0 1111 / 100A AAAA AAAA AAAA`. -/
def rowMovesfAbs16 : Row :=
  { words := 2, mask := 0xE000F81F, mat := 0x8000000F, star := 0
    fields := [[(8, 3)], [(5, 3), (16, 13)]]
    build := fun k vs => match vs with
      | [v0, v1] => some (.movesf (regOf k.lo v0) (.abs16 (BitVec.ofNat 16 v1)))
      | _ => none }

/-- `MOVES.F Db,(a32)` (R370): `0000 0jjj AAAa a011 / 001A AAAA AAAA AAAA / 10aa aaaa aaaa aaaa`. -/
def rowMovesfAbs32 : Row :=
  { words := 3, mask := 0xC000E000F807, mat := 0x800020000003, star := 0
    fields := [[(8, 3)], [(3, 2), (32, 14), (5, 3), (16, 13)]]
    build := fun k vs => match vs with
      | [v0, v1] => some (.movesf (regOf k.lo v0) (.abs32 (BitVec.ofNat 32 v1)))
      | _ => none }

/-- `MOVES.F Db,(Rn+s15)` (R370): `0000 0jjj 1ss1 0RRR / 100s ssss ssss ssss`. -/
def rowMovesfDisp : Row :=
  { words := 2, mask := 0xE000F898, mat := 0x80000090, star := 0
    fields := [[(8, 3)], [(0, 3)], [(5, 2), (16, 13)]]
    build := fun k vs => match vs with
      | [v0, v1, v2] => some (.movesf (regOf k.lo v0) (.disp (regOf k.hi v1) (BitVec.ofNat 15 v2)))
      | _ => none }

/-- `MOVES.F Db,(EA)` (R370): `0*00 0jjj 01MM MRRR`. -/
def rowMovesfEa : Row :=
  { words := 1, mask := 0xB8C0, mat := 0x0040, star := 0x4000
    fields := [[(8, 3)], [(3, 3)], [(0, 3)]]
    build := fun k vs => match vs with
      | [v0, v1, v2] => some (.movesf (regOf k.lo v0) (.ea (eaOf v1) (regOf k.hi v2)))
      | _ => none }

/-- `MOVES.F Db,(SP+s15)` (R370): `0000 0jjj 1ss1 1110 / 100s ssss ssss ssss`. -/
def rowMovesfSp : Row :=
  { words := 2, mask := 0xE000F89F, mat := 0x8000009E, star := 0
    fields := [[(8, 3)], [(5, 2), (16, 13)]]
    build := fun k vs => match vs with
      | [v0, v1] => some (.movesf (regOf k.lo v0) (.sp (BitVec.ofNat 15 v1)))
      | _ => none }

/-- `MOVES.L Db,(EA)` (R371): `0*00 0jjj 11MM MRRR`. -/
def rowMoveslEa : Row :=
  { words := 1, mask := 0xB8C0, mat := 0x00C0, star := 0x4000
    fields := [[(8, 3)], [(3, 3)], [(0, 3)]]
    build := fun k vs => match vs with
      | [v0, v1, v2] => some (.moveslEa (regOf k.lo v0) (eaOf v1) (regOf k.hi v2))
      | _ => none }

/-- `MOVEU.B (a16),DR` (R373): `0001 HHHH AAA0 1100 / 100A AAAA AAAA AAAA`. -/
def rowMoveubAbs16 : Row :=
  { words := 2, mask := 0xE000F01F, mat := 0x8000100C, star := 0
    fields := [[(5, 3), (16, 13)], [(8, 4)]]
    build := fun k vs => match vs with
      | [v0, v1] => some (.moveub (.abs16 (BitVec.ofNat 16 v0)) (drOf k.lo v1))
      | _ => none }

/-- `MOVEU.B (a32),DR` (R373): `0000 HHHH AAAa a101 / 001A AAAA AAAA AAAA / 10aa aaaa aaaa aaaa`. -/
def rowMoveubAbs32 : Row :=
  { words := 3, mask := 0xC000E000F007, mat := 0x800020000005, star := 0
    fields := [[(3, 2), (32, 14), (5, 3), (16, 13)], [(8, 4)]]
    build := fun k vs => match vs with
      | [v0, v1] => some (.moveub (.abs32 (BitVec.ofNat 32 v0)) (drOf k.lo v1))
      | _ => none }

/-- `MOVEU.B (Rn+s15),DR` (R373): `0001 HHHH 0ss1 0RRR / 100s ssss ssss ssss`. -/
def rowMoveubDisp : Row :=
  { words := 2, mask := 0xE000F098, mat := 0x80001010, star := 0
    fields := [[(0, 3)], [(5, 2), (16, 13)], [(8, 4)]]
    build := fun k vs => match vs with
      | [v0, v1, v2] => some (.moveub (.disp (regOf k.hi v0) (BitVec.ofNat 15 v1)) (drOf k.lo v2))
      | _ => none }

/-- `MOVEU.B (ea),DR` (R373): `1001 HHHH 101M MRRR`. -/
def rowMoveubEa : Row :=
  { words := 1, mask := 0xF0E0, mat := 0x90A0, star := 0
    fields := [[(3, 2)], [(0, 3)], [(8, 4)]]
    build := fun k vs => match vs with
      | [v0, v1, v2] => some (.moveub (.ea (eaShortOf v0) (regOf k.hi v1)) (drOf k.lo v2))
      | _ => none }

/-- `MOVEU.B (SP+s15),DR` (R373): `0001 HHHH 0ss1 1100 / 100s ssss ssss ssss`. -/
def rowMoveubSp : Row :=
  { words := 2, mask := 0xE000F09F, mat := 0x8000101C, star := 0
    fields := [[(5, 2), (16, 13)], [(8, 4)]]
    build := fun k vs => match vs with
      | [v0, v1] => some (.moveub (.sp (BitVec.ofNat 15 v0)) (drOf k.lo v1))
      | _ => none }

/-- `MOVEU.L #u32,Db` (R374): `0011 0jjj iiiI I001 / 001i iiii iiii iiii / 10II IIII IIII IIII`. -/
def rowMoveulImm : Row :=
  { words := 3, mask := 0xC000E000F807, mat := 0x800020003001, star := 0
    fields := [[(3, 2), (32, 14), (5, 3), (16, 13)], [(8, 3)]]
    build := fun k vs => match vs with
      | [v0, v1] => some (.moveulImm (BitVec.ofNat 32 v0) (regOf k.lo v1))
      | _ => none }

/-- `MOVEU.W #u16,Db.H` (R375): `0001 1001 iii1 0jjj / 101i iiii iiii iiii`. -/
def rowMoveuwHigh : Row :=
  { words := 2, mask := 0xE000FF18, mat := 0xA0001910, star := 0
    fields := [[(5, 3), (16, 13)], [(0, 3)]]
    build := fun k vs => match vs with
      | [v0, v1] => some (.moveuwHigh (BitVec.ofNat 16 v0) (regOf k.lo v1))
      | _ => none }

/-- `MOVEU.W #u16,Db.L` (R375): `0001 1001 iii0 0jjj / 101i iiii iiii iiii`. -/
def rowMoveuwLow : Row :=
  { words := 2, mask := 0xE000FF18, mat := 0xA0001900, star := 0
    fields := [[(5, 3), (16, 13)], [(0, 3)]]
    build := fun k vs => match vs with
      | [v0, v1] => some (.moveuwLow (BitVec.ofNat 16 v0) (regOf k.lo v1))
      | _ => none }

/-- `MOVEU.W (a16),C4` (R376): `0001 DDDD AAA0 11D1 / 100A AAAA AAAA AAAA`. -/
def rowMoveuwC4Abs16 : Row :=
  { words := 2, mask := 0xE000F01D, mat := 0x8000100D, star := 0
    fields := [[(5, 3), (16, 13)], [(8, 4), (1, 1)]]
    build := fun k vs => match vs with
      | [v0, v1] => some (.moveuwC4 (.abs16 (BitVec.ofNat 16 v0)) (c4Of k.lo v1))
      | _ => none }

/-- `MOVEU.W (a32),DR` (R376): `0000 HHHH AAAa a111 / 001A AAAA AAAA AAAA / 10aa aaaa aaaa aaaa`. -/
def rowMoveuwAbs32 : Row :=
  { words := 3, mask := 0xC000E000F007, mat := 0x800020000007, star := 0
    fields := [[(3, 2), (32, 14), (5, 3), (16, 13)], [(8, 4)]]
    build := fun k vs => match vs with
      | [v0, v1] => some (.moveuw (.abs32 (BitVec.ofNat 32 v0)) (drOf k.lo v1))
      | _ => none }

/-- `MOVEU.W (Rn+s15),DR` (R376): `0001 HHHH 1ss1 0RRR / 100s ssss ssss ssss`. -/
def rowMoveuwDisp : Row :=
  { words := 2, mask := 0xE000F098, mat := 0x80001090, star := 0
    fields := [[(0, 3)], [(5, 2), (16, 13)], [(8, 4)]]
    build := fun k vs => match vs with
      | [v0, v1, v2] => some (.moveuw (.disp (regOf k.hi v0) (BitVec.ofNat 15 v1)) (drOf k.lo v2))
      | _ => none }

/-- `MOVEU.W (EA),DR` (R376): `0*01 HHHH 11MM MRRR`. -/
def rowMoveuwEa : Row :=
  { words := 1, mask := 0xB0C0, mat := 0x10C0, star := 0x4000
    fields := [[(3, 3)], [(0, 3)], [(8, 4)]]
    build := fun k vs => match vs with
      | [v0, v1, v2] => some (.moveuw (.ea (eaOf v0) (regOf k.hi v1)) (drOf k.lo v2))
      | _ => none }

/-- `MOVEU.W (SP+s15),C4` (R376): `0001 DDDD 1ss1 11D0 / 100s ssss ssss ssss`. -/
def rowMoveuwC4Sp : Row :=
  { words := 2, mask := 0xE000F09D, mat := 0x8000109C, star := 0
    fields := [[(5, 2), (16, 13)], [(8, 4), (1, 1)]]
    build := fun k vs => match vs with
      | [v0, v1] => some (.moveuwC4 (.sp (BitVec.ofNat 15 v0)) (c4Of k.lo v1))
      | _ => none }

/-- `VSL.2F D1:D3,(Rn)+N0` (R377): `1100 1010 0011 0RRR`. -/
def rowVsl2f : Row :=
  { words := 1, mask := 0xFFF8, mat := 0xCA30, star := 0
    fields := [[(0, 3)]]
    build := fun k vs => match vs with
      | [v0] => some (.vsl2f k.lo (regOf k.hi v0))
      | _ => none }

/-- `VSL.2W D1:D3,(Rn)+N0` (R378): `1100 1010 0010 0RRR`. -/
def rowVsl2w : Row :=
  { words := 1, mask := 0xFFF8, mat := 0xCA20, star := 0
    fields := [[(0, 3)]]
    build := fun k vs => match vs with
      | [v0] => some (.vsl2w k.lo (regOf k.hi v0))
      | _ => none }

/-- `VSL.4F D2:D6:D1:D3,(Rn)+N0` (R379): `1100 1010 0001 0RRR`. -/
def rowVsl4f : Row :=
  { words := 1, mask := 0xFFF8, mat := 0xCA10, star := 0
    fields := [[(0, 3)]]
    build := fun k vs => match vs with
      | [v0] => some (.vsl4f k.lo (regOf k.hi v0))
      | _ => none }

/-- `VSL.4W D2:D6:D1:D3,(Rn)+N0` (R380): `1100 1010 0000 0RRR`. -/
def rowVsl4w : Row :=
  { words := 1, mask := 0xFFF8, mat := 0xCA00, star := 0
    fields := [[(0, 3)]]
    build := fun k vs => match vs with
      | [v0] => some (.vsl4w k.lo (regOf k.hi v0))
      | _ => none }

/-- `POP De` (R391): `1001 EEE0 001E 00E1`. -/
def rowPopEven : Row :=
  { words := 1, mask := 0xF1ED, mat := 0x9021, star := 0
    fields := [[(9, 3), (4, 1), (1, 1)]]
    build := fun k vs => match vs with
      | [v0] => (evenOf k.lo v0).map fun e => .popEven e
      | _ => none }

/-- `POP Do` (R391): `1001 eee1 001e 00e1`. -/
def rowPopOdd : Row :=
  { words := 1, mask := 0xF1ED, mat := 0x9121, star := 0
    fields := [[(9, 3), (4, 1), (1, 1)]]
    build := fun k vs => match vs with
      | [v0] => (oddOf k.lo v0).map fun o => .popOdd o
      | _ => none }

/-- `POPN De` (R392): `1001 EEE0 001E 01E1`. -/
def rowPopnEven : Row :=
  { words := 1, mask := 0xF1ED, mat := 0x9025, star := 0
    fields := [[(9, 3), (4, 1), (1, 1)]]
    build := fun k vs => match vs with
      | [v0] => (evenOf k.lo v0).map fun e => .popnEven e
      | _ => none }

/-- `POPN Do` (R392): `1001 eee1 001e 01e1`. -/
def rowPopnOdd : Row :=
  { words := 1, mask := 0xF1ED, mat := 0x9125, star := 0
    fields := [[(9, 3), (4, 1), (1, 1)]]
    build := fun k vs => match vs with
      | [v0] => (oddOf k.lo v0).map fun o => .popnOdd o
      | _ => none }

/-- `PUSH De` (R393): `1001 EEE0 001E 00E0`. -/
def rowPushEven : Row :=
  { words := 1, mask := 0xF1ED, mat := 0x9020, star := 0
    fields := [[(9, 3), (4, 1), (1, 1)]]
    build := fun k vs => match vs with
      | [v0] => (evenOf k.lo v0).map fun e => .pushEven e
      | _ => none }

/-- `PUSH Do` (R393): `1001 eee1 001e 00e0`. -/
def rowPushOdd : Row :=
  { words := 1, mask := 0xF1ED, mat := 0x9120, star := 0
    fields := [[(9, 3), (4, 1), (1, 1)]]
    build := fun k vs => match vs with
      | [v0] => (oddOf k.lo v0).map fun o => .pushOdd o
      | _ => none }

/-- `PUSHN De` (R394): `1001 EEE0 001E 01E0`. -/
def rowPushnEven : Row :=
  { words := 1, mask := 0xF1ED, mat := 0x9024, star := 0
    fields := [[(9, 3), (4, 1), (1, 1)]]
    build := fun k vs => match vs with
      | [v0] => (evenOf k.lo v0).map fun e => .pushnEven e
      | _ => none }

/-- `PUSHN Do` (R394): `1001 eee1 001e 01e0`. -/
def rowPushnOdd : Row :=
  { words := 1, mask := 0xF1ED, mat := 0x9124, star := 0
    fields := [[(9, 3), (4, 1), (1, 1)]]
    build := fun k vs => match vs with
      | [v0] => (oddOf k.lo v0).map fun o => .pushnOdd o
      | _ => none }

/-- `BMCLR #u16,DR.H (h=1) / DR.L (h=0)` (R399): `0000 1000 iiih HHHH / 101i iiii iiii iiii`. -/
def rowBmclrDr : Row :=
  { words := 2, mask := 0xE000FF00, mat := 0xA0000800, star := 0
    fields := [[(5, 3), (16, 13)], [(4, 1)], [(0, 4)]]
    build := fun k vs => match vs with
      | [v0, v1, v2] => some (.bmclrDr (BitVec.ofNat 16 v0) (halfOf v1) (drOf k.lo v2))
      | _ => none }

/-- `BMCLR #u16,C1.H (h=1) / C1.L (h=0)` (R399): `0001 0000 iiih 0CCC / 101i iiii iiii iiii`. -/
def rowBmclrC1 : Row :=
  { words := 2, mask := 0xE000FF08, mat := 0xA0001000, star := 0
    fields := [[(5, 3), (16, 13)], [(4, 1)], [(0, 3)]]
    build := fun _ vs => match vs with
      | [v0, v1, v2] => (c1Of v2).map fun c => .bmclrC1 (BitVec.ofNat 16 v0) (halfOf v1) c
      | _ => none }

/-- `BMCLR.W #u16,(Rn)` (R400): `0001 0000 iii0 1RRR / 101i iiii iiii iiii`. -/
def rowBmclrMemRn : Row :=
  { words := 2, mask := 0xE000FF18, mat := 0xA0001008, star := 0
    fields := [[(5, 3), (16, 13)], [(0, 3)]]
    build := fun k vs => match vs with
      | [v0, v1] => some (.bmclrMem (BitVec.ofNat 16 v0) (.rn (regOf k.hi v1)))
      | _ => none }

/-- `BMCLR.W #u16,(SP-u5)` (R400): `0000 0000 iiiA AAAA / 101i iiii iiii iiii`. -/
def rowBmclrMemSpShort : Row :=
  { words := 2, mask := 0xE000FF00, mat := 0xA0000000, star := 0
    fields := [[(5, 3), (16, 13)], [(0, 5)]]
    build := fun _ vs => match vs with
      | [v0, v1] => some (.bmclrMem (BitVec.ofNat 16 v0) (.spShort (BitVec.ofNat 5 v1)))
      | _ => none }

/-- `BMCLR.W #u16,(a16)` (R400): `0011 1000 AAAi i001 / 001A AAAA AAAA AAAA / 10ii iiii iiii iiii`. -/
def rowBmclrMemAbs16 : Row :=
  { words := 3, mask := 0xC000E000FF07, mat := 0x800020003801, star := 0
    fields := [[(3, 2), (32, 14)], [(5, 3), (16, 13)]]
    build := fun _ vs => match vs with
      | [v0, v1] => some (.bmclrMem (BitVec.ofNat 16 v0) (.abs16 (BitVec.ofNat 16 v1)))
      | _ => none }

/-- `BMCLR.W #u16,(SP+s16)` (R400): `0011 1000 AAAi i011 / 001A AAAA AAAA AAAA / 10ii iiii iiii iiii`. -/
def rowBmclrMemSp : Row :=
  { words := 3, mask := 0xC000E000FF07, mat := 0x800020003803, star := 0
    fields := [[(3, 2), (32, 14)], [(5, 3), (16, 13)]]
    build := fun _ vs => match vs with
      | [v0, v1] => some (.bmclrMem (BitVec.ofNat 16 v0) (.sp (BitVec.ofNat 16 v1)))
      | _ => none }

/-- `BMSET #u16,DR.H (h=1) / DR.L (h=0)` (R401): `0000 1001 iiih HHHH / 101i iiii iiii iiii`. -/
def rowBmsetDr : Row :=
  { words := 2, mask := 0xE000FF00, mat := 0xA0000900, star := 0
    fields := [[(5, 3), (16, 13)], [(4, 1)], [(0, 4)]]
    build := fun k vs => match vs with
      | [v0, v1, v2] => some (.bmsetDr (BitVec.ofNat 16 v0) (halfOf v1) (drOf k.lo v2))
      | _ => none }

/-- `BMSET #u16,C1.H (h=1) / C1.L (h=0)` (R401): `0001 0001 iiih 0CCC / 101i iiii iiii iiii`. -/
def rowBmsetC1 : Row :=
  { words := 2, mask := 0xE000FF08, mat := 0xA0001100, star := 0
    fields := [[(5, 3), (16, 13)], [(4, 1)], [(0, 3)]]
    build := fun _ vs => match vs with
      | [v0, v1, v2] => (c1Of v2).map fun c => .bmsetC1 (BitVec.ofNat 16 v0) (halfOf v1) c
      | _ => none }

/-- `BMSET.W #u16,(Rn)` (R402): `0001 0001 iii0 1RRR / 101i iiii iiii iiii`. -/
def rowBmsetMemRn : Row :=
  { words := 2, mask := 0xE000FF18, mat := 0xA0001108, star := 0
    fields := [[(5, 3), (16, 13)], [(0, 3)]]
    build := fun k vs => match vs with
      | [v0, v1] => some (.bmsetMem (BitVec.ofNat 16 v0) (.rn (regOf k.hi v1)))
      | _ => none }

/-- `BMSET.W #u16,(SP-u5)` (R402): `0000 0001 iiiA AAAA / 101i iiii iiii iiii`. -/
def rowBmsetMemSpShort : Row :=
  { words := 2, mask := 0xE000FF00, mat := 0xA0000100, star := 0
    fields := [[(5, 3), (16, 13)], [(0, 5)]]
    build := fun _ vs => match vs with
      | [v0, v1] => some (.bmsetMem (BitVec.ofNat 16 v0) (.spShort (BitVec.ofNat 5 v1)))
      | _ => none }

/-- `BMSET.W #u16,(a16)` (R402): `0011 1001 AAAi i001 / 001A AAAA AAAA AAAA / 10ii iiii iiii iiii`. -/
def rowBmsetMemAbs16 : Row :=
  { words := 3, mask := 0xC000E000FF07, mat := 0x800020003901, star := 0
    fields := [[(3, 2), (32, 14)], [(5, 3), (16, 13)]]
    build := fun _ vs => match vs with
      | [v0, v1] => some (.bmsetMem (BitVec.ofNat 16 v0) (.abs16 (BitVec.ofNat 16 v1)))
      | _ => none }

/-- `BMSET.W #u16,(SP+s16)` (R402): `0011 1001 AAAi i011 / 001A AAAA AAAA AAAA / 10ii iiii iiii iiii`. -/
def rowBmsetMemSp : Row :=
  { words := 3, mask := 0xC000E000FF07, mat := 0x800020003903, star := 0
    fields := [[(3, 2), (32, 14)], [(5, 3), (16, 13)]]
    build := fun _ vs => match vs with
      | [v0, v1] => some (.bmsetMem (BitVec.ofNat 16 v0) (.sp (BitVec.ofNat 16 v1)))
      | _ => none }

/-- `BMCHG #u16,DR.H (h=1) / DR.L (h=0)` (R397): `0000 1010 iiih HHHH / 101i iiii iiii iiii`. -/
def rowBmchgDr : Row :=
  { words := 2, mask := 0xE000FF00, mat := 0xA0000A00, star := 0
    fields := [[(5, 3), (16, 13)], [(4, 1)], [(0, 4)]]
    build := fun k vs => match vs with
      | [v0, v1, v2] => some (.bmchgDr (BitVec.ofNat 16 v0) (halfOf v1) (drOf k.lo v2))
      | _ => none }

/-- `BMCHG #u16,C1.H (h=1) / C1.L (h=0)` (R397): `0001 0010 iiih 0CCC / 101i iiii iiii iiii`. -/
def rowBmchgC1 : Row :=
  { words := 2, mask := 0xE000FF08, mat := 0xA0001200, star := 0
    fields := [[(5, 3), (16, 13)], [(4, 1)], [(0, 3)]]
    build := fun _ vs => match vs with
      | [v0, v1, v2] => (c1Of v2).map fun c => .bmchgC1 (BitVec.ofNat 16 v0) (halfOf v1) c
      | _ => none }

/-- `BMCHG.W #u16,(Rn)` (R398): `0001 0010 iii0 1RRR / 101i iiii iiii iiii`. -/
def rowBmchgMemRn : Row :=
  { words := 2, mask := 0xE000FF18, mat := 0xA0001208, star := 0
    fields := [[(5, 3), (16, 13)], [(0, 3)]]
    build := fun k vs => match vs with
      | [v0, v1] => some (.bmchgMem (BitVec.ofNat 16 v0) (.rn (regOf k.hi v1)))
      | _ => none }

/-- `BMCHG.W #u16,(SP-u5)` (R398): `0000 0010 iiiA AAAA / 101i iiii iiii iiii`. -/
def rowBmchgMemSpShort : Row :=
  { words := 2, mask := 0xE000FF00, mat := 0xA0000200, star := 0
    fields := [[(5, 3), (16, 13)], [(0, 5)]]
    build := fun _ vs => match vs with
      | [v0, v1] => some (.bmchgMem (BitVec.ofNat 16 v0) (.spShort (BitVec.ofNat 5 v1)))
      | _ => none }

/-- `BMCHG.W #u16,(a16)` (R398): `0011 1010 AAAi i001 / 001A AAAA AAAA AAAA / 10ii iiii iiii iiii`. -/
def rowBmchgMemAbs16 : Row :=
  { words := 3, mask := 0xC000E000FF07, mat := 0x800020003A01, star := 0
    fields := [[(3, 2), (32, 14)], [(5, 3), (16, 13)]]
    build := fun _ vs => match vs with
      | [v0, v1] => some (.bmchgMem (BitVec.ofNat 16 v0) (.abs16 (BitVec.ofNat 16 v1)))
      | _ => none }

/-- `BMCHG.W #u16,(SP+s16)` (R398): `0011 1010 AAAi i011 / 001A AAAA AAAA AAAA / 10ii iiii iiii iiii`. -/
def rowBmchgMemSp : Row :=
  { words := 3, mask := 0xC000E000FF07, mat := 0x800020003A03, star := 0
    fields := [[(3, 2), (32, 14)], [(5, 3), (16, 13)]]
    build := fun _ vs => match vs with
      | [v0, v1] => some (.bmchgMem (BitVec.ofNat 16 v0) (.sp (BitVec.ofNat 16 v1)))
      | _ => none }

/-- `BMTSTC #u16,DR.H (h=1) / DR.L (h=0)` (R405): `0000 1100 iiih HHHH / 101i iiii iiii iiii`. -/
def rowBmtstcDr : Row :=
  { words := 2, mask := 0xE000FF00, mat := 0xA0000C00, star := 0
    fields := [[(5, 3), (16, 13)], [(4, 1)], [(0, 4)]]
    build := fun k vs => match vs with
      | [v0, v1, v2] => some (.bmtstcDr (BitVec.ofNat 16 v0) (halfOf v1) (drOf k.lo v2))
      | _ => none }

/-- `BMTSTC #u16,C1.H (h=1) / C1.L (h=0)` (R405): `0001 0100 iiih 0CCC / 101i iiii iiii iiii`. -/
def rowBmtstcC1 : Row :=
  { words := 2, mask := 0xE000FF08, mat := 0xA0001400, star := 0
    fields := [[(5, 3), (16, 13)], [(4, 1)], [(0, 3)]]
    build := fun _ vs => match vs with
      | [v0, v1, v2] => (c1Of v2).map fun c => .bmtstcC1 (BitVec.ofNat 16 v0) (halfOf v1) c
      | _ => none }

/-- `BMTSTC.W #u16,(Rn)` (R406): `0001 0100 iii0 1RRR / 101i iiii iiii iiii`. -/
def rowBmtstcMemRn : Row :=
  { words := 2, mask := 0xE000FF18, mat := 0xA0001408, star := 0
    fields := [[(5, 3), (16, 13)], [(0, 3)]]
    build := fun k vs => match vs with
      | [v0, v1] => some (.bmtstcMem (BitVec.ofNat 16 v0) (.rn (regOf k.hi v1)))
      | _ => none }

/-- `BMTSTC.W #u16,(SP-u5)` (R406): `0000 0100 iiiA AAAA / 101i iiii iiii iiii`. -/
def rowBmtstcMemSpShort : Row :=
  { words := 2, mask := 0xE000FF00, mat := 0xA0000400, star := 0
    fields := [[(5, 3), (16, 13)], [(0, 5)]]
    build := fun _ vs => match vs with
      | [v0, v1] => some (.bmtstcMem (BitVec.ofNat 16 v0) (.spShort (BitVec.ofNat 5 v1)))
      | _ => none }

/-- `BMTSTC.W #u16,(a16)` (R406): `0011 1100 AAAi i001 / 001A AAAA AAAA AAAA / 10ii iiii iiii iiii`. -/
def rowBmtstcMemAbs16 : Row :=
  { words := 3, mask := 0xC000E000FF07, mat := 0x800020003C01, star := 0
    fields := [[(3, 2), (32, 14)], [(5, 3), (16, 13)]]
    build := fun _ vs => match vs with
      | [v0, v1] => some (.bmtstcMem (BitVec.ofNat 16 v0) (.abs16 (BitVec.ofNat 16 v1)))
      | _ => none }

/-- `BMTSTC.W #u16,(SP+s16)` (R406): `0011 1100 AAAi i011 / 001A AAAA AAAA AAAA / 10ii iiii iiii iiii`. -/
def rowBmtstcMemSp : Row :=
  { words := 3, mask := 0xC000E000FF07, mat := 0x800020003C03, star := 0
    fields := [[(3, 2), (32, 14)], [(5, 3), (16, 13)]]
    build := fun _ vs => match vs with
      | [v0, v1] => some (.bmtstcMem (BitVec.ofNat 16 v0) (.sp (BitVec.ofNat 16 v1)))
      | _ => none }

/-- `BMTSTS #u16,DR.H (h=1) / DR.L (h=0)` (R407): `0000 1101 iiih HHHH / 101i iiii iiii iiii`. -/
def rowBmtstsDr : Row :=
  { words := 2, mask := 0xE000FF00, mat := 0xA0000D00, star := 0
    fields := [[(5, 3), (16, 13)], [(4, 1)], [(0, 4)]]
    build := fun k vs => match vs with
      | [v0, v1, v2] => some (.bmtstsDr (BitVec.ofNat 16 v0) (halfOf v1) (drOf k.lo v2))
      | _ => none }

/-- `BMTSTS #u16,C1.H (h=1) / C1.L (h=0)` (R407): `0001 0101 iiih 0CCC / 101i iiii iiii iiii`. -/
def rowBmtstsC1 : Row :=
  { words := 2, mask := 0xE000FF08, mat := 0xA0001500, star := 0
    fields := [[(5, 3), (16, 13)], [(4, 1)], [(0, 3)]]
    build := fun _ vs => match vs with
      | [v0, v1, v2] => (c1Of v2).map fun c => .bmtstsC1 (BitVec.ofNat 16 v0) (halfOf v1) c
      | _ => none }

/-- `BMTSTS.W #u16,(Rn)` (R408): `0001 0101 iii0 1RRR / 101i iiii iiii iiii`. -/
def rowBmtstsMemRn : Row :=
  { words := 2, mask := 0xE000FF18, mat := 0xA0001508, star := 0
    fields := [[(5, 3), (16, 13)], [(0, 3)]]
    build := fun k vs => match vs with
      | [v0, v1] => some (.bmtstsMem (BitVec.ofNat 16 v0) (.rn (regOf k.hi v1)))
      | _ => none }

/-- `BMTSTS.W #u16,(SP-u5)` (R408): `0000 0101 iiiA AAAA / 101i iiii iiii iiii`. -/
def rowBmtstsMemSpShort : Row :=
  { words := 2, mask := 0xE000FF00, mat := 0xA0000500, star := 0
    fields := [[(5, 3), (16, 13)], [(0, 5)]]
    build := fun _ vs => match vs with
      | [v0, v1] => some (.bmtstsMem (BitVec.ofNat 16 v0) (.spShort (BitVec.ofNat 5 v1)))
      | _ => none }

/-- `BMTSTS.W #u16,(a16)` (R408): `0011 1101 AAAi i001 / 001A AAAA AAAA AAAA / 10ii iiii iiii iiii`. -/
def rowBmtstsMemAbs16 : Row :=
  { words := 3, mask := 0xC000E000FF07, mat := 0x800020003D01, star := 0
    fields := [[(3, 2), (32, 14)], [(5, 3), (16, 13)]]
    build := fun _ vs => match vs with
      | [v0, v1] => some (.bmtstsMem (BitVec.ofNat 16 v0) (.abs16 (BitVec.ofNat 16 v1)))
      | _ => none }

/-- `BMTSTS.W #u16,(SP+s16)` (R408): `0011 1101 AAAi i011 / 001A AAAA AAAA AAAA / 10ii iiii iiii iiii`. -/
def rowBmtstsMemSp : Row :=
  { words := 3, mask := 0xC000E000FF07, mat := 0x800020003D03, star := 0
    fields := [[(3, 2), (32, 14)], [(5, 3), (16, 13)]]
    build := fun _ vs => match vs with
      | [v0, v1] => some (.bmtstsMem (BitVec.ofNat 16 v0) (.sp (BitVec.ofNat 16 v1)))
      | _ => none }

/-- `BMTSET #u16,DR.H (h=1) / DR.L (h=0)` (R403): `0000 1110 iiih HHHH / 101i iiii iiii iiii`. -/
def rowBmtsetDr : Row :=
  { words := 2, mask := 0xE000FF00, mat := 0xA0000E00, star := 0
    fields := [[(5, 3), (16, 13)], [(4, 1)], [(0, 4)]]
    build := fun k vs => match vs with
      | [v0, v1, v2] => some (.bmtsetDr (BitVec.ofNat 16 v0) (halfOf v1) (drOf k.lo v2))
      | _ => none }

/-- `BMTSET.W #u16,(Rn)` (R404): `0001 0110 iii0 1RRR / 101i iiii iiii iiii`. -/
def rowBmtsetMemRn : Row :=
  { words := 2, mask := 0xE000FF18, mat := 0xA0001608, star := 0
    fields := [[(5, 3), (16, 13)], [(0, 3)]]
    build := fun k vs => match vs with
      | [v0, v1] => some (.bmtsetMem (BitVec.ofNat 16 v0) (.rn (regOf k.hi v1)))
      | _ => none }

/-- `BMTSET.W #u16,(SP-u5)` (R404): `0000 0110 iiiA AAAA / 101i iiii iiii iiii`. -/
def rowBmtsetMemSpShort : Row :=
  { words := 2, mask := 0xE000FF00, mat := 0xA0000600, star := 0
    fields := [[(5, 3), (16, 13)], [(0, 5)]]
    build := fun _ vs => match vs with
      | [v0, v1] => some (.bmtsetMem (BitVec.ofNat 16 v0) (.spShort (BitVec.ofNat 5 v1)))
      | _ => none }

/-- `BMTSET.W #u16,(a16)` (R404): `0011 1110 AAAi i001 / 001A AAAA AAAA AAAA / 10ii iiii iiii iiii`. -/
def rowBmtsetMemAbs16 : Row :=
  { words := 3, mask := 0xC000E000FF07, mat := 0x800020003E01, star := 0
    fields := [[(3, 2), (32, 14)], [(5, 3), (16, 13)]]
    build := fun _ vs => match vs with
      | [v0, v1] => some (.bmtsetMem (BitVec.ofNat 16 v0) (.abs16 (BitVec.ofNat 16 v1)))
      | _ => none }

/-- `BMTSET.W #u16,(SP+s16)` (R404): `0011 1110 AAAi i011 / 001A AAAA AAAA AAAA / 10ii iiii iiii iiii`. -/
def rowBmtsetMemSp : Row :=
  { words := 3, mask := 0xC000E000FF07, mat := 0x800020003E03, star := 0
    fields := [[(3, 2), (32, 14)], [(5, 3), (16, 13)]]
    build := fun _ vs => match vs with
      | [v0, v1] => some (.bmtsetMem (BitVec.ofNat 16 v0) (.sp (BitVec.ofNat 16 v1)))
      | _ => none }

/-- `BRAD <label (short)` (R427): `1000 1AAA AAAA AAA0`. -/
def rowBradShort : Row :=
  { words := 1, mask := 0xF801, mat := 0x8800, star := 0
    fields := [[(1, 10)]]
    build := fun _ vs => match vs with
      | [v0] => some (.brad (.short (BitVec.ofNat 10 v0)))
      | _ => none }

/-- `BRAD >label (long)` (R427): `0010 a000 AAA1 1aaa / 100A AAAA AAAA AAAa`. -/
def rowBradLong : Row :=
  { words := 2, mask := 0xE000F718, mat := 0x80002018, star := 0
    fields := [[(11, 1), (0, 3), (16, 1), (5, 3), (17, 12)]]
    build := fun _ vs => match vs with
      | [v0] => some (.brad (.long (BitVec.ofNat 20 v0)))
      | _ => none }

/-- `BRA <label (short)` (R426): `1000 1AAA AAAA AAA1`. -/
def rowBraShort : Row :=
  { words := 1, mask := 0xF801, mat := 0x8801, star := 0
    fields := [[(1, 10)]]
    build := fun _ vs => match vs with
      | [v0] => some (.bra (.short (BitVec.ofNat 10 v0)))
      | _ => none }

/-- `BRA >label (long)` (R426): `0010 a001 AAA1 1aaa / 100A AAAA AAAA AAAa`. -/
def rowBraLong : Row :=
  { words := 2, mask := 0xE000F718, mat := 0x80002118, star := 0
    fields := [[(11, 1), (0, 3), (16, 1), (5, 3), (17, 12)]]
    build := fun _ vs => match vs with
      | [v0] => some (.bra (.long (BitVec.ofNat 20 v0)))
      | _ => none }

/-- `BSRD <label (short)` (R429): `1000 001A AAAA AAA0`. -/
def rowBsrdShort : Row :=
  { words := 1, mask := 0xFE01, mat := 0x8200, star := 0
    fields := [[(1, 8)]]
    build := fun _ vs => match vs with
      | [v0] => some (.bsrd (.short (BitVec.ofNat 8 v0)))
      | _ => none }

/-- `BSRD >label (long)` (R429): `0010 a010 AAA1 1aaa / 100A AAAA AAAA AAAa`. -/
def rowBsrdLong : Row :=
  { words := 2, mask := 0xE000F718, mat := 0x80002218, star := 0
    fields := [[(11, 1), (0, 3), (16, 1), (5, 3), (17, 12)]]
    build := fun _ vs => match vs with
      | [v0] => some (.bsrd (.long (BitVec.ofNat 20 v0)))
      | _ => none }

/-- `BSR <label (short)` (R428): `1000 001A AAAA AAA1`. -/
def rowBsrShort : Row :=
  { words := 1, mask := 0xFE01, mat := 0x8201, star := 0
    fields := [[(1, 8)]]
    build := fun _ vs => match vs with
      | [v0] => some (.bsr (.short (BitVec.ofNat 8 v0)))
      | _ => none }

/-- `BSR >label (long)` (R428): `0010 a011 AAA1 1aaa / 100A AAAA AAAA AAAa`. -/
def rowBsrLong : Row :=
  { words := 2, mask := 0xE000F718, mat := 0x80002318, star := 0
    fields := [[(11, 1), (0, 3), (16, 1), (5, 3), (17, 12)]]
    build := fun _ vs => match vs with
      | [v0] => some (.bsr (.long (BitVec.ofNat 20 v0)))
      | _ => none }

/-- `BTD <label (short)` (R431): `1000 000A AAAA AAA0`. -/
def rowBtdShort : Row :=
  { words := 1, mask := 0xFE01, mat := 0x8000, star := 0
    fields := [[(1, 8)]]
    build := fun _ vs => match vs with
      | [v0] => some (.btd (.short (BitVec.ofNat 8 v0)))
      | _ => none }

/-- `BTD >label (long)` (R431): `0010 a100 AAA1 1aaa / 100A AAAA AAAA AAAa`. -/
def rowBtdLong : Row :=
  { words := 2, mask := 0xE000F718, mat := 0x80002418, star := 0
    fields := [[(11, 1), (0, 3), (16, 1), (5, 3), (17, 12)]]
    build := fun _ vs => match vs with
      | [v0] => some (.btd (.long (BitVec.ofNat 20 v0)))
      | _ => none }

/-- `BT <label (short)` (R430): `1000 000A AAAA AAA1`. -/
def rowBtShort : Row :=
  { words := 1, mask := 0xFE01, mat := 0x8001, star := 0
    fields := [[(1, 8)]]
    build := fun _ vs => match vs with
      | [v0] => some (.bt (.short (BitVec.ofNat 8 v0)))
      | _ => none }

/-- `BT >label (long)` (R430): `0010 a101 AAA1 1aaa / 100A AAAA AAAA AAAa`. -/
def rowBtLong : Row :=
  { words := 2, mask := 0xE000F718, mat := 0x80002518, star := 0
    fields := [[(11, 1), (0, 3), (16, 1), (5, 3), (17, 12)]]
    build := fun _ vs => match vs with
      | [v0] => some (.bt (.long (BitVec.ofNat 20 v0)))
      | _ => none }

/-- `BFD <label (short)` (R425): `1000 010A AAAA AAA0`. -/
def rowBfdShort : Row :=
  { words := 1, mask := 0xFE01, mat := 0x8400, star := 0
    fields := [[(1, 8)]]
    build := fun _ vs => match vs with
      | [v0] => some (.bfd (.short (BitVec.ofNat 8 v0)))
      | _ => none }

/-- `BFD >label (long)` (R425): `0010 a110 AAA1 1aaa / 100A AAAA AAAA AAAa`. -/
def rowBfdLong : Row :=
  { words := 2, mask := 0xE000F718, mat := 0x80002618, star := 0
    fields := [[(11, 1), (0, 3), (16, 1), (5, 3), (17, 12)]]
    build := fun _ vs => match vs with
      | [v0] => some (.bfd (.long (BitVec.ofNat 20 v0)))
      | _ => none }

/-- `BF <label (short)` (R424): `1000 010A AAAA AAA1`. -/
def rowBfShort : Row :=
  { words := 1, mask := 0xFE01, mat := 0x8401, star := 0
    fields := [[(1, 8)]]
    build := fun _ vs => match vs with
      | [v0] => some (.bf (.short (BitVec.ofNat 8 v0)))
      | _ => none }

/-- `BF >label (long)` (R424): `0010 a111 AAA1 1aaa / 100A AAAA AAAA AAAa`. -/
def rowBfLong : Row :=
  { words := 2, mask := 0xE000F718, mat := 0x80002718, star := 0
    fields := [[(11, 1), (0, 3), (16, 1), (5, 3), (17, 12)]]
    build := fun _ vs => match vs with
      | [v0] => some (.bf (.long (BitVec.ofNat 20 v0)))
      | _ => none }

/-- `JMPD label` (R435): `0011 0000 AAAa a100 / 001A AAAA AAAA AAAA / 10aa aaaa aaaa aaaa`. -/
def rowJmpdAbs : Row :=
  { words := 3, mask := 0xC000E000FF07, mat := 0x800020003004, star := 0
    fields := [[(3, 2), (32, 14), (5, 3), (16, 13)]]
    build := fun _ vs => match vs with
      | [v0] => some (.jmpd (.abs (BitVec.ofNat 32 v0)))
      | _ => none }

/-- `JMPD Rn` (R435): `1001 1RRR 0110 0000`. -/
def rowJmpdReg : Row :=
  { words := 1, mask := 0xF8FF, mat := 0x9860, star := 0
    fields := [[(8, 3)]]
    build := fun k vs => match vs with
      | [v0] => some (.jmpd (.reg (regOf k.hi v0)))
      | _ => none }

/-- `JMP label` (R434): `0011 0001 AAAa a100 / 001A AAAA AAAA AAAA / 10aa aaaa aaaa aaaa`. -/
def rowJmpAbs : Row :=
  { words := 3, mask := 0xC000E000FF07, mat := 0x800020003104, star := 0
    fields := [[(3, 2), (32, 14), (5, 3), (16, 13)]]
    build := fun _ vs => match vs with
      | [v0] => some (.jmp (.abs (BitVec.ofNat 32 v0)))
      | _ => none }

/-- `JMP Rn` (R434): `1001 1RRR 0110 0001`. -/
def rowJmpReg : Row :=
  { words := 1, mask := 0xF8FF, mat := 0x9861, star := 0
    fields := [[(8, 3)]]
    build := fun k vs => match vs with
      | [v0] => some (.jmp (.reg (regOf k.hi v0)))
      | _ => none }

/-- `JSRD label` (R437): `0011 0010 AAAa a100 / 001A AAAA AAAA AAAA / 10aa aaaa aaaa aaaa`. -/
def rowJsrdAbs : Row :=
  { words := 3, mask := 0xC000E000FF07, mat := 0x800020003204, star := 0
    fields := [[(3, 2), (32, 14), (5, 3), (16, 13)]]
    build := fun _ vs => match vs with
      | [v0] => some (.jsrd (.abs (BitVec.ofNat 32 v0)))
      | _ => none }

/-- `JSRD Rn` (R437): `1001 1RRR 0110 0010`. -/
def rowJsrdReg : Row :=
  { words := 1, mask := 0xF8FF, mat := 0x9862, star := 0
    fields := [[(8, 3)]]
    build := fun k vs => match vs with
      | [v0] => some (.jsrd (.reg (regOf k.hi v0)))
      | _ => none }

/-- `JSR label` (R436): `0011 0011 AAAa a100 / 001A AAAA AAAA AAAA / 10aa aaaa aaaa aaaa`. -/
def rowJsrAbs : Row :=
  { words := 3, mask := 0xC000E000FF07, mat := 0x800020003304, star := 0
    fields := [[(3, 2), (32, 14), (5, 3), (16, 13)]]
    build := fun _ vs => match vs with
      | [v0] => some (.jsr (.abs (BitVec.ofNat 32 v0)))
      | _ => none }

/-- `JSR Rn` (R436): `1001 1RRR 0110 0011`. -/
def rowJsrReg : Row :=
  { words := 1, mask := 0xF8FF, mat := 0x9863, star := 0
    fields := [[(8, 3)]]
    build := fun k vs => match vs with
      | [v0] => some (.jsr (.reg (regOf k.hi v0)))
      | _ => none }

/-- `JTD label` (R439): `0011 0100 AAAa a100 / 001A AAAA AAAA AAAA / 10aa aaaa aaaa aaaa`. -/
def rowJtdAbs : Row :=
  { words := 3, mask := 0xC000E000FF07, mat := 0x800020003404, star := 0
    fields := [[(3, 2), (32, 14), (5, 3), (16, 13)]]
    build := fun _ vs => match vs with
      | [v0] => some (.jtd (.abs (BitVec.ofNat 32 v0)))
      | _ => none }

/-- `JTD Rn` (R439): `1001 1RRR 0110 0100`. -/
def rowJtdReg : Row :=
  { words := 1, mask := 0xF8FF, mat := 0x9864, star := 0
    fields := [[(8, 3)]]
    build := fun k vs => match vs with
      | [v0] => some (.jtd (.reg (regOf k.hi v0)))
      | _ => none }

/-- `JT label` (R438): `0011 0101 AAAa a100 / 001A AAAA AAAA AAAA / 10aa aaaa aaaa aaaa`. -/
def rowJtAbs : Row :=
  { words := 3, mask := 0xC000E000FF07, mat := 0x800020003504, star := 0
    fields := [[(3, 2), (32, 14), (5, 3), (16, 13)]]
    build := fun _ vs => match vs with
      | [v0] => some (.jt (.abs (BitVec.ofNat 32 v0)))
      | _ => none }

/-- `JT Rn` (R438): `1001 1RRR 0110 0101`. -/
def rowJtReg : Row :=
  { words := 1, mask := 0xF8FF, mat := 0x9865, star := 0
    fields := [[(8, 3)]]
    build := fun k vs => match vs with
      | [v0] => some (.jt (.reg (regOf k.hi v0)))
      | _ => none }

/-- `JFD label` (R433): `0011 0110 AAAa a100 / 001A AAAA AAAA AAAA / 10aa aaaa aaaa aaaa`. -/
def rowJfdAbs : Row :=
  { words := 3, mask := 0xC000E000FF07, mat := 0x800020003604, star := 0
    fields := [[(3, 2), (32, 14), (5, 3), (16, 13)]]
    build := fun _ vs => match vs with
      | [v0] => some (.jfd (.abs (BitVec.ofNat 32 v0)))
      | _ => none }

/-- `JFD Rn` (R433): `1001 1RRR 0110 0110`. -/
def rowJfdReg : Row :=
  { words := 1, mask := 0xF8FF, mat := 0x9866, star := 0
    fields := [[(8, 3)]]
    build := fun k vs => match vs with
      | [v0] => some (.jfd (.reg (regOf k.hi v0)))
      | _ => none }

/-- `JF label` (R432): `0011 0111 AAAa a100 / 001A AAAA AAAA AAAA / 10aa aaaa aaaa aaaa`. -/
def rowJfAbs : Row :=
  { words := 3, mask := 0xC000E000FF07, mat := 0x800020003704, star := 0
    fields := [[(3, 2), (32, 14), (5, 3), (16, 13)]]
    build := fun _ vs => match vs with
      | [v0] => some (.jf (.abs (BitVec.ofNat 32 v0)))
      | _ => none }

/-- `JF Rn` (R432): `1001 1RRR 0110 0111`. -/
def rowJfReg : Row :=
  { words := 1, mask := 0xF8FF, mat := 0x9867, star := 0
    fields := [[(8, 3)]]
    build := fun k vs => match vs with
      | [v0] => some (.jf (.reg (regOf k.hi v0)))
      | _ => none }

/-- `RTE` (R440): `1001 1111 0111 0011`. -/
def rowRte : Row :=
  { words := 1, mask := 0xFFFF, mat := 0x9F73, star := 0
    fields := []
    build := fun _ vs => match vs with
      | [] => some (.rte)
      | _ => none }

/-- `RTED` (R441): `1001 1111 0111 0010`. -/
def rowRted : Row :=
  { words := 1, mask := 0xFFFF, mat := 0x9F72, star := 0
    fields := []
    build := fun _ vs => match vs with
      | [] => some (.rted)
      | _ => none }

/-- `RTS` (R442): `1001 1111 0111 0001`. -/
def rowRts : Row :=
  { words := 1, mask := 0xFFFF, mat := 0x9F71, star := 0
    fields := []
    build := fun _ vs => match vs with
      | [] => some (.rts)
      | _ => none }

/-- `RTSD` (R443): `1001 1111 0111 0000`. -/
def rowRtsd : Row :=
  { words := 1, mask := 0xFFFF, mat := 0x9F70, star := 0
    fields := []
    build := fun _ vs => match vs with
      | [] => some (.rtsd)
      | _ => none }

/-- `RTSTK` (R444): `1001 1111 0111 0101`. -/
def rowRtstk : Row :=
  { words := 1, mask := 0xFFFF, mat := 0x9F75, star := 0
    fields := []
    build := fun _ vs => match vs with
      | [] => some (.rtstk)
      | _ => none }

/-- `RTSTKD` (R445): `1001 1111 0111 0100`. -/
def rowRtstkd : Row :=
  { words := 1, mask := 0xFFFF, mat := 0x9F74, star := 0
    fields := []
    build := fun _ vs => match vs with
      | [] => some (.rtstkd)
      | _ => none }

/-- `TRAP` (R446): `1001 1110 0111 1110`. -/
def rowTrap : Row :=
  { words := 1, mask := 0xFFFF, mat := 0x9E7E, star := 0
    fields := []
    build := fun _ vs => match vs with
      | [] => some (.trap)
      | _ => none }

/-- `BREAK label` (R451): `0010 0000 AAA0 0011 / 100A AAAA AAAA AAAa`. -/
def rowBreak_ : Row :=
  { words := 2, mask := 0xE000FF1F, mat := 0x80002003, star := 0
    fields := [[(16, 1), (5, 3), (17, 12)]]
    build := fun _ vs => match vs with
      | [v0] => some (.break_ (BitVec.ofNat 16 v0))
      | _ => none }

/-- `SKIPLS label` (R457): `0010 0001 AAA0 0011 / 100A AAAA AAAA AAAa`. -/
def rowSkipls : Row :=
  { words := 2, mask := 0xE000FF1F, mat := 0x80002103, star := 0
    fields := [[(16, 1), (5, 3), (17, 12)]]
    build := fun _ vs => match vs with
      | [v0] => some (.skipls (BitVec.ofNat 16 v0))
      | _ => none }

/-- `CONTD label` (R453): `0010 0010 AAA0 0011 / 100A AAAA AAAA AAAa`. -/
def rowContd : Row :=
  { words := 2, mask := 0xE000FF1F, mat := 0x80002203, star := 0
    fields := [[(16, 1), (5, 3), (17, 12)]]
    build := fun _ vs => match vs with
      | [v0] => some (.contd (BitVec.ofNat 16 v0))
      | _ => none }

/-- `CONT label` (R452): `0010 0011 AAA0 0011 / 100A AAAA AAAA AAAa`. -/
def rowCont : Row :=
  { words := 2, mask := 0xE000FF1F, mat := 0x80002303, star := 0
    fields := [[(16, 1), (5, 3), (17, 12)]]
    build := fun _ vs => match vs with
      | [v0] => some (.cont (BitVec.ofNat 16 v0))
      | _ => none }

/-- `DOSETUPn label` (R456): `0010 10nn AAA0 0011 / 100A AAAA AAAA AAAa`. -/
def rowDosetup : Row :=
  { words := 2, mask := 0xE000FC1F, mat := 0x80002803, star := 0
    fields := [[(8, 2)], [(16, 1), (5, 3), (17, 12)]]
    build := fun _ vs => match vs with
      | [v0, v1] => some (.dosetup (Fin.ofNat 4 v0) (BitVec.ofNat 16 v1))
      | _ => none }

/-- `DOENn #u6` (R454): `1001 00nn 01ii iiii`. -/
def rowDoenU6 : Row :=
  { words := 1, mask := 0xFCC0, mat := 0x9040, star := 0
    fields := [[(8, 2)], [(0, 6)]]
    build := fun _ vs => match vs with
      | [v0, v1] => some (.doen (Fin.ofNat 4 v0) (.u6 (BitVec.ofNat 6 v1)))
      | _ => none }

/-- `DOENn #u16` (R454): `0010 00nn iii0 0100 / 100i iiii iiii iiii`. -/
def rowDoenU16 : Row :=
  { words := 2, mask := 0xE000FC1F, mat := 0x80002004, star := 0
    fields := [[(8, 2)], [(5, 3), (16, 13)]]
    build := fun _ vs => match vs with
      | [v0, v1] => some (.doen (Fin.ofNat 4 v0) (.u16 (BitVec.ofNat 16 v1)))
      | _ => none }

/-- `DOENn DR` (R454): `1001 10nn 0100 HHHH`. -/
def rowDoenReg : Row :=
  { words := 1, mask := 0xFCF0, mat := 0x9840, star := 0
    fields := [[(8, 2)], [(0, 4)]]
    build := fun k vs => match vs with
      | [v0, v1] => some (.doen (Fin.ofNat 4 v0) (.reg (drOf k.lo v1)))
      | _ => none }

/-- `DOENSHn #u6` (R455): `1001 01nn 01ii iiii`. -/
def rowDoenshU6 : Row :=
  { words := 1, mask := 0xFCC0, mat := 0x9440, star := 0
    fields := [[(8, 2)], [(0, 6)]]
    build := fun _ vs => match vs with
      | [v0, v1] => some (.doensh (Fin.ofNat 4 v0) (.u6 (BitVec.ofNat 6 v1)))
      | _ => none }

/-- `DOENSHn #u16` (R455): `0010 01nn iii0 0100 / 100i iiii iiii iiii`. -/
def rowDoenshU16 : Row :=
  { words := 2, mask := 0xE000FC1F, mat := 0x80002404, star := 0
    fields := [[(8, 2)], [(5, 3), (16, 13)]]
    build := fun _ vs => match vs with
      | [v0, v1] => some (.doensh (Fin.ofNat 4 v0) (.u16 (BitVec.ofNat 16 v1)))
      | _ => none }

/-- `DOENSHn DR` (R455): `1001 11nn 0100 HHHH`. -/
def rowDoenshReg : Row :=
  { words := 1, mask := 0xFCF0, mat := 0x9C40, star := 0
    fields := [[(8, 2)], [(0, 4)]]
    build := fun k vs => match vs with
      | [v0, v1] => some (.doensh (Fin.ofNat 4 v0) (.reg (drOf k.lo v1)))
      | _ => none }

/-- `DEBUG` (R470): `1001 1110 0111 0000`. -/
def rowDebug : Row :=
  { words := 1, mask := 0xFFFF, mat := 0x9E70, star := 0
    fields := []
    build := fun _ vs => match vs with
      | [] => some (.debug)
      | _ => none }

/-- `DEBUGEV` (R471): `1001 1110 0111 0001`. -/
def rowDebugev : Row :=
  { words := 1, mask := 0xFFFF, mat := 0x9E71, star := 0
    fields := []
    build := fun _ vs => match vs with
      | [] => some (.debugev)
      | _ => none }

/-- `DI` (R472): `1001 1111 0111 1101`. -/
def rowDi : Row :=
  { words := 1, mask := 0xFFFF, mat := 0x9F7D, star := 0
    fields := []
    build := fun _ vs => match vs with
      | [] => some (.di)
      | _ => none }

/-- `EI` (R473): `1001 1111 0111 1100`. -/
def rowEi : Row :=
  { words := 1, mask := 0xFFFF, mat := 0x9F7C, star := 0
    fields := []
    build := fun _ vs => match vs with
      | [] => some (.ei)
      | _ => none }

/-- `ILLEGAL` (R474): `1001 1110 0111 10??`. -/
def rowIllegal : Row :=
  { words := 1, mask := 0xFFFC, mat := 0x9E78, star := 0
    fields := [[(0, 2)]]
    build := fun _ vs => match vs with
      | [v0] => (candOf v0).map fun c => .illegal c
      | _ => none }

/-- `MARK` (R475): `1001 1110 0111 0010`. -/
def rowMark : Row :=
  { words := 1, mask := 0xFFFF, mat := 0x9E72, star := 0
    fields := []
    build := fun _ vs => match vs with
      | [] => some (.mark)
      | _ => none }

/-- `STOP` (R476): `1001 1111 0111 1001`. -/
def rowStop : Row :=
  { words := 1, mask := 0xFFFF, mat := 0x9F79, star := 0
    fields := []
    build := fun _ vs => match vs with
      | [] => some (.stop)
      | _ => none }

/-- `WAIT` (R477): `1001 1111 0111 1000`. -/
def rowWait : Row :=
  { words := 1, mask := 0xFFFF, mat := 0x9F78, star := 0
    fields := []
    build := fun _ vs => match vs with
      | [] => some (.wait)
      | _ => none }

/-- The one-word rows, part 1. -/
def rows1a : List Row :=
  [rowAbs, rowAddImm, rowAddReg, rowAddSame, rowAdd2, rowAdr, rowAsr, rowCmpeq, rowCmpeqU, rowCmpgt, rowCmpgtU,
   rowCmphi, rowDecge, rowDiv, rowIncListed, rowIncF, rowMax, rowMax2vitA, rowMax2vitB, rowMin, rowNeg, rowRnd,
   rowSatL, rowSbc, rowSbr, rowSubImm, rowSubReg, rowSubRegSwap, rowSubSame, rowSub2, rowSubl, rowTfr, rowTfrf,
   rowTfrt, rowTsteq, rowTstge, rowImac, rowImacSame, rowImpy, rowImpySame]

/-- The one-word rows, part 2. -/
def rows1b : List Row :=
  [rowMac, rowMacSame, rowMacr, rowMacrSame, rowMacsu, rowMacus, rowMacuu, rowMpy, rowMpySame, rowMpyr, rowMpyrSame,
   rowMpysu, rowMpyus, rowMpyuu, rowAndReg, rowAsllImm, rowAsllReg, rowAslw, rowAsrrImm, rowAsrrReg, rowAsrw, rowClb,
   rowEorReg, rowLsll, rowLsr, rowLsrrImm, rowLsrrReg, rowLsrw, rowNotReg, rowOrReg, rowRol, rowRor, rowSxtB,
   rowSxtL, rowSxtW, rowZxtB, rowZxtL, rowZxtW, rowAddaImm, rowAddaReg]

/-- The one-word rows, part 3. -/
def rows1c : List Row :=
  [rowAddl1a, rowAddl2a, rowAsl2a, rowAsla, rowAsra, rowCmpeqa, rowCmpgta, rowCmphia, rowDeceqa, rowDecgea, rowLsra,
   rowSubaImm, rowSubaReg, rowSxtaB, rowSxtaW, rowTfra, rowTfraFromOsp, rowTfraToOsp, rowTsteqaL, rowTsteqaW,
   rowTstgeaL, rowTstgta, rowZxtaB, rowZxtaW, rowMove2f, rowMove2l, rowMove2w, rowMove4f, rowMove4w, rowMovebLoadEa,
   rowMovebStoreEa, rowMovefLoadEa, rowMovefStoreEa, rowMovelC4, rowMovelC2, rowMovelShort, rowMovelIndex,
   rowMovelEa, rowMovelC3, rowMovelSpShort]

/-- The one-word rows, part 4. -/
def rows1d : List Row :=
  [rowMovewImm7, rowMovewShort, rowMovewIndex, rowMovewEa, rowMovewC3, rowMovewSpShort, rowMovet, rowMovef,
   rowMoves2f, rowMoves4f, rowMovesfEa, rowMoveslEa, rowMoveubEa, rowMoveuwEa, rowVsl2f, rowVsl2w, rowVsl4f,
   rowVsl4w, rowPopEven, rowPopOdd, rowPopnEven, rowPopnOdd, rowPushEven, rowPushOdd, rowPushnEven, rowPushnOdd,
   rowBradShort, rowBraShort, rowBsrdShort, rowBsrShort, rowBtdShort, rowBtShort, rowBfdShort, rowBfShort,
   rowJmpdReg, rowJmpReg, rowJsrdReg, rowJsrReg, rowJtdReg, rowJtReg]

/-- The one-word rows, part 5. -/
def rows1e : List Row :=
  [rowJfdReg, rowJfReg, rowRte, rowRted, rowRts, rowRtsd, rowRtstk, rowRtstkd, rowTrap, rowDoenU6, rowDoenReg,
   rowDoenshU6, rowDoenshReg, rowDebug, rowDebugev, rowDi, rowEi, rowIllegal, rowMark, rowStop, rowWait]

/-- The one-word rows of the opcode table. -/
def rows1 : List Row := rows1a ++ rows1b ++ rows1c ++ rows1d ++ rows1e

/-- The two-word rows, part 1. -/
def rows2a : List Row :=
  [rowAddnc, rowCmpeqS, rowCmpgtS, rowIaddnc, rowSubnc, rowImaclhuu, rowImacus, rowImpyW, rowImpyhluu, rowImpysu,
   rowImpyuu, rowMacImm, rowAndImmLow, rowAndImmHigh, rowExtractImm, rowExtractReg, rowExtractuImm, rowExtractuReg,
   rowInsertImm, rowInsertReg, rowAddaImm16, rowMovebLoadAbs16, rowMovebStoreAbs16, rowMovebStoreDisp,
   rowMovebLoadSp, rowMovebStoreSp, rowMovefImm, rowMovefLoadAbs16, rowMovefLoadDisp, rowMovefLoadSp,
   rowMovelExtEvenSp, rowMovelExtStoreSp, rowMovelExtOddSp, rowMovelC4MemAbs16, rowMovelDisp, rowMovelC4MemSp,
   rowMovewImm16, rowMovewImmMemSpShort, rowMovewImmMemRn, rowMovewC4MemAbs16]

/-- The two-word rows, part 2. -/
def rows2b : List Row :=
  [rowMovewDisp, rowMovewC4MemSp, rowMovesfAbs16, rowMovesfDisp, rowMovesfSp, rowMoveubAbs16, rowMoveubDisp,
   rowMoveubSp, rowMoveuwHigh, rowMoveuwLow, rowMoveuwC4Abs16, rowMoveuwDisp, rowMoveuwC4Sp, rowBmclrDr, rowBmclrC1,
   rowBmclrMemRn, rowBmclrMemSpShort, rowBmsetDr, rowBmsetC1, rowBmsetMemRn, rowBmsetMemSpShort, rowBmchgDr,
   rowBmchgC1, rowBmchgMemRn, rowBmchgMemSpShort, rowBmtstcDr, rowBmtstcC1, rowBmtstcMemRn, rowBmtstcMemSpShort,
   rowBmtstsDr, rowBmtstsC1, rowBmtstsMemRn, rowBmtstsMemSpShort, rowBmtsetDr, rowBmtsetMemRn, rowBmtsetMemSpShort,
   rowBradLong, rowBraLong, rowBsrdLong, rowBsrLong]

/-- The two-word rows, part 3. -/
def rows2c : List Row :=
  [rowBtdLong, rowBtLong, rowBfdLong, rowBfLong, rowBreak_, rowSkipls, rowContd, rowCont, rowDosetup, rowDoenU16,
   rowDoenshU16]

/-- The two-word rows of the opcode table. -/
def rows2 : List Row := rows2a ++ rows2b ++ rows2c

/-- The three-word rows, part 1. -/
def rows3a : List Row :=
  [rowMovebStoreAbs32, rowMovefLoadAbs32, rowMovelImmC4, rowMovelImmC1, rowMovelExtEvenAbs32, rowMovelExtStoreAbs32,
   rowMovelExtOddAbs32, rowMovelAbs32, rowMovewImmMemAbs16, rowMovewImmMemSp, rowMovewAbs32, rowMovesfAbs32,
   rowMoveubAbs32, rowMoveulImm, rowMoveuwAbs32, rowBmclrMemAbs16, rowBmclrMemSp, rowBmsetMemAbs16, rowBmsetMemSp,
   rowBmchgMemAbs16, rowBmchgMemSp, rowBmtstcMemAbs16, rowBmtstcMemSp, rowBmtstsMemAbs16, rowBmtstsMemSp,
   rowBmtsetMemAbs16, rowBmtsetMemSp, rowJmpdAbs, rowJmpAbs, rowJsrdAbs, rowJsrAbs, rowJtdAbs, rowJtAbs, rowJfdAbs,
   rowJfAbs]

/-- The three-word rows of the opcode table. -/
def rows3 : List Row := rows3a

/-! ### One instruction -/

/-- The two top bits of a word: what sorts it into a class (R152). -/
def top2 (w : Nat) : Nat := w / 2 ^ 14 % 4
/-- The three top bits of a word. -/
def top3 (w : Nat) : Nat := w / 2 ^ 13 % 8

/-- R178 step 4 (b): `00`, `001`, `10` words that match a three-word row. -/
def findThree : List Nat → Option (Row × Nat)
  | w :: x :: y :: _ =>
    if top2 w = 0 ∧ top3 x = 1 ∧ top2 y = 2 then
      let v := w + x * 2 ^ 16 + y * 2 ^ 32
      (rows3.find? (·.hits v)).map fun r => (r, v)
    else none
  | _ => none

/-- R178 step 4 (c): `00`, `10` words that match a two-word row. -/
def findTwo : List Nat → Option (Row × Nat)
  | w :: x :: _ =>
    if top2 w = 0 ∧ top2 x = 2 then
      let v := w + x * 2 ^ 16
      (rows2.find? (·.hits v)).map fun r => (r, v)
    else none
  | _ => none

/-- R178 step 4 (a) and (d): a one-word row; bit 14 of a Type 1 row is outside its mask. -/
def findOne : List Nat → Option (Row × Nat)
  | w :: _ => (rows1.find? (·.hits w)).map fun r => (r, w)
  | [] => none

/-- R178 step 4: the multi-word readings come first (D55). -/
def findRow (ws : List Nat) : Option (Row × Nat) :=
  match findThree ws with
  | some r => some r
  | none =>
    match findTwo ws with
    | some r => some r
    | none => findOne ws

/-- The name the decoder gives words that have two spellings: ASL, CLR, INC, DECA, INCA and NOT have a name of their own; the
others are the instruction that they are mapped to (log 39). -/
def named : Instr → Instr
  | .addReg a b n => if a = b then .asl a n else .addReg a b n
  | .subReg a b n => if a = b then .clr a n else .subReg a b n
  | .addImm u n => if u = 1#5 then .inc n else .addImm u n
  | .subaImm u x => if u = 1#5 ∧ x ≠ .sp then .deca x else .subaImm u x
  | .addaImm u x => if u = 1#5 ∧ x ≠ .sp then .inca x else .addaImm u x
  | .bmchgDr m h dr => if m = 0xFFFF#16 then .notDr h dr else .bmchgDr m h dr
  | .bmchgMem m ea => if m = 0xFFFF#16 then .notMem ea else .bmchgMem m ea
  | i => i

/-- One instruction at the head of `ws`, with the bank bits `k` of its position, and how many words it takes; `none` is an
illegal word (R179). -/
def decodeAt (k : Bank) (ws : List Nat) : Option (Instr × Nat) :=
  match findRow ws with
  | none => none
  | some (r, v) =>
    match r.build k (r.unpack v) with
    | none => none
    | some i => some (named i, r.words)

/-! ### Prefix words -/

/-- Is the word a one-word prefix (R153)? -/
def isPrefix1 (w : Nat) : Bool := w &&& 0xF1E0 == 0x90C0

/-- Are the words a two-word prefix (R154)? -/
def isPrefix2 (w x : Nat) : Bool := w &&& 0xF100 == 0x3000 && x &&& 0xE000 == 0xA000

/-- One bit of a word. -/
def bitOf (w i : Nat) : Bool := w.testBit i

/-- The instruction a one-word prefix is (R478 to R482); reserved ccc values are illegal (R155, R179). -/
def prefix1Instr (w : Nat) : Option Instr :=
  let aaa := BitVec.ofNat 3 (w / 2 ^ 9)
  let p := bitOf w 4
  let j := bitOf w 3
  let ccc := BitVec.ofNat 3 w
  if !cccOk ccc then none
  else if prefixMixed p j ccc then some (.prefix1 aaa p j ccc)
  else if ccc = 2#3 then some (.ift aaa)
  else if ccc = 3#3 then some (.iff aaa)
  else if j then some (.lpmarka aaa)
  else if p then some (.lpmarkb aaa)
  else if aaa = 0#3 then some .nop else some (.ifa aaa)

/-- The sixteen high-register bits of a two-word prefix: H, h, T, t, then b1 B1 e1 E1, b2 B2 e2 E2, b3 B3 e3 E3 (R154). -/
def highBits (w x : Nat) : BitVec 16 :=
  BitVec.ofNat 16 ((w / 2 ^ 7 % 2) * 2 ^ 15 + (w / 2 ^ 5 % 2) * 2 ^ 14 + (x / 2 ^ 8 % 2) * 2 ^ 13
    + (w / 2 ^ 6 % 2) * 2 ^ 12 + (x / 2 ^ 9 % 16) * 2 ^ 8 + x % 2 ^ 8)

/-- The instruction a two-word prefix is; aaa = 0 and 1 and reserved ccc values are illegal (R154, R155, R179). -/
def prefix2Instr (w x : Nat) : Option Instr :=
  let aaa := BitVec.ofNat 3 (w / 2 ^ 9)
  let ccc := BitVec.ofNat 3 w
  if !cccOk ccc || aaa = 0#3 || aaa = 1#3 then none
  else some (.prefix2 aaa (highBits w x) (bitOf w 4) (bitOf w 3) ccc)

/-- The bank bits of the instruction at a position: DALU unit `q mod 4`, AGU unit `q mod 2` (R156, R158). -/
def bankAt (hb : BitVec 16) (q : Nat) : Bank :=
  let u := q % 4
  { e1 := hb.getLsbD (8 + u), e2 := hb.getLsbD (4 + u), e3 := hb.getLsbD u
    hi := if q % 2 = 0 then hb.getLsbD 15 else hb.getLsbD 13
    lo := if q % 2 = 0 then hb.getLsbD 14 else hb.getLsbD 12 }

/-- The instruction at the head of a list of words, prefix words included, with no high-bank bits, and its length. -/
def decodeWords (k : Bank) : List Nat → Option (Instr × Nat)
  | [] => none
  | w :: ws =>
    if isPrefix1 w then (prefix1Instr w).map fun i => (i, 1)
    else
      match ws with
      | x :: _ => if isPrefix2 w x then (prefix2Instr w x).map fun i => (i, 2) else decodeAt k (w :: ws)
      | [] => decodeAt k (w :: ws)

/-- The three words of a number laid out as spec/opcode_table.json lays them out, the bits from `nbits` on being 0. -/
def plainWords (nbits w : Nat) : List Nat :=
  let v := w % 2 ^ nbits
  [v % 2 ^ 16, v / 2 ^ 16 % 2 ^ 16, v / 2 ^ 32 % 2 ^ 16]

/-- A first word with the fixed bits that a row's other words have, their operand bits being 0. -/
def withTags (w0 : Nat) (r : Row) : List Nat :=
  let v := r.mat / 2 ^ 16
  [w0, v % 2 ^ 16, v / 2 ^ 16]

/-- The readings of a first word as a row of several words whose operand words are zeros but for their fixed tag bits (R174 to
R177). -/
def tagged (rows : List Row) (w0 : Nat) : List (List Nat) :=
  (rows.filter fun r => w0 &&& r.mask % 2 ^ 16 == r.mat % 2 ^ 16).map (withTags w0)

/-- The words that a number of the opcode table stands for.  The table gives operand words no bits, so where the words after the
first are zeros they stand for operand words of zeros, which carry their fixed tag bits; where the number is no longer than a word,
the one-word reading comes first (log 41). -/
def tableWords (nbits w : Nat) : List Nat :=
  let ws := plainWords nbits w
  let w0 := ws.headD 0
  let two := tagged rows2 w0 ++ (if w0 &&& 0xF100 == 0x3000 then [[w0, 0xA000, 0]] else [])
  let three := tagged rows3 w0
  let options : List (List Nat) :=
    if (ws.drop 1).all (· == 0) then
      (if nbits ≤ 16 then ws :: (two ++ three)
       else if nbits ≤ 32 then two ++ ws :: three
       else three ++ ws :: two)
    else [ws]
  (options.find? fun x => (decodeWords Bank.zero x).isSome).getD ws

/-- What the decoder reads from an instruction whose bits are `w`. -/
def decodeTableWord (nbits w : Nat) : Option Instr :=
  (decodeWords Bank.zero (tableWords nbits w)).map Prod.fst

/-! ### The encoder -/

/-- A row, the bank bits and the field values that stand for an instruction. -/
structure Encoding where
  row : Row
  bank : Bank
  vals : List Nat

/-- The core instruction that a second spelling is mapped to (R216, R218, R226, R331, R334, R395, R396, R409 to R414). -/
def coreOf : Instr → Instr
  | .asl a n => if a.val % 2 = 0 then .addReg a a n else .addSame a a n
  | .clr a n => if a.val % 2 = 0 then .subReg a a n else .subSame a a n
  | .inc n => .addImm 1#5 n
  | .deca x => .subaImm 1#5 x
  | .inca x => .addaImm 1#5 x
  | .andDr m h dr => .bmclrDr (~~~m) h dr
  | .eorDr m h dr => .bmchgDr m h dr
  | .notDr h dr => .bmchgDr 0xFFFF#16 h dr
  | .orDr m h dr => .bmsetDr m h dr
  | .andMem m ea => .bmclrMem (~~~m) ea
  | .eorMem m ea => .bmchgMem m ea
  | .notMem ea => .bmchgMem 0xFFFF#16 ea
  | .orMem m ea => .bmsetMem m ea
  | i => i

/-- The spelling that the decoder gives an instruction's words. -/
def Instr.canon (i : Instr) : Instr := named (coreOf i)

/-- Row, bank bits and field values of a core instruction; the second spellings and the prefix words have none here. -/
def encodingOf : Instr → Option Encoding
  | .abs n => some ⟨rowAbs, { Bank.zero with e3 := regHigh n }, [regCode n]⟩
  | .addImm u n => some ⟨rowAddImm, { Bank.zero with e3 := regHigh n }, [u.toNat, regCode n]⟩
  | .addReg a b n => some ⟨rowAddReg, { Bank.zero with e2 := regHigh a, e1 := regHigh b, e3 := regHigh n }, [pairCode a b, regCode n]⟩
  | .addSame a b n => some ⟨rowAddSame, { Bank.zero with e2 := regHigh a, e1 := regHigh b, e3 := regHigh n }, [sameCode a, regCode n]⟩
  | .add2 a n => some ⟨rowAdd2, { Bank.zero with e1 := regHigh a, e3 := regHigh n }, [regCode a, regCode n]⟩
  | .addnc s a n => some ⟨rowAddnc, { Bank.zero with e1 := regHigh a, e3 := regHigh n }, [s.toNat, regCode a, regCode n]⟩
  | .adr a n => some ⟨rowAdr, { Bank.zero with e1 := regHigh a, e3 := regHigh n }, [regCode a, regCode n]⟩
  | .asr a n => some ⟨rowAsr, { Bank.zero with e1 := regHigh a, e3 := regHigh n }, [regCode a, regCode n]⟩
  | .cmpeq a n => some ⟨rowCmpeq, { Bank.zero with e1 := regHigh a, e3 := regHigh n }, [regCode a, regCode n]⟩
  | .cmpeqU u n => some ⟨rowCmpeqU, { Bank.zero with e3 := regHigh n }, [u.toNat, regCode n]⟩
  | .cmpeqS s n => some ⟨rowCmpeqS, { Bank.zero with e3 := regHigh n }, [s.toNat, regCode n]⟩
  | .cmpgt a n => some ⟨rowCmpgt, { Bank.zero with e1 := regHigh a, e3 := regHigh n }, [regCode a, regCode n]⟩
  | .cmpgtU u n => some ⟨rowCmpgtU, { Bank.zero with e3 := regHigh n }, [u.toNat, regCode n]⟩
  | .cmpgtS s n => some ⟨rowCmpgtS, { Bank.zero with e3 := regHigh n }, [s.toNat, regCode n]⟩
  | .cmphi a n => some ⟨rowCmphi, { Bank.zero with e1 := regHigh a, e3 := regHigh n }, [regCode a, regCode n]⟩
  | .decge n => some ⟨rowDecge, { Bank.zero with e3 := regHigh n }, [regCode n]⟩
  | .div a n => some ⟨rowDiv, { Bank.zero with e1 := regHigh a, e3 := regHigh n }, [regCode a, regCode n]⟩
  | .iaddnc s n => some ⟨rowIaddnc, { Bank.zero with e3 := regHigh n }, [s.toNat, regCode n]⟩
  | .incListed n => some ⟨rowIncListed, { Bank.zero with e3 := regHigh n }, [regCode n]⟩
  | .incF n => some ⟨rowIncF, { Bank.zero with e3 := regHigh n }, [regCode n]⟩
  | .max g h => some ⟨rowMax, { Bank.zero with e1 := regHigh g, e3 := regHigh h }, [ggCode g]⟩
  | .max2vitA a b => some ⟨rowMax2vitA, { Bank.zero with e1 := regHigh a, e3 := regHigh b }, []⟩
  | .max2vitB a b => some ⟨rowMax2vitB, { Bank.zero with e1 := regHigh a, e3 := regHigh b }, []⟩
  | .min g h => some ⟨rowMin, { Bank.zero with e1 := regHigh g, e3 := regHigh h }, [ggCode g]⟩
  | .neg n => some ⟨rowNeg, { Bank.zero with e3 := regHigh n }, [regCode n]⟩
  | .rnd a n => some ⟨rowRnd, { Bank.zero with e1 := regHigh a, e3 := regHigh n }, [regCode a, regCode n]⟩
  | .satL n => some ⟨rowSatL, { Bank.zero with e3 := regHigh n }, [regCode n]⟩
  | .sbc c d => some ⟨rowSbc, { Bank.zero with e1 := regHigh c, e3 := regHigh d }, [eeCode c]⟩
  | .sbr a n => some ⟨rowSbr, { Bank.zero with e1 := regHigh a, e3 := regHigh n }, [regCode a, regCode n]⟩
  | .subImm u n => some ⟨rowSubImm, { Bank.zero with e3 := regHigh n }, [u.toNat, regCode n]⟩
  | .subReg a b n => some ⟨rowSubReg, { Bank.zero with e2 := regHigh a, e1 := regHigh b, e3 := regHigh n }, [pairCode a b, regCode n]⟩
  | .subRegSwap a b n => some ⟨rowSubRegSwap, { Bank.zero with e2 := regHigh a, e1 := regHigh b, e3 := regHigh n }, [pairCode a b, regCode n]⟩
  | .subSame a b n => some ⟨rowSubSame, { Bank.zero with e2 := regHigh a, e1 := regHigh b, e3 := regHigh n }, [sameCode a, regCode n]⟩
  | .sub2 a n => some ⟨rowSub2, { Bank.zero with e1 := regHigh a, e3 := regHigh n }, [regCode a, regCode n]⟩
  | .subl a n => some ⟨rowSubl, { Bank.zero with e1 := regHigh a, e3 := regHigh n }, [regCode a, regCode n]⟩
  | .subnc s n => some ⟨rowSubnc, { Bank.zero with e3 := regHigh n }, [s.toNat, regCode n]⟩
  | .tfr a n => some ⟨rowTfr, { Bank.zero with e1 := regHigh a, e3 := regHigh n }, [regCode a, regCode n]⟩
  | .tfrf a n => some ⟨rowTfrf, { Bank.zero with e1 := regHigh a, e3 := regHigh n }, [regCode a, regCode n]⟩
  | .tfrt a n => some ⟨rowTfrt, { Bank.zero with e1 := regHigh a, e3 := regHigh n }, [regCode a, regCode n]⟩
  | .tsteq n => some ⟨rowTsteq, { Bank.zero with e3 := regHigh n }, [regCode n]⟩
  | .tstge n => some ⟨rowTstge, { Bank.zero with e3 := regHigh n }, [regCode n]⟩
  | .imac neg a b n => some ⟨rowImac, { Bank.zero with e2 := regHigh a, e1 := regHigh b, e3 := regHigh n }, [neg.toNat, pairCode a b, regCode n]⟩
  | .imacSame neg a b n => some ⟨rowImacSame, { Bank.zero with e2 := regHigh a, e1 := regHigh b, e3 := regHigh n }, [neg.toNat, sameCode a, regCode n]⟩
  | .imaclhuu a b n => some ⟨rowImaclhuu, { Bank.zero with e2 := regHigh a, e1 := regHigh b, e3 := regHigh n }, [regCode a, regCode b, regCode n]⟩
  | .imacus a b n => some ⟨rowImacus, { Bank.zero with e2 := regHigh a, e1 := regHigh b, e3 := regHigh n }, [regCode a, regCode b, regCode n]⟩
  | .impy a b n => some ⟨rowImpy, { Bank.zero with e2 := regHigh a, e1 := regHigh b, e3 := regHigh n }, [pairCode a b, regCode n]⟩
  | .impySame a b n => some ⟨rowImpySame, { Bank.zero with e2 := regHigh a, e1 := regHigh b, e3 := regHigh n }, [sameCode a, regCode n]⟩
  | .impyW s n => some ⟨rowImpyW, { Bank.zero with e3 := regHigh n }, [s.toNat, regCode n]⟩
  | .impyhluu a b n => some ⟨rowImpyhluu, { Bank.zero with e2 := regHigh a, e1 := regHigh b, e3 := regHigh n }, [regCode a, regCode b, regCode n]⟩
  | .impysu a b n => some ⟨rowImpysu, { Bank.zero with e2 := regHigh a, e1 := regHigh b, e3 := regHigh n }, [regCode a, regCode b, regCode n]⟩
  | .impyuu a b n => some ⟨rowImpyuu, { Bank.zero with e2 := regHigh a, e1 := regHigh b, e3 := regHigh n }, [regCode a, regCode b, regCode n]⟩
  | .mac neg a b n => some ⟨rowMac, { Bank.zero with e2 := regHigh a, e1 := regHigh b, e3 := regHigh n }, [neg.toNat, pairCode a b, regCode n]⟩
  | .macSame neg a b n => some ⟨rowMacSame, { Bank.zero with e2 := regHigh a, e1 := regHigh b, e3 := regHigh n }, [neg.toNat, sameCode a, regCode n]⟩
  | .macImm s a n => some ⟨rowMacImm, { Bank.zero with e1 := regHigh a, e3 := regHigh n }, [s.toNat, regCode a, regCode n]⟩
  | .macr neg a b n => some ⟨rowMacr, { Bank.zero with e2 := regHigh a, e1 := regHigh b, e3 := regHigh n }, [neg.toNat, pairCode a b, regCode n]⟩
  | .macrSame neg a b n => some ⟨rowMacrSame, { Bank.zero with e2 := regHigh a, e1 := regHigh b, e3 := regHigh n }, [neg.toNat, sameCode a, regCode n]⟩
  | .macsu c d n => some ⟨rowMacsu, { Bank.zero with e2 := regHigh c, e1 := regHigh d, e3 := regHigh n }, [eeCode c, regCode n]⟩
  | .macus c d n => some ⟨rowMacus, { Bank.zero with e2 := regHigh c, e1 := regHigh d, e3 := regHigh n }, [eeCode c, regCode n]⟩
  | .macuu c d n => some ⟨rowMacuu, { Bank.zero with e2 := regHigh c, e1 := regHigh d, e3 := regHigh n }, [eeCode c, regCode n]⟩
  | .mpy a b n => some ⟨rowMpy, { Bank.zero with e2 := regHigh a, e1 := regHigh b, e3 := regHigh n }, [pairCode a b, regCode n]⟩
  | .mpySame a b n => some ⟨rowMpySame, { Bank.zero with e2 := regHigh a, e1 := regHigh b, e3 := regHigh n }, [sameCode a, regCode n]⟩
  | .mpyr a b n => some ⟨rowMpyr, { Bank.zero with e2 := regHigh a, e1 := regHigh b, e3 := regHigh n }, [pairCode a b, regCode n]⟩
  | .mpyrSame a b n => some ⟨rowMpyrSame, { Bank.zero with e2 := regHigh a, e1 := regHigh b, e3 := regHigh n }, [sameCode a, regCode n]⟩
  | .mpysu c d n => some ⟨rowMpysu, { Bank.zero with e2 := regHigh c, e1 := regHigh d, e3 := regHigh n }, [eeCode c, regCode n]⟩
  | .mpyus c d n => some ⟨rowMpyus, { Bank.zero with e2 := regHigh c, e1 := regHigh d, e3 := regHigh n }, [eeCode c, regCode n]⟩
  | .mpyuu c d n => some ⟨rowMpyuu, { Bank.zero with e2 := regHigh c, e1 := regHigh d, e3 := regHigh n }, [eeCode c, regCode n]⟩
  | .andImmLow u a n => some ⟨rowAndImmLow, { Bank.zero with e1 := regHigh a, e3 := regHigh n }, [u.toNat, regCode a, regCode n]⟩
  | .andImmHigh u a n => some ⟨rowAndImmHigh, { Bank.zero with e1 := regHigh a, e3 := regHigh n }, [u.toNat, regCode a, regCode n]⟩
  | .andReg a n => some ⟨rowAndReg, { Bank.zero with e1 := regHigh a, e3 := regHigh n }, [regCode a, regCode n]⟩
  | .asllImm u n => some ⟨rowAsllImm, { Bank.zero with e3 := regHigh n }, [u.toNat, regCode n]⟩
  | .asllReg a n => some ⟨rowAsllReg, { Bank.zero with e1 := regHigh a, e3 := regHigh n }, [regCode a, regCode n]⟩
  | .aslw a n => some ⟨rowAslw, { Bank.zero with e1 := regHigh a, e3 := regHigh n }, [regCode a, regCode n]⟩
  | .asrrImm u n => some ⟨rowAsrrImm, { Bank.zero with e3 := regHigh n }, [u.toNat, regCode n]⟩
  | .asrrReg a n => some ⟨rowAsrrReg, { Bank.zero with e1 := regHigh a, e3 := regHigh n }, [regCode a, regCode n]⟩
  | .asrw a n => some ⟨rowAsrw, { Bank.zero with e1 := regHigh a, e3 := regHigh n }, [regCode a, regCode n]⟩
  | .clb a n => some ⟨rowClb, { Bank.zero with e1 := regHigh a, e3 := regHigh n }, [regCode a, regCode n]⟩
  | .eorReg a n => some ⟨rowEorReg, { Bank.zero with e1 := regHigh a, e3 := regHigh n }, [regCode a, regCode n]⟩
  | .extractImm w o b n => some ⟨rowExtractImm, { Bank.zero with e1 := regHigh b, e3 := regHigh n }, [w.toNat, o.toNat, regCode b, regCode n]⟩
  | .extractReg a b n => some ⟨rowExtractReg, { Bank.zero with e2 := regHigh a, e1 := regHigh b, e3 := regHigh n }, [regCode a, regCode b, regCode n]⟩
  | .extractuImm w o b n => some ⟨rowExtractuImm, { Bank.zero with e1 := regHigh b, e3 := regHigh n }, [w.toNat, o.toNat, regCode b, regCode n]⟩
  | .extractuReg a b n => some ⟨rowExtractuReg, { Bank.zero with e2 := regHigh a, e1 := regHigh b, e3 := regHigh n }, [regCode a, regCode b, regCode n]⟩
  | .insertImm w o b n => some ⟨rowInsertImm, { Bank.zero with e1 := regHigh b, e3 := regHigh n }, [w.toNat, o.toNat, regCode b, regCode n]⟩
  | .insertReg a b n => some ⟨rowInsertReg, { Bank.zero with e2 := regHigh a, e1 := regHigh b, e3 := regHigh n }, [regCode a, regCode b, regCode n]⟩
  | .lsll a n => some ⟨rowLsll, { Bank.zero with e1 := regHigh a, e3 := regHigh n }, [regCode a, regCode n]⟩
  | .lsr n => some ⟨rowLsr, { Bank.zero with e3 := regHigh n }, [regCode n]⟩
  | .lsrrImm u n => some ⟨rowLsrrImm, { Bank.zero with e3 := regHigh n }, [u.toNat, regCode n]⟩
  | .lsrrReg a n => some ⟨rowLsrrReg, { Bank.zero with e1 := regHigh a, e3 := regHigh n }, [regCode a, regCode n]⟩
  | .lsrw a n => some ⟨rowLsrw, { Bank.zero with e1 := regHigh a, e3 := regHigh n }, [regCode a, regCode n]⟩
  | .notReg a n => some ⟨rowNotReg, { Bank.zero with e1 := regHigh a, e3 := regHigh n }, [regCode a, regCode n]⟩
  | .orReg a n => some ⟨rowOrReg, { Bank.zero with e1 := regHigh a, e3 := regHigh n }, [regCode a, regCode n]⟩
  | .rol n => some ⟨rowRol, { Bank.zero with e3 := regHigh n }, [regCode n]⟩
  | .ror n => some ⟨rowRor, { Bank.zero with e3 := regHigh n }, [regCode n]⟩
  | .sxtB a n => some ⟨rowSxtB, { Bank.zero with e1 := regHigh a, e3 := regHigh n }, [regCode a, regCode n]⟩
  | .sxtL n => some ⟨rowSxtL, { Bank.zero with e3 := regHigh n }, [regCode n]⟩
  | .sxtW a n => some ⟨rowSxtW, { Bank.zero with e1 := regHigh a, e3 := regHigh n }, [regCode a, regCode n]⟩
  | .zxtB a n => some ⟨rowZxtB, { Bank.zero with e1 := regHigh a, e3 := regHigh n }, [regCode a, regCode n]⟩
  | .zxtL n => some ⟨rowZxtL, { Bank.zero with e3 := regHigh n }, [regCode n]⟩
  | .zxtW a n => some ⟨rowZxtW, { Bank.zero with e1 := regHigh a, e3 := regHigh n }, [regCode a, regCode n]⟩
  | .addaImm u x => some ⟨rowAddaImm, { Bank.zero with hi := rxHigh x }, [u.toNat, rxCode x]⟩
  | .addaImm16 s src n => some ⟨rowAddaImm16, { Bank.zero with lo := rxSrcHigh src, hi := regHigh n }, [s.toNat, rxSrcCode src, regCode n]⟩
  | .addaReg src x => some ⟨rowAddaReg, { Bank.zero with lo := rxSrcHigh src, hi := rxHigh x }, [rxSrcCode src, rxCode x]⟩
  | .addl1a src x => some ⟨rowAddl1a, { Bank.zero with lo := rxSrcHigh src, hi := rxHigh x }, [rxSrcCode src, rxCode x]⟩
  | .addl2a src x => some ⟨rowAddl2a, { Bank.zero with lo := rxSrcHigh src, hi := rxHigh x }, [rxSrcCode src, rxCode x]⟩
  | .asl2a x => some ⟨rowAsl2a, { Bank.zero with hi := rxHigh x }, [rxCode x]⟩
  | .asla x => some ⟨rowAsla, { Bank.zero with hi := rxHigh x }, [rxCode x]⟩
  | .asra x => some ⟨rowAsra, { Bank.zero with hi := rxHigh x }, [rxCode x]⟩
  | .cmpeqa src x => some ⟨rowCmpeqa, { Bank.zero with lo := rxSrcHigh src, hi := rxHigh x }, [rxSrcCode src, rxCode x]⟩
  | .cmpgta src x => some ⟨rowCmpgta, { Bank.zero with lo := rxSrcHigh src, hi := rxHigh x }, [rxSrcCode src, rxCode x]⟩
  | .cmphia src x => some ⟨rowCmphia, { Bank.zero with lo := rxSrcHigh src, hi := rxHigh x }, [rxSrcCode src, rxCode x]⟩
  | .deceqa x => some ⟨rowDeceqa, { Bank.zero with hi := rxHigh x }, [rxCode x]⟩
  | .decgea x => some ⟨rowDecgea, { Bank.zero with hi := rxHigh x }, [rxCode x]⟩
  | .lsra x => some ⟨rowLsra, { Bank.zero with hi := rxHigh x }, [rxCode x]⟩
  | .subaImm u x => some ⟨rowSubaImm, { Bank.zero with hi := rxHigh x }, [u.toNat, rxCode x]⟩
  | .subaReg src x => some ⟨rowSubaReg, { Bank.zero with lo := rxSrcHigh src, hi := rxHigh x }, [rxSrcCode src, rxCode x]⟩
  | .sxtaB src x => some ⟨rowSxtaB, { Bank.zero with lo := rxSrcHigh src, hi := rxHigh x }, [rxSrcCode src, rxCode x]⟩
  | .sxtaW x => some ⟨rowSxtaW, { Bank.zero with hi := rxHigh x }, [rxCode x]⟩
  | .tfra src x => some ⟨rowTfra, { Bank.zero with lo := rxSrcHigh src, hi := rxHigh x }, [rxSrcCode src, rxCode x]⟩
  | .tfraFromOsp n => some ⟨rowTfraFromOsp, { Bank.zero with hi := regHigh n }, [regCode n]⟩
  | .tfraToOsp n => some ⟨rowTfraToOsp, { Bank.zero with hi := regHigh n }, [regCode n]⟩
  | .tsteqaL x => some ⟨rowTsteqaL, { Bank.zero with hi := rxHigh x }, [rxCode x]⟩
  | .tsteqaW x => some ⟨rowTsteqaW, { Bank.zero with hi := rxHigh x }, [rxCode x]⟩
  | .tstgeaL x => some ⟨rowTstgeaL, { Bank.zero with hi := rxHigh x }, [rxCode x]⟩
  | .tstgta x => some ⟨rowTstgta, { Bank.zero with hi := rxHigh x }, [rxCode x]⟩
  | .zxtaB src x => some ⟨rowZxtaB, { Bank.zero with lo := rxSrcHigh src, hi := rxHigh x }, [rxSrcCode src, rxCode x]⟩
  | .zxtaW x => some ⟨rowZxtaW, { Bank.zero with hi := rxHigh x }, [rxCode x]⟩
  | .move2f ea rn p => some ⟨rowMove2f, { Bank.zero with hi := regHigh rn, lo := pair8High p }, [eaCode ea, regCode rn, pair8Code p]⟩
  | .move2l dir ea rn p => some ⟨rowMove2l, { Bank.zero with hi := regHigh rn, lo := pair8High p }, [dirCode dir, eaCode ea, regCode rn, pair8Code p]⟩
  | .move2w dir ea rn p => some ⟨rowMove2w, { Bank.zero with hi := regHigh rn, lo := pair8High p }, [dirCode dir, eaCode ea, regCode rn, pair8Code p]⟩
  | .move4f ea rn q => some ⟨rowMove4f, { Bank.zero with hi := regHigh rn, lo := quadHigh q }, [eaCode ea, regCode rn, quadCode q]⟩
  | .move4w dir ea rn q => some ⟨rowMove4w, { Bank.zero with hi := regHigh rn, lo := quadHigh q }, [dirCode dir, eaCode ea, regCode rn, quadCode q]⟩
  | .movebLoad (.abs16 a) dr => some ⟨rowMovebLoadAbs16, { Bank.zero with lo := drHigh dr }, [a.toNat, drCode dr]⟩
  | .movebStore dr (.abs16 a) => some ⟨rowMovebStoreAbs16, { Bank.zero with lo := drHigh dr }, [drCode dr, a.toNat]⟩
  | .movebStore dr (.abs32 a) => some ⟨rowMovebStoreAbs32, { Bank.zero with lo := drHigh dr }, [drCode dr, a.toNat]⟩
  | .movebStore dr (.disp rn s) => some ⟨rowMovebStoreDisp, { Bank.zero with lo := drHigh dr, hi := regHigh rn }, [drCode dr, regCode rn, s.toNat]⟩
  | .movebLoad (.ea em rn) dr => some ⟨rowMovebLoadEa, { Bank.zero with hi := regHigh rn, lo := drHigh dr }, [eaShortCode em, regCode rn, drCode dr]⟩
  | .movebStore dr (.ea em rn) => some ⟨rowMovebStoreEa, { Bank.zero with lo := drHigh dr, hi := regHigh rn }, [drCode dr, eaShortCode em, regCode rn]⟩
  | .movebLoad (.sp s) dr => some ⟨rowMovebLoadSp, { Bank.zero with lo := drHigh dr }, [s.toNat, drCode dr]⟩
  | .movebStore dr (.sp s) => some ⟨rowMovebStoreSp, { Bank.zero with lo := drHigh dr }, [drCode dr, s.toNat]⟩
  | .movefImm s b => some ⟨rowMovefImm, { Bank.zero with lo := regHigh b }, [s.toNat, regCode b]⟩
  | .movefLoad (.abs16 a) b => some ⟨rowMovefLoadAbs16, { Bank.zero with lo := regHigh b }, [a.toNat, regCode b]⟩
  | .movefLoad (.abs32 a) b => some ⟨rowMovefLoadAbs32, { Bank.zero with lo := regHigh b }, [a.toNat, regCode b]⟩
  | .movefLoad (.ea em rn) b => some ⟨rowMovefLoadEa, { Bank.zero with hi := regHigh rn, lo := regHigh b }, [eaCode em, regCode rn, regCode b]⟩
  | .movefLoad (.disp rn s) b => some ⟨rowMovefLoadDisp, { Bank.zero with hi := regHigh rn, lo := regHigh b }, [regCode rn, s.toNat, regCode b]⟩
  | .movefLoad (.sp s) b => some ⟨rowMovefLoadSp, { Bank.zero with lo := regHigh b }, [s.toNat, regCode b]⟩
  | .movefStore b (.ea em rn) => some ⟨rowMovefStoreEa, { Bank.zero with lo := regHigh b, hi := regHigh rn }, [regCode b, eaShortCode em, regCode rn]⟩
  | .movelImmC4 v c => some ⟨rowMovelImmC4, { Bank.zero with lo := c4High c }, [v.toNat, c4Code c]⟩
  | .movelImmC1 v c => some ⟨rowMovelImmC1, Bank.zero, [v.toNat, c1Code c]⟩
  | .movelC4 dir c b => some ⟨rowMovelC4, { Bank.zero with lo := c4High c, hi := regHigh b }, [dirCode dir, c4Code c, regCode b]⟩
  | .movelC2 dir c b => some ⟨rowMovelC2, { Bank.zero with lo := regHigh b }, [dirCode dir, c2Code c, regCode b]⟩
  | .movelExtEven (.sp s) e => some ⟨rowMovelExtEvenSp, { Bank.zero with lo := pair8High e }, [s.toNat, pair8Code e]⟩
  | .movelExtStore p (.sp s) => some ⟨rowMovelExtStoreSp, { Bank.zero with lo := pair8High p }, [pair8Code p, s.toNat]⟩
  | .movelExtOdd (.sp s) o => some ⟨rowMovelExtOddSp, { Bank.zero with lo := pair8High o }, [s.toNat, pair8Code o]⟩
  | .movelExtEven (.abs32 a) e => some ⟨rowMovelExtEvenAbs32, { Bank.zero with lo := pair8High e }, [a.toNat, pair8Code e]⟩
  | .movelExtStore p (.abs32 a) => some ⟨rowMovelExtStoreAbs32, { Bank.zero with lo := pair8High p }, [pair8Code p, a.toNat]⟩
  | .movelExtOdd (.abs32 a) o => some ⟨rowMovelExtOddAbs32, { Bank.zero with lo := pair8High o }, [a.toNat, pair8Code o]⟩
  | .movel dir (.abs32 a) dr => some ⟨rowMovelAbs32, { Bank.zero with lo := drHigh dr }, [dirCode dir, a.toNat, drCode dr]⟩
  | .movelC4Mem dir (.abs16 a) c => some ⟨rowMovelC4MemAbs16, { Bank.zero with lo := c4High c }, [dirCode dir, a.toNat, c4Code c]⟩
  | .movel dir (.short rn u) dr => some ⟨rowMovelShort, { Bank.zero with hi := regHigh rn, lo := drHigh dr }, [dirCode dir, regCode rn, u.toNat, drCode dr]⟩
  | .movel dir (.disp rn s) dr => some ⟨rowMovelDisp, { Bank.zero with hi := regHigh rn, lo := drHigh dr }, [dirCode dir, regCode rn, s.toNat, drCode dr]⟩
  | .movel dir (.index rn rr) dr => some ⟨rowMovelIndex, { Bank.zero with hi := regHigh rn, lo := drHigh dr }, [dirCode dir, regCode rn, rr.val, drCode dr]⟩
  | .movel dir (.ea em rn) dr => some ⟨rowMovelEa, { Bank.zero with hi := regHigh rn, lo := drHigh dr }, [dirCode dir, eaCode em, regCode rn, drCode dr]⟩
  | .movelC3 dir rn c => some ⟨rowMovelC3, { Bank.zero with hi := regHigh rn }, [dirCode dir, regCode rn, c3Code c]⟩
  | .movel dir (.spShort u) dr => some ⟨rowMovelSpShort, { Bank.zero with lo := drHigh dr }, [dirCode dir, u.toNat, drCode dr]⟩
  | .movelC4Mem dir (.sp s) c => some ⟨rowMovelC4MemSp, { Bank.zero with lo := c4High c }, [dirCode dir, s.toNat, c4Code c]⟩
  | .movewImm7 s dr => some ⟨rowMovewImm7, { Bank.zero with lo := drHigh dr }, [s.toNat, drCode dr]⟩
  | .movewImm16 s c => some ⟨rowMovewImm16, { Bank.zero with lo := c4High c }, [s.toNat, c4Code c]⟩
  | .movewImmMem s (.abs16 a) => some ⟨rowMovewImmMemAbs16, Bank.zero, [s.toNat, a.toNat]⟩
  | .movewImmMem s (.spShort u) => some ⟨rowMovewImmMemSpShort, Bank.zero, [s.toNat, u.toNat]⟩
  | .movewImmMem s (.rn rn) => some ⟨rowMovewImmMemRn, { Bank.zero with hi := regHigh rn }, [s.toNat, regCode rn]⟩
  | .movewImmMem s (.sp a) => some ⟨rowMovewImmMemSp, Bank.zero, [s.toNat, a.toNat]⟩
  | .movew dir (.abs32 a) dr => some ⟨rowMovewAbs32, { Bank.zero with lo := drHigh dr }, [dirCode dir, a.toNat, drCode dr]⟩
  | .movewC4Mem dir (.abs16 a) c => some ⟨rowMovewC4MemAbs16, { Bank.zero with lo := c4High c }, [dirCode dir, a.toNat, c4Code c]⟩
  | .movew dir (.short rn u) dr => some ⟨rowMovewShort, { Bank.zero with hi := regHigh rn, lo := drHigh dr }, [dirCode dir, regCode rn, u.toNat, drCode dr]⟩
  | .movew dir (.disp rn s) dr => some ⟨rowMovewDisp, { Bank.zero with hi := regHigh rn, lo := drHigh dr }, [dirCode dir, regCode rn, s.toNat, drCode dr]⟩
  | .movew dir (.index rn rr) dr => some ⟨rowMovewIndex, { Bank.zero with hi := regHigh rn, lo := drHigh dr }, [dirCode dir, regCode rn, rr.val, drCode dr]⟩
  | .movew dir (.ea em rn) dr => some ⟨rowMovewEa, { Bank.zero with hi := regHigh rn, lo := drHigh dr }, [dirCode dir, eaCode em, regCode rn, drCode dr]⟩
  | .movewC3 dir rn c => some ⟨rowMovewC3, { Bank.zero with hi := regHigh rn }, [dirCode dir, regCode rn, c3Code c]⟩
  | .movewC4Mem dir (.sp s) c => some ⟨rowMovewC4MemSp, { Bank.zero with lo := c4High c }, [dirCode dir, s.toNat, c4Code c]⟩
  | .movew dir (.spShort u) dr => some ⟨rowMovewSpShort, { Bank.zero with lo := drHigh dr }, [dirCode dir, u.toNat, drCode dr]⟩
  | .movet q n => some ⟨rowMovet, { Bank.zero with lo := regHigh q, hi := regHigh n }, [regCode q, regCode n]⟩
  | .movef q n => some ⟨rowMovef, { Bank.zero with lo := regHigh q, hi := regHigh n }, [regCode q, regCode n]⟩
  | .moves2f p ea rn => some ⟨rowMoves2f, { Bank.zero with lo := pair8High p, hi := regHigh rn }, [pair8Code p, eaCode ea, regCode rn]⟩
  | .moves4f q ea rn => some ⟨rowMoves4f, { Bank.zero with lo := quadHigh q, hi := regHigh rn }, [quadCode q, eaCode ea, regCode rn]⟩
  | .movesf b (.abs16 a) => some ⟨rowMovesfAbs16, { Bank.zero with lo := regHigh b }, [regCode b, a.toNat]⟩
  | .movesf b (.abs32 a) => some ⟨rowMovesfAbs32, { Bank.zero with lo := regHigh b }, [regCode b, a.toNat]⟩
  | .movesf b (.disp rn s) => some ⟨rowMovesfDisp, { Bank.zero with lo := regHigh b, hi := regHigh rn }, [regCode b, regCode rn, s.toNat]⟩
  | .movesf b (.ea em rn) => some ⟨rowMovesfEa, { Bank.zero with lo := regHigh b, hi := regHigh rn }, [regCode b, eaCode em, regCode rn]⟩
  | .movesf b (.sp s) => some ⟨rowMovesfSp, { Bank.zero with lo := regHigh b }, [regCode b, s.toNat]⟩
  | .moveslEa b ea rn => some ⟨rowMoveslEa, { Bank.zero with lo := regHigh b, hi := regHigh rn }, [regCode b, eaCode ea, regCode rn]⟩
  | .moveub (.abs16 a) dr => some ⟨rowMoveubAbs16, { Bank.zero with lo := drHigh dr }, [a.toNat, drCode dr]⟩
  | .moveub (.abs32 a) dr => some ⟨rowMoveubAbs32, { Bank.zero with lo := drHigh dr }, [a.toNat, drCode dr]⟩
  | .moveub (.disp rn s) dr => some ⟨rowMoveubDisp, { Bank.zero with hi := regHigh rn, lo := drHigh dr }, [regCode rn, s.toNat, drCode dr]⟩
  | .moveub (.ea em rn) dr => some ⟨rowMoveubEa, { Bank.zero with hi := regHigh rn, lo := drHigh dr }, [eaShortCode em, regCode rn, drCode dr]⟩
  | .moveub (.sp s) dr => some ⟨rowMoveubSp, { Bank.zero with lo := drHigh dr }, [s.toNat, drCode dr]⟩
  | .moveulImm v b => some ⟨rowMoveulImm, { Bank.zero with lo := regHigh b }, [v.toNat, regCode b]⟩
  | .moveuwHigh u b => some ⟨rowMoveuwHigh, { Bank.zero with lo := regHigh b }, [u.toNat, regCode b]⟩
  | .moveuwLow u b => some ⟨rowMoveuwLow, { Bank.zero with lo := regHigh b }, [u.toNat, regCode b]⟩
  | .moveuwC4 (.abs16 a) c => some ⟨rowMoveuwC4Abs16, { Bank.zero with lo := c4High c }, [a.toNat, c4Code c]⟩
  | .moveuw (.abs32 a) dr => some ⟨rowMoveuwAbs32, { Bank.zero with lo := drHigh dr }, [a.toNat, drCode dr]⟩
  | .moveuw (.disp rn s) dr => some ⟨rowMoveuwDisp, { Bank.zero with hi := regHigh rn, lo := drHigh dr }, [regCode rn, s.toNat, drCode dr]⟩
  | .moveuw (.ea em rn) dr => some ⟨rowMoveuwEa, { Bank.zero with hi := regHigh rn, lo := drHigh dr }, [eaCode em, regCode rn, drCode dr]⟩
  | .moveuwC4 (.sp s) c => some ⟨rowMoveuwC4Sp, { Bank.zero with lo := c4High c }, [s.toNat, c4Code c]⟩
  | .vsl2f high rn => some ⟨rowVsl2f, { Bank.zero with lo := high, hi := regHigh rn }, [regCode rn]⟩
  | .vsl2w high rn => some ⟨rowVsl2w, { Bank.zero with lo := high, hi := regHigh rn }, [regCode rn]⟩
  | .vsl4f high rn => some ⟨rowVsl4f, { Bank.zero with lo := high, hi := regHigh rn }, [regCode rn]⟩
  | .vsl4w high rn => some ⟨rowVsl4w, { Bank.zero with lo := high, hi := regHigh rn }, [regCode rn]⟩
  | .popEven e => some ⟨rowPopEven, { Bank.zero with lo := evenHigh e }, [evenCode e]⟩
  | .popOdd o => some ⟨rowPopOdd, { Bank.zero with lo := oddHigh o }, [oddCode o]⟩
  | .popnEven e => some ⟨rowPopnEven, { Bank.zero with lo := evenHigh e }, [evenCode e]⟩
  | .popnOdd o => some ⟨rowPopnOdd, { Bank.zero with lo := oddHigh o }, [oddCode o]⟩
  | .pushEven e => some ⟨rowPushEven, { Bank.zero with lo := evenHigh e }, [evenCode e]⟩
  | .pushOdd o => some ⟨rowPushOdd, { Bank.zero with lo := oddHigh o }, [oddCode o]⟩
  | .pushnEven e => some ⟨rowPushnEven, { Bank.zero with lo := evenHigh e }, [evenCode e]⟩
  | .pushnOdd o => some ⟨rowPushnOdd, { Bank.zero with lo := oddHigh o }, [oddCode o]⟩
  | .bmclrDr m half dr => some ⟨rowBmclrDr, { Bank.zero with lo := drHigh dr }, [m.toNat, halfCode half, drCode dr]⟩
  | .bmclrC1 m half c => some ⟨rowBmclrC1, Bank.zero, [m.toNat, halfCode half, c1Code c]⟩
  | .bmclrMem m (.rn rn) => some ⟨rowBmclrMemRn, { Bank.zero with hi := regHigh rn }, [m.toNat, regCode rn]⟩
  | .bmclrMem m (.spShort u) => some ⟨rowBmclrMemSpShort, Bank.zero, [m.toNat, u.toNat]⟩
  | .bmclrMem m (.abs16 a) => some ⟨rowBmclrMemAbs16, Bank.zero, [m.toNat, a.toNat]⟩
  | .bmclrMem m (.sp a) => some ⟨rowBmclrMemSp, Bank.zero, [m.toNat, a.toNat]⟩
  | .bmsetDr m half dr => some ⟨rowBmsetDr, { Bank.zero with lo := drHigh dr }, [m.toNat, halfCode half, drCode dr]⟩
  | .bmsetC1 m half c => some ⟨rowBmsetC1, Bank.zero, [m.toNat, halfCode half, c1Code c]⟩
  | .bmsetMem m (.rn rn) => some ⟨rowBmsetMemRn, { Bank.zero with hi := regHigh rn }, [m.toNat, regCode rn]⟩
  | .bmsetMem m (.spShort u) => some ⟨rowBmsetMemSpShort, Bank.zero, [m.toNat, u.toNat]⟩
  | .bmsetMem m (.abs16 a) => some ⟨rowBmsetMemAbs16, Bank.zero, [m.toNat, a.toNat]⟩
  | .bmsetMem m (.sp a) => some ⟨rowBmsetMemSp, Bank.zero, [m.toNat, a.toNat]⟩
  | .bmchgDr m half dr => some ⟨rowBmchgDr, { Bank.zero with lo := drHigh dr }, [m.toNat, halfCode half, drCode dr]⟩
  | .bmchgC1 m half c => some ⟨rowBmchgC1, Bank.zero, [m.toNat, halfCode half, c1Code c]⟩
  | .bmchgMem m (.rn rn) => some ⟨rowBmchgMemRn, { Bank.zero with hi := regHigh rn }, [m.toNat, regCode rn]⟩
  | .bmchgMem m (.spShort u) => some ⟨rowBmchgMemSpShort, Bank.zero, [m.toNat, u.toNat]⟩
  | .bmchgMem m (.abs16 a) => some ⟨rowBmchgMemAbs16, Bank.zero, [m.toNat, a.toNat]⟩
  | .bmchgMem m (.sp a) => some ⟨rowBmchgMemSp, Bank.zero, [m.toNat, a.toNat]⟩
  | .bmtstcDr m half dr => some ⟨rowBmtstcDr, { Bank.zero with lo := drHigh dr }, [m.toNat, halfCode half, drCode dr]⟩
  | .bmtstcC1 m half c => some ⟨rowBmtstcC1, Bank.zero, [m.toNat, halfCode half, c1Code c]⟩
  | .bmtstcMem m (.rn rn) => some ⟨rowBmtstcMemRn, { Bank.zero with hi := regHigh rn }, [m.toNat, regCode rn]⟩
  | .bmtstcMem m (.spShort u) => some ⟨rowBmtstcMemSpShort, Bank.zero, [m.toNat, u.toNat]⟩
  | .bmtstcMem m (.abs16 a) => some ⟨rowBmtstcMemAbs16, Bank.zero, [m.toNat, a.toNat]⟩
  | .bmtstcMem m (.sp a) => some ⟨rowBmtstcMemSp, Bank.zero, [m.toNat, a.toNat]⟩
  | .bmtstsDr m half dr => some ⟨rowBmtstsDr, { Bank.zero with lo := drHigh dr }, [m.toNat, halfCode half, drCode dr]⟩
  | .bmtstsC1 m half c => some ⟨rowBmtstsC1, Bank.zero, [m.toNat, halfCode half, c1Code c]⟩
  | .bmtstsMem m (.rn rn) => some ⟨rowBmtstsMemRn, { Bank.zero with hi := regHigh rn }, [m.toNat, regCode rn]⟩
  | .bmtstsMem m (.spShort u) => some ⟨rowBmtstsMemSpShort, Bank.zero, [m.toNat, u.toNat]⟩
  | .bmtstsMem m (.abs16 a) => some ⟨rowBmtstsMemAbs16, Bank.zero, [m.toNat, a.toNat]⟩
  | .bmtstsMem m (.sp a) => some ⟨rowBmtstsMemSp, Bank.zero, [m.toNat, a.toNat]⟩
  | .bmtsetDr m half dr => some ⟨rowBmtsetDr, { Bank.zero with lo := drHigh dr }, [m.toNat, halfCode half, drCode dr]⟩
  | .bmtsetMem m (.rn rn) => some ⟨rowBmtsetMemRn, { Bank.zero with hi := regHigh rn }, [m.toNat, regCode rn]⟩
  | .bmtsetMem m (.spShort u) => some ⟨rowBmtsetMemSpShort, Bank.zero, [m.toNat, u.toNat]⟩
  | .bmtsetMem m (.abs16 a) => some ⟨rowBmtsetMemAbs16, Bank.zero, [m.toNat, a.toNat]⟩
  | .bmtsetMem m (.sp a) => some ⟨rowBmtsetMemSp, Bank.zero, [m.toNat, a.toNat]⟩
  | .brad (.short x) => some ⟨rowBradShort, Bank.zero, [x.toNat]⟩
  | .brad (.long x) => some ⟨rowBradLong, Bank.zero, [x.toNat]⟩
  | .bra (.short x) => some ⟨rowBraShort, Bank.zero, [x.toNat]⟩
  | .bra (.long x) => some ⟨rowBraLong, Bank.zero, [x.toNat]⟩
  | .bsrd (.short x) => some ⟨rowBsrdShort, Bank.zero, [x.toNat]⟩
  | .bsrd (.long x) => some ⟨rowBsrdLong, Bank.zero, [x.toNat]⟩
  | .bsr (.short x) => some ⟨rowBsrShort, Bank.zero, [x.toNat]⟩
  | .bsr (.long x) => some ⟨rowBsrLong, Bank.zero, [x.toNat]⟩
  | .btd (.short x) => some ⟨rowBtdShort, Bank.zero, [x.toNat]⟩
  | .btd (.long x) => some ⟨rowBtdLong, Bank.zero, [x.toNat]⟩
  | .bt (.short x) => some ⟨rowBtShort, Bank.zero, [x.toNat]⟩
  | .bt (.long x) => some ⟨rowBtLong, Bank.zero, [x.toNat]⟩
  | .bfd (.short x) => some ⟨rowBfdShort, Bank.zero, [x.toNat]⟩
  | .bfd (.long x) => some ⟨rowBfdLong, Bank.zero, [x.toNat]⟩
  | .bf (.short x) => some ⟨rowBfShort, Bank.zero, [x.toNat]⟩
  | .bf (.long x) => some ⟨rowBfLong, Bank.zero, [x.toNat]⟩
  | .jmpd (.abs a) => some ⟨rowJmpdAbs, Bank.zero, [a.toNat]⟩
  | .jmpd (.reg rn) => some ⟨rowJmpdReg, { Bank.zero with hi := regHigh rn }, [regCode rn]⟩
  | .jmp (.abs a) => some ⟨rowJmpAbs, Bank.zero, [a.toNat]⟩
  | .jmp (.reg rn) => some ⟨rowJmpReg, { Bank.zero with hi := regHigh rn }, [regCode rn]⟩
  | .jsrd (.abs a) => some ⟨rowJsrdAbs, Bank.zero, [a.toNat]⟩
  | .jsrd (.reg rn) => some ⟨rowJsrdReg, { Bank.zero with hi := regHigh rn }, [regCode rn]⟩
  | .jsr (.abs a) => some ⟨rowJsrAbs, Bank.zero, [a.toNat]⟩
  | .jsr (.reg rn) => some ⟨rowJsrReg, { Bank.zero with hi := regHigh rn }, [regCode rn]⟩
  | .jtd (.abs a) => some ⟨rowJtdAbs, Bank.zero, [a.toNat]⟩
  | .jtd (.reg rn) => some ⟨rowJtdReg, { Bank.zero with hi := regHigh rn }, [regCode rn]⟩
  | .jt (.abs a) => some ⟨rowJtAbs, Bank.zero, [a.toNat]⟩
  | .jt (.reg rn) => some ⟨rowJtReg, { Bank.zero with hi := regHigh rn }, [regCode rn]⟩
  | .jfd (.abs a) => some ⟨rowJfdAbs, Bank.zero, [a.toNat]⟩
  | .jfd (.reg rn) => some ⟨rowJfdReg, { Bank.zero with hi := regHigh rn }, [regCode rn]⟩
  | .jf (.abs a) => some ⟨rowJfAbs, Bank.zero, [a.toNat]⟩
  | .jf (.reg rn) => some ⟨rowJfReg, { Bank.zero with hi := regHigh rn }, [regCode rn]⟩
  | .rte => some ⟨rowRte, Bank.zero, []⟩
  | .rted => some ⟨rowRted, Bank.zero, []⟩
  | .rts => some ⟨rowRts, Bank.zero, []⟩
  | .rtsd => some ⟨rowRtsd, Bank.zero, []⟩
  | .rtstk => some ⟨rowRtstk, Bank.zero, []⟩
  | .rtstkd => some ⟨rowRtstkd, Bank.zero, []⟩
  | .trap => some ⟨rowTrap, Bank.zero, []⟩
  | .break_ d => some ⟨rowBreak_, Bank.zero, [d.toNat]⟩
  | .skipls d => some ⟨rowSkipls, Bank.zero, [d.toNat]⟩
  | .contd d => some ⟨rowContd, Bank.zero, [d.toNat]⟩
  | .cont d => some ⟨rowCont, Bank.zero, [d.toNat]⟩
  | .dosetup l d => some ⟨rowDosetup, Bank.zero, [l.val, d.toNat]⟩
  | .doen l (.u6 u) => some ⟨rowDoenU6, Bank.zero, [l.val, u.toNat]⟩
  | .doen l (.u16 u) => some ⟨rowDoenU16, Bank.zero, [l.val, u.toNat]⟩
  | .doen l (.reg dr) => some ⟨rowDoenReg, { Bank.zero with lo := drHigh dr }, [l.val, drCode dr]⟩
  | .doensh l (.u6 u) => some ⟨rowDoenshU6, Bank.zero, [l.val, u.toNat]⟩
  | .doensh l (.u16 u) => some ⟨rowDoenshU16, Bank.zero, [l.val, u.toNat]⟩
  | .doensh l (.reg dr) => some ⟨rowDoenshReg, { Bank.zero with lo := drHigh dr }, [l.val, drCode dr]⟩
  | .debug => some ⟨rowDebug, Bank.zero, []⟩
  | .debugev => some ⟨rowDebugev, Bank.zero, []⟩
  | .di => some ⟨rowDi, Bank.zero, []⟩
  | .ei => some ⟨rowEi, Bank.zero, []⟩
  | .illegal c => some ⟨rowIllegal, Bank.zero, [c.val]⟩
  | .mark => some ⟨rowMark, Bank.zero, []⟩
  | .stop => some ⟨rowStop, Bank.zero, []⟩
  | .wait => some ⟨rowWait, Bank.zero, []⟩
  | .movebLoad _ _ => none
  | .movebStore _ _ => none
  | .movefLoad _ _ => none
  | .movefStore _ _ => none
  | .movel _ _ _ => none
  | .movelC4Mem _ _ _ => none
  | .movew _ _ _ => none
  | .movewC4Mem _ _ _ => none
  | .movesf _ _ => none
  | .moveub _ _ => none
  | .moveuwC4 _ _ => none
  | .moveuw _ _ => none
  | .asl _ _ => none
  | .clr _ _ => none
  | .inc _ => none
  | .deca _ => none
  | .inca _ => none
  | .andDr _ _ _ => none
  | .andMem _ _ => none
  | .eorDr _ _ _ => none
  | .eorMem _ _ => none
  | .notDr _ _ => none
  | .notMem _ => none
  | .orDr _ _ _ => none
  | .orMem _ _ => none
  | .nop => none
  | .prefix1 _ _ _ _ => none
  | .prefix2 _ _ _ _ _ => none
  | .ifa _ => none
  | .iff _ => none
  | .ift _ => none
  | .lpmarka _ => none
  | .lpmarkb _ => none

/-- The words of a prefix instruction (R153, R154). -/
def prefixWords : Instr → Option (List Nat)
  | .nop => some [0x90C0]
  | .ifa aaa => some [0x90C0 + aaa.toNat * 2 ^ 9]
  | .ift aaa => some [0x90C0 + aaa.toNat * 2 ^ 9 + 2]
  | .iff aaa => some [0x90C0 + aaa.toNat * 2 ^ 9 + 3]
  | .lpmarka aaa => some [0x90C0 + aaa.toNat * 2 ^ 9 + 8]
  | .lpmarkb aaa => some [0x90C0 + aaa.toNat * 2 ^ 9 + 16]
  | .prefix1 aaa p j ccc => some [0x90C0 + aaa.toNat * 2 ^ 9 + p.toNat * 2 ^ 4 + j.toNat * 2 ^ 3 + ccc.toNat]
  | .prefix2 aaa hb p j ccc =>
    let h := hb.toNat
    some [0x3000 + aaa.toNat * 2 ^ 9 + (h / 2 ^ 15) * 2 ^ 7 + (h / 2 ^ 12 % 2) * 2 ^ 6 + (h / 2 ^ 14 % 2) * 2 ^ 5
            + p.toNat * 2 ^ 4 + j.toNat * 2 ^ 3 + ccc.toNat,
          0xA000 + (h / 2 ^ 8 % 16) * 2 ^ 9 + (h / 2 ^ 13 % 2) * 2 ^ 8 + h % 2 ^ 8]
  | _ => none

/-- A number cut into words, the first word lowest. -/
def cutWords (n : Nat) (v : Nat) : List Nat :=
  match n with
  | 0 => []
  | n + 1 => v % 2 ^ 16 :: cutWords n (v / 2 ^ 16)

/-- The words of an instruction: a Type 1 instruction with its `*` bit set (R152). -/
def encode (i : Instr) : List Nat :=
  match prefixWords i with
  | some ws => ws
  | none =>
    match encodingOf (coreOf i) with
    | some e => cutWords e.row.words (e.row.pack e.vals)
    | none => []

/-- The bank bits that a prefix must give an instruction (R156). -/
def bankOf (i : Instr) : Bank :=
  match encodingOf (coreOf i) with
  | some e => e.bank
  | none => Bank.zero

end Sys2Proof
end

