-- ==== Sys2Proof/Machine/State.lean ====
section
/-! DEFINITION. The state of the SC140 (spec/10_state.md R20, R52 to R54; spec/49_eonce_debug.md R701): plain data, every
register with a value. -/

namespace Sys2Proof.Machine

/-- Why the machine stops. -/
inductive Fault where
  /-- Raised by BREAK, CONT, CONTD and SKIPLS when no loop flag is set: "If no loops are enabled, this instruction is undefined"
  (R451, R452, R457; U12).  Safe: the hardware's behaviour there is not stated. -/
  | noActiveLoop
  deriving DecidableEq, Repr

/-- Why an instruction has no meaning here. -/
inductive Refusal where
  /-- Raised by an arm of `exec` for an instruction that has no meaning yet.  Safe. -/
  | notModelled (mnemonic : String)
  /-- Raised by a data access whose address is not a multiple of its width: "Misaligned memory accesses are undefined"
  (R110, U14).  Safe: the hardware goes on with a result that the spec does not state. -/
  | misalignedAccess
  /-- Raised by CMPEQA, CMPGTA and CMPHIA of a register with itself: "a register cannot be compared to itself" (R328 to R330,
  U3).  Safe. -/
  | selfCompare
  deriving DecidableEq, Repr

/-- The outcome of a meaning. -/
abbrev Res (σ : Type) := Host.Outcome σ Fault Refusal

/-- Memory: (address, byte) pairs in one canonical form (R100; `Memory.wf` in Ops). -/
abbrev Memory := List Host.Cell

/-- The processing state (R54, R560). -/
inductive Proc where
  | execution | debug | reset | wait | stop
  deriving DecidableEq, Repr

/-- What happens at the end of the next set: the end of a delay slot (R421, R440 to R445). -/
inductive Delay where
  /-- no delay slot -/
  | none
  /-- the delay slot of a branch that is not taken -/
  | fallthrough
  /-- then control goes to `target` -/
  | jump (target : Word)
  /-- then the return address and SR are pushed and control goes to `target` (R422) -/
  | call (target : Word)
  /-- then control goes to `target`, the return address of RTSD or RTSTKD; `frame` is the stack frame it came from, SP - 8 at the
  beginning of the set (R113) -/
  | sub (target frame : Word)
  /-- then SR is restored, NMID cleared, and control goes to `target` (RTED, D30); `frame` as in `sub` -/
  | ret (target sr frame : Word)
  deriving DecidableEq, Repr

/-- A loop jump decided at a mark: it happens at the end of the `left`-th set from the marked one, the marked one being the first
(R652). -/
structure LoopJump where
  left : Nat
  target : Word
  deriving DecidableEq, Repr

/-- One data access, as the EOnCE and the rules on two accesses of one set see it (R105, R113, R727, R728). -/
structure Access where
  addr : Word
  /-- bytes of the bus access -/
  width : Nat
  write : Bool
  /-- bytes of each element -/
  esize : Nat
  /-- the elements, the one at the lowest address first -/
  data : List Word
  /-- the address was pre-calculated (R113, rule A.6) -/
  pre : Bool
  /-- the AGU unit that made the access: false is unit 0 (R158) -/
  unit : Bool
  deriving DecidableEq, Repr

/-- Which type of event PC_EXCP holds (R712). -/
inductive ExcpType where
  | none | illegal | overflow
  deriving DecidableEq, Repr

/-- The interrupt inputs of the core (R510). -/
structure Inputs where
  /-- IREQ -/
  ireq : Bool
  /-- IPL -/
  ipl : BitVec 3
  /-- NMI_REQ -/
  nmiReq : Bool
  /-- AUTO_VEC -/
  autoVec : Bool
  /-- INTERRUPT OFFSET: bits 11:6 of the vector address -/
  offset : BitVec 6
  deriving DecidableEq, Repr

/-- What the outside does to the core between two sets (R4, R705; D1). -/
inductive HostEvent where
  /-- RESET_B goes low (`true`) or high (R600) -/
  | reset (asserted : Bool)
  /-- new levels of the interrupt inputs (R510, D52) -/
  | inputs (x : Inputs)
  /-- wake_from_stop (R563) -/
  | wakeFromStop
  /-- another bus master writes a byte (R4) -/
  | memWrite (a : Word) (v : Byte)
  /-- levels of the pins EE0..EE5 (bits 5:0) and EED (bit 6) (R714) -/
  | eePins (x : BitVec 7)
  /-- a count input EC0 or EC1 (R731) -/
  | ecPulse (i : Fin 2)
  /-- an event of the optional channel EDCA6 or EDCA7 (R725) -/
  | extEdca (i : Fin 2)
  /-- the system debug request input (R705) -/
  | sysDebug
  /-- JTAG ENABLE_EONCE (R704, R705) -/
  | jtagEnable
  /-- JTAG DEBUG_REQUEST (R704, R720) -/
  | jtagDebugRequest
  /-- a JTAG write of an EOnCE register (R706); `go` and `ex` are the GO and EX bits -/
  | jtagWrite (reg : BitVec 7) (v : BitVec 64) (go ex : Bool)
  /-- a JTAG read of an EOnCE register (R706) -/
  | jtagRead (reg : BitVec 7) (go ex : Bool)
  /-- CORE_CMD with one instruction: its words and its prefix bits H and h (R708) -/
  | coreCommand (words : List Word16) (hi lo : Bool) (ex : Bool)
  deriving DecidableEq, Repr

/-- CORE_CMD (R708): the words of one instruction and its prefix bits H and h. -/
structure CoreCmd where
  words : List Word16
  hi : Bool
  lo : Bool
  deriving DecidableEq, Repr

/-- The EOnCE (R701 to R750). -/
structure Eonce where
  /-- eonce_enabled (R705) -/
  enabled : Bool
  /-- ESR but for CORES and SCID, which are computed on a read (R709) -/
  esr : Word
  emcr : Word
  ercv : BitVec 64
  etrsmt : BitVec 64
  eeCtrl : BitVec 16
  /-- levels of the EE input pins, EED in bit 6 (R714) -/
  eeIn : BitVec 7
  /-- levels of the EE output pins (R714) -/
  eeOut : BitVec 7
  pcExcp : Word
  excpType : ExcpType
  pcNext : Word
  pcLast : Word
  pcDetect : Word
  /-- PC_DETECT has sampled and the core has not left debug state since (R713) -/
  pcDetectHeld : Bool
  /-- a request for debug state is pending (R565 step 4) -/
  dbgReq : Bool
  edcaCtrl : Vector (BitVec 16) 6
  /-- the channels that were enabled before the last set began, so that they detect its PC (R726) -/
  edcaLive : BitVec 6
  edcaRefA : Vector Word 6
  edcaRefB : Vector Word 6
  edcaMask : Vector Word 6
  edcdCtrl : BitVec 16
  edcdRef : Word
  edcdMask : Word
  ecntCtrl : BitVec 16
  ecntVal : Word
  ecntExt : Word
  eselCtrl : BitVec 8
  eselDm : BitVec 16
  eselDi : BitVec 16
  eselEtb : BitVec 16
  eselDtb : BitVec 16
  tbCtrl : BitVec 16
  /-- the read position of the trace buffer (R742: the register reads three ahead of it) -/
  tbRd : BitVec 16
  tbWr : BitVec 16
  /-- the trace buffer, entry 0 first; entries past the end of the list read 0 -/
  tb : List Word
  /-- the off-core interrupt request of EMCR.PICINT (R710); it stays until reset (log 63) -/
  picint : Bool
  /-- ECR, the last JTAG command (R706) -/
  ecr : BitVec 16
  coreCmd : CoreCmd
  /-- events that the event selector has not yet seen (R721): EDCA0..5 in bits 5:0, external EDCA6/7 in bits 7:6, EDCD in bit 8, counter in bit 9, DEBUGEV in bit 10,
  EE0..EE5 in bits 16:11, EED in bit 17 -/
  evs : BitVec 18
  deriving DecidableEq, Repr

/-- The state of the core and its memory. -/
structure State where
  /-- D0..D15 (R21) -/
  d : Vector DWord 16
  /-- the limit tags L15..L0 (R22) -/
  l : BitVec 16
  /-- R0..R15; R8..R15 are B0..B7 (R23, R24) -/
  r : Vector Word 16
  /-- N0..N3 (R25) -/
  n : Vector Word 4
  /-- M0..M3 (R26) -/
  m : Vector Word 4
  mctl : Word
  nsp : Word
  esp : Word
  /-- the address of the set being executed (R32, R33) -/
  pc : Word
  /-- the address of the next set to execute (R10); the model's own -/
  npc : Word
  sr : Word
  emr : Word
  vba : Word
  sa : Vector Word 4
  lc : Vector Word 4
  mem : Memory
  proc : Proc
  /-- RAS and its valid bit (R52(a), R660) -/
  ras : Word
  rasValid : Bool
  /-- the valid bits of the shadow stack pointers of NSP and ESP (R52(b), R544) -/
  nspShadow : Bool
  espShadow : Bool
  /-- pending internal exception requests (R506) -/
  reqIllegal : Bool
  reqOverflow : Bool
  reqDebug : Bool
  /-- set ends to come before an exception can be taken (R530 (b)) -/
  window : Nat
  delay : Delay
  loopJump : Option LoopJump
  /-- sets in which an LPMARKA or an LPMARKB is ignored, the one being executed included (R481, R652) -/
  ignoreA : Nat
  ignoreB : Nat
  inputs : Inputs
  events : List HostEvent
  eonce : Eonce
  params : Params
  /-- the address of the last set executed, which a trace of an interrupt shows (R740; reset value by log 70) -/
  lastPc : Word
  /-- has a change of flow of the set being executed written the address of the next one? the model's own (log 6) -/
  flowed : Bool
  /-- the ccc field of the set being executed (R155); the model's own -/
  ifc : BitVec 3
  /-- the data accesses of the set being executed; the model's own -/
  acc : List Access
  /-- the sticky bits of EMR that events of this set set, which no clear of the same set undoes (D33); the model's own -/
  emrEv : Word
  /-- the counter that free values are drawn from (log 7); the model's own -/
  fresh : Nat
  deriving DecidableEq, Repr

/-- The interrupt inputs at reset: nothing requested (log 4). -/
def Inputs.none : Inputs := { ireq := false, ipl := 0#3, nmiReq := false, autoVec := false, offset := 0#6 }

/-- The EOnCE after reset (R703); the EE outputs start from 0 (log 75; DESIGN CHOICE). -/
def Eonce.reset : Eonce :=
  { enabled := false, esr := 0#32, emcr := 0#32, ercv := 0#64, etrsmt := 0#64, eeCtrl := 0x87FF#16
    eeIn := 0#7, eeOut := 0#7, pcExcp := 0#32, excpType := .none, pcNext := 0#32, pcLast := 0#32
    pcDetect := 0#32, pcDetectHeld := false, dbgReq := false
    edcaCtrl := #v[0, 0, 0, 0, 0, 0], edcaLive := 0#6, edcaRefA := #v[0, 0, 0, 0, 0, 0], edcaRefB := #v[0, 0, 0, 0, 0, 0]
    edcaMask := #v[0xFFFFFFFF, 0xFFFFFFFF, 0xFFFFFFFF, 0xFFFFFFFF, 0xFFFFFFFF, 0xFFFFFFFF]
    edcdCtrl := 0#16, edcdRef := 0#32, edcdMask := 0xFFFFFFFF#32
    ecntCtrl := 0#16, ecntVal := 0#32, ecntExt := 0#32, eselCtrl := 0#8, eselDm := 0#16, eselDi := 0#16
    eselEtb := 0#16, eselDtb := 0#16, tbCtrl := 0#16, tbRd := 0#16, tbWr := 0#16, tb := [], picint := false
    ecr := 0#16, coreCmd := ⟨[], false, false⟩, evs := 0#18 }

/-- EMR after reset (R53): the pins of BEM and GP, every other bit 0. -/
def emrReset (p : Params) : Word :=
  (BitVec.setWidth 32 p.emrGp <<< 17) ||| (if p.bigEndian then 0x00010000#32 else 0#32)

/-- The machine right after reset (R53, R603) with parameters `p`: SR, EMR, VBA, MCTL and PC as R53 says; the registers to which
the spec gives no reset value are zero (log 1). -/
def State.resetWith (p : Params) : State :=
  { d := Vector.replicate 16 0#40, l := 0#16, r := Vector.replicate 16 0#32
    n := Vector.replicate 4 0#32, m := Vector.replicate 4 0#32
    mctl := 0#32, nsp := 0#32, esp := 0#32, pc := p.resetPc &&& pcMask, npc := p.resetPc &&& pcMask
    sr := 0x00E40000#32, emr := emrReset p, vba := p.vbaReset &&& vbaMask
    sa := Vector.replicate 4 0#32, lc := Vector.replicate 4 0#32, mem := []
    proc := .execution, ras := 0#32, rasValid := false, nspShadow := false, espShadow := false
    reqIllegal := false, reqOverflow := false, reqDebug := false
    window := 0, delay := .none, loopJump := none, ignoreA := 0, ignoreB := 0
    inputs := Inputs.none, events := [], eonce := Eonce.reset, params := p
    lastPc := 0#32, flowed := false, ifc := 0#3, acc := [], emrEv := 0#32, fresh := 0 }

/-- The machine right after reset, with the parameters of log 2. -/
def State.reset : State := State.resetWith Params.default

end Sys2Proof.Machine
end

