-- ==== Sys2Proof/Machine/EonceRegs.lean ====
section
/-! DEFINITION. The EOnCE registers as software sees them (spec/49_eonce_debug.md R701 to R703, R709 to R714, R742). -/

namespace Sys2Proof.Machine

/-- A free value of width `w` (log 7). -/
def free (w : Nat) (s : State) (tag : Nat) : BitVec w := (Config.freeBits s.fresh tag).setWidth w

/-- A change of flow may not be injected now: after a delayed change of flow, at the end of a long loop (its last iteration too, where
a mark is still to be ignored), in a short loop, which is as long as SLF is set: from DOENSH on, and no more once the mark of the last
iteration has cleared it (NOCHOF, R709; log 11, DESIGN CHOICE).  It is computed at each read, so that it follows what an injected
instruction does to SLF (log 11; DESIGN CHOICE). -/
def noChof (s : State) : Bool := s.delay != .none || s.loopJump != none || s.ignoreA != 0 || s.sr.getLsbD 31

/-- ESR as read: CORES from the processing state, NOCHOF in debug state, REVNO and CORETP from the straps (R709, R750). -/
def esrValue (s : State) : Word :=
  let cores : Word := match s.proc with
    | .execution => 0#32
    | .reset => 0#32
    | .wait => 0x40000000#32
    | .stop => 0x40000000#32
    | .debug => 0xC0000000#32
  (s.eonce.esr &&& 0x1E01FFFF#32) ||| (if s.proc = .debug ∧ noChof s then 0x01000000#32 else 0#32) ||| ((BitVec.setWidth 32 s.params.scid <<< 17) &&& 0x00EE0000#32) ||| cores

/-- The offset of an address inside the EOnCE window of 128 registers, if it is inside (R701). -/
def eonceOffset (s : State) (a : Word) : Option Nat :=
  let off := (a - s.params.eonceBase).toNat
  if off < 0x200 then some off else none

/-- What TB_RD reads as: three entries ahead of the read position, in the circle of the TB_SIZE entries (R742, log 20). -/
def tbAhead (s : State) : BitVec 16 :=
  let x := s.eonce.tbRd.toNat + 3
  BitVec.ofNat 16 (if s.params.tbSize = 0 then x else x % s.params.tbSize)

/-- A readable register: its value and its width, from the EOnCE's own side; the extra effects of a read are `eonceReadEffect`.
`none` is a register that is not there or cannot be read (R701, R702). -/
def eonceReg (s : State) (k : Nat) : Option (Word × Nat) :=
  let e := s.eonce
  let n16 (x : BitVec 16) : Option (Word × Nat) := some (x.setWidth 32, 16)
  let n32 (x : Word) : Option (Word × Nat) := some (x, 32)
  if k = 0x00 then n32 (esrValue s)
  else if k = 0x01 then n32 e.emcr
  else if k = 0x02 then n32 (e.ercv.setWidth 32)
  else if k = 0x03 then n32 ((e.ercv >>> 32).setWidth 32)
  else if k = 0x06 then n16 e.eeCtrl
  else if k = 0x07 then n32 e.pcExcp
  else if k = 0x0A then (if s.proc = .debug then n32 e.pcDetect else none)
  else if h : 0x10 ≤ k ∧ k < 0x16 then n16 (e.edcaCtrl.get ⟨k - 0x10, by omega⟩)
  else if h : 0x18 ≤ k ∧ k < 0x1E then n32 (e.edcaRefA.get ⟨k - 0x18, by omega⟩)
  else if h : 0x20 ≤ k ∧ k < 0x26 then n32 (e.edcaRefB.get ⟨k - 0x20, by omega⟩)
  else if h : 0x30 ≤ k ∧ k < 0x36 then n32 (e.edcaMask.get ⟨k - 0x30, by omega⟩)
  else if k = 0x38 then n16 e.edcdCtrl
  else if k = 0x39 then n32 e.edcdRef
  else if k = 0x3A then n32 e.edcdMask
  else if k = 0x40 then n16 e.ecntCtrl
  else if k = 0x41 then n32 e.ecntVal
  else if k = 0x42 then n32 e.ecntExt
  else if k = 0x48 then some (e.eselCtrl.setWidth 32, 8)
  else if k = 0x49 then n16 e.eselDm
  else if k = 0x4A then n16 e.eselDi
  else if k = 0x4C then n16 e.eselEtb
  else if k = 0x4D then n16 e.eselDtb
  else if k = 0x50 then n16 e.tbCtrl
  else if k = 0x51 then n16 (tbAhead s)
  else if k = 0x52 then n16 e.tbWr
  else if k = 0x53 then (if e.emcr.getLsbD 17 then none else n32 ((e.tb[e.tbRd.toNat]?).getD 0#32))
  else none

/-- The read position of the trace buffer moves on by one entry (R742). -/
def tbAdvance (s : State) : State :=
  { s with eonce := { s.eonce with tbRd := if s.eonce.tbRd.toNat + 1 < s.params.tbSize then s.eonce.tbRd + 1#16 else 0#16 } }

/-- What reading a register does besides: RCV is cleared by the high half of ERCV (R711), the trace read position advances with
TB_BUFF unless SWDIS denies the read (R702, R742). -/
def eonceReadEffect (s : State) (k : Nat) : State :=
  if k = 0x03 then { s with eonce := { s.eonce with esr := s.eonce.esr &&& ~~~0x08000000#32 } }
  else if k = 0x53 ∧ s.eonce.emcr.getLsbD 17 = false then tbAdvance s
  else s

/-- Registers that 16-bit accesses reach (R702). -/
def eonceHalf (k : Nat) : Bool :=
  [0x00, 0x01, 0x06, 0x10, 0x11, 0x12, 0x13, 0x14, 0x15, 0x38, 0x40, 0x48, 0x50].contains k

/-- A 32-bit software read at an offset of the window: the bits above a narrow register, a register that is not there and an
offset inside a register give a free value (R702, U22). -/
def eonceRead32 (s : State) (off : Nat) (tag : Nat) : Word × State :=
  if off % 4 ≠ 0 then (free 32 s tag, s)
  else
    match eonceReg s (off / 4) with
    | none => (free 32 s tag, s)
    | some (v, w) => (v ||| (free 32 s tag <<< w), eonceReadEffect s (off / 4))

/-- A 16-bit software read: the control registers, and the high half of ESR and EMCR at their offset + 2 (R702). -/
def eonceRead16 (s : State) (off : Nat) (tag : Nat) : Word16 × State :=
  let k := off / 4
  match eonceReg s k with
  | none => (free 16 s tag, s)
  | some (v, w) =>
    if eonceHalf k ∧ off % 4 = 0 then (v.setWidth 16, s)
    else if off % 4 = 2 ∧ w = 32 ∧ eonceHalf k then ((v >>> 16).setWidth 16, s)
    else (free 16 s tag, s)

/-- The trace buffer is enabled: pointers and the full flag are cleared (R740, R741). -/
def tbEnable (e : Eonce) : Eonce :=
  { e with tbRd := 0#16, tbWr := 0#16, esr := e.esr &&& ~~~0x02000000#32 }

/-- Writing EMCR: bits 25:16 as written, the sticky bits 15 and 8:0 `old & written`; DIS going to 0 clears the debug reasons
(R709, R710).  IME is stored at once, whatever debug requests are enabled (log 69, DESIGN CHOICE). -/
def writeEmcr (e : Eonce) (v : Word) : Eonce :=
  let new := (v &&& 0x03FF0000#32) ||| (e.emcr &&& v &&& 0x000081FF#32)
  { e with
    emcr := new
    esr := if e.emcr.getLsbD 15 && !new.getLsbD 15 then e.esr &&& ~~~0x0001FFFF#32 else e.esr }

/-- Is a channel enabled (EDCAEN, R726)? -/
def edcaOn (c : BitVec 16) : Bool := let k := (c.toNat >>> 10) % 16; k == 15 || k == 12

/-- The live channels when channel i's control register becomes `c`: one that is turned off is live no more (R726). -/
def edcaKeep (live : BitVec 6) (i : Nat) (c : BitVec 16) : BitVec 6 := if edcaOn c then live else live &&& ~~~(1#6 <<< i)

/-- What a write leaves in EDCAi_CTRL: the code 1100 comes only from the pin, and a write of it keeps EDCAEN (R726, log 68). -/
def edcaWritten (old h : BitVec 16) : BitVec 16 :=
  if (h.toNat >>> 10) % 16 = 12 then (h &&& 0x03FF#16) ||| (old &&& 0x3C00#16) else h &&& 0x3FFF#16

/-- What a write leaves in EDCD_CTRL: the code 1011 comes only from the pin, and a write of it keeps EDCDEN (R728, log 68). -/
def edcdWritten (old h : BitVec 16) : BitVec 16 :=
  if (h.toNat >>> 3) % 16 = 11 then (h &&& 0x0307#16) ||| (old &&& 0x0078#16) else h &&& 0x037F#16

/-- Writing a register (R701; reserved bits are not written, U25).  The mode bits of TB_CTRL are stored whether TEN is set or not, and
TEN can be set again at once (R741; log 69, DESIGN CHOICE).  TEST of ECNT_CTRL is stored and changes nothing (R731; log 21, DESIGN
CHOICE). -/
def eonceSet (e : Eonce) (k : Nat) (v : Word) : Eonce :=
  let h : BitVec 16 := v.setWidth 16
  if k = 0x01 then writeEmcr e v
  else if k = 0x04 then { e with etrsmt := (e.etrsmt &&& 0xFFFFFFFF00000000#64) ||| v.setWidth 64 }
  else if k = 0x05 then
    { e with etrsmt := (e.etrsmt &&& 0xFFFFFFFF#64) ||| (v.setWidth 64 <<< 32), esr := e.esr ||| 0x04000000#32 }
  else if k = 0x06 then { e with eeCtrl := h &&& 0x87FF#16 }
  else if p : 0x10 ≤ k ∧ k < 0x16 then
    let c := edcaWritten (e.edcaCtrl.get ⟨k - 0x10, by omega⟩) h
    { e with edcaCtrl := e.edcaCtrl.set (k - 0x10) c (by omega), edcaLive := edcaKeep e.edcaLive (k - 0x10) c }
  else if p : 0x18 ≤ k ∧ k < 0x1E then { e with edcaRefA := e.edcaRefA.set (k - 0x18) v (by omega) }
  else if p : 0x20 ≤ k ∧ k < 0x26 then { e with edcaRefB := e.edcaRefB.set (k - 0x20) v (by omega) }
  else if p : 0x30 ≤ k ∧ k < 0x36 then { e with edcaMask := e.edcaMask.set (k - 0x30) v (by omega) }
  else if k = 0x38 then { e with edcdCtrl := edcdWritten e.edcdCtrl h }
  else if k = 0x39 then { e with edcdRef := v }
  else if k = 0x3A then { e with edcdMask := v }
  else if k = 0x40 then { e with ecntCtrl := h &&& 0x03FF#16 }
  else if k = 0x41 then { e with ecntVal := v &&& 0x7FFFFFFF#32 }
  else if k = 0x42 then { e with ecntExt := v &&& 0x7FFFFFFF#32 }
  else if k = 0x48 then { e with eselCtrl := v.setWidth 8 &&& 0x1B#8 }
  else if k = 0x49 then { e with eselDm := h }
  else if k = 0x4A then { e with eselDi := h }
  else if k = 0x4C then { e with eselEtb := h }
  else if k = 0x4D then { e with eselDtb := h }
  else if k = 0x50 then
    let e' := { e with tbCtrl := h &&& 0x00FF#16 }
    if h.getLsbD 4 && !e.tbCtrl.getLsbD 4 then tbEnable e' else e'
  else if k = 0x51 then { e with tbRd := h }
  else if k = 0x52 then { e with tbWr := h }
  else e

/-- The registers that software can write (R701, R702). -/
def eonceWritable (k : Nat) : Bool :=
  k == 0x01 || (0x04 ≤ k && k ≤ 0x06) || (0x10 ≤ k && k < 0x16) || (0x18 ≤ k && k < 0x1E) || (0x20 ≤ k && k < 0x26)
    || (0x30 ≤ k && k < 0x36) || (0x38 ≤ k && k ≤ 0x3A) || (0x40 ≤ k && k ≤ 0x42) || (0x48 ≤ k && k ≤ 0x4A)
    || k == 0x4C || k == 0x4D || (0x50 ≤ k && k ≤ 0x52)

/-- Does a register take a software write?  With SWDIS set only ETRSMT does (R702). -/
def eonceWrites (e : Eonce) (k : Nat) : Bool := eonceWritable k && (!e.emcr.getLsbD 17 || k == 0x04 || k == 0x05)

/-- A software write of a register: it enables the EOnCE (R705).  A register that is not there, cannot be written or is kept by SWDIS
takes nothing (R702); such a write enables nothing either (log 66). -/
def eonceWrite (s : State) (k : Nat) (v : Word) : State :=
  if eonceWrites s.eonce k then { s with eonce := eonceSet { s.eonce with enabled := true } k v } else s

/-- A 32-bit software write at an offset of the window. -/
def eonceWrite32 (s : State) (off : Nat) (v : Word) : State :=
  if off % 4 = 0 then eonceWrite s (off / 4) v else s

/-- A 16-bit software write: the other half of ESR or EMCR keeps its value, and the sticky half of EMCR is written with ones,
which change nothing (R702, R710).  A register that 16-bit accesses do not reach is not written. -/
def eonceWrite16 (s : State) (off : Nat) (v : Word16) : State :=
  let k := off / 4
  if eonceHalf k = false then s
  else if off % 4 = 0 then
    (if k = 0x01 then eonceWrite s k ((s.eonce.emcr &&& 0xFFFF0000#32) ||| v.setWidth 32)
     else eonceWrite s k (v.setWidth 32))
  else if off % 4 = 2 ∧ k = 0x01 then eonceWrite s k ((v.setWidth 32 <<< 16) ||| 0x0000FFFF#32)
  else s

end Sys2Proof.Machine
end

