-- ==== Sys2Proof/Machine/Ops.lean ====
section
/-! DEFINITION. The named operations over memory, registers, addresses and exceptions that the meanings are written in
(spec/20_memory.md, spec/10_state.md, spec/60_exceptions.md). -/

namespace Sys2Proof.Machine

/-! ### Memory (R100) -/

/-- The byte at an address: the listed one, or what an unlisted address reads as. -/
def Memory.byte (m : Memory) (a : Nat) : Byte :=
  match m with
  | [] => Config.blankByte
  | c :: rest => if c.1 = a then c.2 else Memory.byte rest a

/-- Write one byte, keeping addresses strictly rising and listing no byte that an unlisted address reads as. -/
def Memory.put (m : Memory) (a : Nat) (v : Byte) : Memory :=
  match m with
  | [] => if v = Config.blankByte then [] else [(a, v)]
  | c :: rest =>
    if a < c.1 then (if v = Config.blankByte then c :: rest else (a, v) :: c :: rest)
    else if c.1 = a then (if v = Config.blankByte then rest else (a, v) :: rest)
    else c :: Memory.put rest a v

/-- The canonical form, every address at least `lo`. -/
def Memory.wfFrom (lo : Nat) (m : Memory) : Bool :=
  match m with
  | [] => true
  | c :: rest => decide (lo ≤ c.1) && decide (c.1 < 2 ^ 32) && c.2 != Config.blankByte && Memory.wfFrom (c.1 + 1) rest

/-- The canonical form of memory: addresses strictly rising and inside the address space, no entry equal to a blank byte. -/
def Memory.wf (m : Memory) : Bool := Memory.wfFrom 0 m

/-- The byte at a 32-bit address. -/
def byteAt (s : State) (a : Word) : Byte := s.mem.byte a.toNat

/-- EMR.BEM: big-endian data (R46, R104). -/
def bigEndian (s : State) : Bool := s.emr.getLsbD 16

/-- The 16-bit value at an address in the mode's byte order (R104). -/
def mem16 (s : State) (a : Word) : Word16 :=
  if bigEndian s then byteAt s a ++ byteAt s (a + 1) else byteAt s (a + 1) ++ byteAt s a

/-- The 32-bit value at an address in the mode's byte order (R104). -/
def mem32 (s : State) (a : Word) : Word :=
  if bigEndian s then byteAt s a ++ byteAt s (a + 1) ++ byteAt s (a + 2) ++ byteAt s (a + 3)
  else byteAt s (a + 3) ++ byteAt s (a + 2) ++ byteAt s (a + 1) ++ byteAt s a

/-- Store one byte. -/
def putByte (s : State) (a : Word) (v : Byte) : State := { s with mem := s.mem.put a.toNat v }

/-- Store a 16-bit value in the mode's byte order (R104). -/
def put16 (s : State) (a : Word) (v : Word16) : State :=
  let lo : Byte := v.setWidth 8
  let hi : Byte := (v >>> 8).setWidth 8
  if bigEndian s then putByte (putByte s a hi) (a + 1) lo else putByte (putByte s a lo) (a + 1) hi

/-- Store a 32-bit value in the mode's byte order (R104). -/
def put32 (s : State) (a : Word) (v : Word) : State :=
  let b (i : Nat) : Byte := (v >>> (8 * i)).setWidth 8
  if bigEndian s then putByte (putByte (putByte (putByte s a (b 3)) (a + 1) (b 2)) (a + 2) (b 1)) (a + 3) (b 0)
  else putByte (putByte (putByte (putByte s a (b 0)) (a + 1) (b 1)) (a + 2) (b 2)) (a + 3) (b 3)

/-! ### Data accesses: memory, or an EOnCE register where one is mapped (R701) -/

/-- Load a byte; the EOnCE window gives no byte accesses (R702). -/
def load8 (s : State) (a : Word) (tag : Nat) : Byte × State :=
  match eonceOffset s a with
  | none => (byteAt s a, s)
  | some _ => (free 8 s tag, s)

/-- Load a word. -/
def load16 (s : State) (a : Word) (tag : Nat) : Word16 × State :=
  match eonceOffset s a with
  | none => (mem16 s a, s)
  | some off => eonceRead16 s off tag

/-- Load a long. -/
def load32 (s : State) (a : Word) (tag : Nat) : Word × State :=
  match eonceOffset s a with
  | none => (mem32 s a, s)
  | some off => eonceRead32 s off tag

/-- Store a byte; the EOnCE window takes no byte accesses (R702). -/
def store8 (s : State) (a : Word) (v : Byte) : State :=
  match eonceOffset s a with
  | none => putByte s a v
  | some _ => s

/-- Store a word. -/
def store16 (s : State) (a : Word) (v : Word16) : State :=
  match eonceOffset s a with
  | none => put16 s a v
  | some off => eonceWrite16 s off v

/-- Store a long. -/
def store32 (s : State) (a : Word) (v : Word) : State :=
  match eonceOffset s a with
  | none => put32 s a v
  | some off => eonceWrite32 s off v

/-- The two words of a long, the one at the lower address first, in the mode's byte order (R104, R105). -/
def halves (s : State) (v : Word) : Word16 × Word16 :=
  if bigEndian s then (v.extractLsb' 16 16, v.extractLsb' 0 16) else (v.extractLsb' 0 16, v.extractLsb' 16 16)

/-- The long whose words are `x` at the lower address and `y` above it (R104, R105). -/
def joined (s : State) (x y : Word16) : Word := if bigEndian s then x ++ y else y ++ x

/-- Note a data access of the set being executed. -/
def note (s : State) (x : Access) : State := { s with acc := s.acc ++ [x] }

/-- Is an address a multiple of the access width (R110)? -/
def aligned (a : Word) (w : Nat) : Bool := a.toNat % w == 0

/-! ### Status bits -/

/-- SR bit `i`. -/
def srBit (s : State) (i : Nat) : Bool := s.sr.getLsbD i
/-- A word with bit `i` set to `b`. -/
def withBit (x : Word) (i : Nat) (b : Bool) : Word :=
  if b then x ||| (1#32 <<< i) else x &&& ~~~(1#32 <<< i)
/-- SR with bit `i` set to `b`. -/
def setSrBit (s : State) (i : Nat) (b : Bool) : State := { s with sr := withBit s.sr i b }

/-- SR.C (R45). -/
def carry (s : State) : Bool := srBit s 0
/-- SR.T (R45). -/
def tBit (s : State) : Bool := srBit s 1
/-- SR.SM (R44). -/
def satMode (s : State) : Bool := srBit s 2
/-- SR.RM (R43). -/
def roundMode (s : State) : Bool := srBit s 3
/-- SR.S1:S0 (R40). -/
def scaling (s : State) : Nat := (s.sr.toNat >>> 4) % 4
/-- SR.EXP (R41). -/
def expMode (s : State) : Bool := srBit s 18
/-- SR.DI (R41). -/
def disInt (s : State) : Bool := srBit s 19
/-- SR.OVE (R41). -/
def ovEnable (s : State) : Bool := srBit s 20
/-- SR.I2..I0 (R39). -/
def intMask (s : State) : Nat := (s.sr.toNat >>> 21) % 8
/-- SR.SLF (R37). -/
def shortLoop (s : State) : Bool := srBit s 31
/-- SR.LFn (R37). -/
def loopFlag (s : State) (n : LoopIx) : Bool := srBit s (27 + n.val)

/-- Write T (R206). -/
def setT (s : State) (b : Bool) : State := setSrBit s 1 b
/-- Write C (R205). -/
def setC (s : State) (b : Bool) : State := setSrBit s 0 b

/-- Write the whole of SR (R49, D31). -/
def writeSr (s : State) (v : Word) : State := { s with sr := v &&& srMask }
/-- Write EMR: a 1 clears a sticky bit; nothing else changes (R47, D32). -/
def writeEmr (s : State) (v : Word) : State := { s with emr := s.emr &&& ~~~(v &&& 0xF#32) }
/-- Write VBA (R48). -/
def writeVba (s : State) (v : Word) : State := { s with vba := v &&& vbaMask }
/-- Write MCTL (R48). -/
def writeMctl (s : State) (v : Word) : State := { s with mctl := v }

/-! ### Registers -/

/-- D[n]. -/
def dreg (s : State) (n : DReg) : DWord := s.d.get n
/-- L[n]. -/
def ltag (s : State) (n : DReg) : Bool := s.l.getLsbD n.val
/-- The limit tags with L[n] set to `b`. -/
def setTag (l : BitVec 16) (n : DReg) (b : Bool) : BitVec 16 :=
  if b then l ||| (1#16 <<< n.val) else l &&& ~~~(1#16 <<< n.val)
/-- Write D[n] and L[n]. -/
def setD (s : State) (n : DReg) (v : DWord) (b : Bool) : State :=
  { s with d := s.d.set n.val v n.isLt, l := setTag s.l n b }
/-- R[n] (R23, R24). -/
def rreg (s : State) (n : RReg) : Word := s.r.get n
/-- Write R[n]. -/
def setR (s : State) (n : RReg) (v : Word) : State := { s with r := s.r.set n.val v n.isLt }
/-- B[k] is R[8+k] (R24). -/
def breg (k : Fin 8) : RReg := ⟨8 + k.val, by omega⟩
/-- N[k]. -/
def nreg (s : State) (k : Fin 4) : Word := s.n.get k
/-- Write N[k]. -/
def setN (s : State) (k : Fin 4) (v : Word) : State := { s with n := s.n.set k.val v k.isLt }
/-- M[k]. -/
def mreg (s : State) (k : Fin 4) : Word := s.m.get k
/-- Write M[k]. -/
def setM (s : State) (k : Fin 4) (v : Word) : State := { s with m := s.m.set k.val v k.isLt }
/-- SA[k] (R35). -/
def saReg (s : State) (k : LoopIx) : Word := s.sa.get k
/-- Write SA[k]. -/
def setSa (s : State) (k : LoopIx) (v : Word) : State := { s with sa := s.sa.set k.val v k.isLt }
/-- LC[k] (R36). -/
def lcReg (s : State) (k : LoopIx) : Word := s.lc.get k
/-- Write LC[k]. -/
def setLc (s : State) (k : LoopIx) (v : Word) : State := { s with lc := s.lc.set k.val v k.isLt }

/-- The active stack pointer (R30). -/
def spOf (s : State) : Word := if expMode s then s.esp else s.nsp
/-- Write NSP (R31). -/
def setNsp (s : State) (v : Word) : State := { s with nsp := v &&& spMask }
/-- Write ESP (R31). -/
def setEsp (s : State) (v : Word) : State := { s with esp := v &&& spMask }
/-- Write the active stack pointer (R30, R31). -/
def setSp (s : State) (v : Word) : State := if expMode s then setEsp s v else setNsp s v
/-- The stack pointer that EXP does not select (R340). -/
def ospOf (s : State) : Word := if expMode s then s.nsp else s.esp
/-- Write the other stack pointer. -/
def setOsp (s : State) (v : Word) : State := if expMode s then setNsp s v else setEsp s v
/-- An explicit write of a stack pointer invalidates RAS (R442). -/
def dropRas (s : State) : State := { s with rasValid := false }

/-- Is the shadow of the active stack pointer valid (R52(b), R544)? -/
def spShadow (s : State) : Bool := if expMode s then s.espShadow else s.nspShadow
/-- Write the valid bit of NSP's shadow. -/
def setNspShadow (s : State) (b : Bool) : State := { s with nspShadow := b }
/-- Write the valid bit of ESP's shadow. -/
def setEspShadow (s : State) (b : Bool) : State := { s with espShadow := b }
/-- Write the valid bit of the active stack pointer's shadow: set by PUSH and POP (R544), cleared by an AGU instruction that writes SP
(R690). -/
def setSpShadow (s : State) (b : Bool) : State := if expMode s then setEspShadow s b else setNspShadow s b
/-- Write the valid bit of the other stack pointer's shadow. -/
def setOspShadow (s : State) (b : Bool) : State := if expMode s then setNspShadow s b else setEspShadow s b

/-- Set the address of the next set (R10, R32). -/
def goTo (s : State) (t : Word) : State := { s with npc := t &&& pcMask }
/-- A change of flow of the set being executed: the next set is at `t` (R10, R420). -/
def jumpTo (s : State) (t : Word) : State := { goTo s t with flowed := true }

/-! ### Address arithmetic (R120 to R127) -/

/-- MCTL's field for R[i] (R27). -/
def amOf (s : State) (i : RReg) : Nat := (s.mctl.toNat >>> (4 * i.val)) % 16

/-- Addresses of an access of `w` bytes have their low bits clear. -/
def alignDown (a : Word) (w : Nat) : Word := BitVec.ofNat 32 (a.toNat / w * w)

/-- Reverse-carry addition (R125). -/
def revCarry (r o : Word) (w : Nat) : Word := alignDown ((r.reverse + o.reverse).reverse) w

/-- One wrap of the modulo buffer [b, b + m) (R126). -/
def moduloAdd (r o b m : Word) : Word :=
  let lo : Int := b.toNat
  let size : Int := m.toNat
  let t : Int := r.toNat + o.toInt
  let t' := if 0 ≤ o.toInt ∧ lo + size ≤ t then t - size else if o.toInt < 0 ∧ t < lo then t + size else t
  BitVec.ofInt 32 t'

/-- Is a modulo update defined (R126, U18): size 1..2^31-1, pointer inside the buffer, base and size multiples of the width, and
(for an offset held in a register) no offset longer than the buffer? -/
def moduloOk (r o b m : Word) (w : Nat) (regOffset : Bool) : Bool :=
  decide (1 ≤ m.toNat ∧ m.toNat < 2 ^ 31 ∧ b.toNat ≤ r.toNat ∧ r.toNat < b.toNat + m.toNat)
    && aligned b w && aligned m w && (!regOffset || decide (o.toInt.natAbs ≤ m.toNat))

/-- Multiple wrap-around (R127). -/
def wrapAdd (r o m : Word) : Word := (r &&& ~~~m) ||| ((r + o) &&& m)

/-- Is a wrap-around modulus defined (R127, U18): m = 2^k - 1 with 1 ≤ k, a multiple of the width? -/
def wrapOk (m : Word) (w : Nat) : Bool := m != 0#32 && (m + 1 &&& m) == 0#32 && decide (w ≤ m.toNat + 1)

/-- `AguAdd(i, r, o, w)` (R124): the value r of R[i] plus the offset o in R[i]'s modifier mode. A reserved mode or a misused
modulo gives a free value of the access's alignment, in an updated pointer too (U3, U18; log 14). -/
def aguAdd (s : State) (i : RReg) (r o : Word) (w : Nat) (regOffset : Bool) (tag : Nat) : Word :=
  if 8 ≤ i.val then r + o
  else
    let am := amOf s i
    let undef := alignDown (free 32 s tag) w
    if am = 0 then r + o
    else if am = 1 then revCarry r o w
    else if 12 ≤ am then
      let m := mreg s (Fin.ofNat 4 am)
      if wrapOk m w then wrapAdd r o m else undef
    else if 8 ≤ am then
      let b := rreg s (Fin.ofNat 16 (i.val + 8))
      let m := mreg s (Fin.ofNat 4 am)
      if moduloOk r o b m w regOffset then moduloAdd r o b m else undef
    else undef

/-- An offset register scaled by the access width (R122). -/
def scaled (x : Word) (w : Nat) : Word := x * BitVec.ofNat 32 w

/-- An effective address, the state with the pointer updated, and whether the address was pre-calculated (R113). -/
structure Ea where
  addr : Word
  st : State
  pre : Bool

/-- The (EA) modes (R120, R351); a free value of the update has tag 0. -/
def eaMode (s : State) (m : EaMode) (rn : RReg) (w : Nat) : Ea :=
  let r := rreg s rn
  match m with
  | .indexN0 => ⟨aguAdd s rn r (scaled (nreg s 0) w) w true 0, s, true⟩
  | .postDec => ⟨r, setR s rn (aguAdd s rn r (-(BitVec.ofNat 32 w)) w false 0), false⟩
  | .plain => ⟨r, s, false⟩
  | .postInc => ⟨r, setR s rn (aguAdd s rn r (BitVec.ofNat 32 w) w false 0), false⟩
  | .postN k => ⟨r, setR s rn (aguAdd s rn r (scaled (nreg s k) w) w true 0), false⟩

/-- The memory operand of a single-register move of `w` bytes (R351). -/
def memEa (s : State) (m : Mem) (w : Nat) : Ea :=
  match m with
  | .ea em rn => eaMode s em rn w
  | .disp rn x => ⟨aguAdd s rn (rreg s rn) (x.signExtend 32) w false 0, s, true⟩
  | .short rn u => ⟨aguAdd s rn (rreg s rn) (scaled (u.setWidth 32) w) w false 0, s, true⟩
  | .index rn rr => ⟨aguAdd s rn (rreg s rn) (scaled (rreg s (Fin.ofNat 16 rr.val)) w) w true 0, s, true⟩
  | .abs16 a => ⟨a.setWidth 32, s, false⟩
  | .abs32 a => ⟨a, s, false⟩
  | .sp x => ⟨spOf s + x.signExtend 32, s, true⟩
  | .spShort u => ⟨spOf s - scaled (u.setWidth 32) w, s, true⟩

/-- The memory operand of an extension move (R363). -/
def extEa (s : State) (m : ExtMem) : Ea :=
  match m with
  | .sp x => ⟨spOf s + x.signExtend 32, s, true⟩
  | .abs32 a => ⟨a, s, false⟩

/-- The memory operand of a bit-mask instruction (R390). -/
def bmuEa (s : State) (m : BmuMem) : Ea :=
  match m with
  | .rn n => ⟨rreg s n, s, false⟩
  | .spShort u => ⟨spOf s - scaled (u.setWidth 32) 2, s, true⟩
  | .abs16 a => ⟨a.setWidth 32, s, false⟩
  | .sp x => ⟨spOf s + x.signExtend 32, s, true⟩

/-- Go on with an access of `w` bytes at an effective address, or refuse a misaligned one (R110, U14). -/
def withEa (e : Ea) (w : Nat) (k : Ea → Res State) : Res State :=
  if aligned e.addr w then k e else .refused .misalignedAccess

/-! ### Exceptions (R500 to R545) -/

/-- Push a return address and SR as one 64-bit access at a stack pointer's value (R106, R422, R540). -/
def pushFrame (s : State) (sp ret sr : Word) : State :=
  note (store32 (store32 s sp ret) (sp + 4) sr) ⟨sp, 8, true, 4, [ret, sr], false, false⟩

/-- SR at the entry of a handler: EXP set, the mask at `lvl`, SLF, LF3..LF0, S1, S0, T and C clear (R540, R541). -/
def entrySr (sr : Word) (lvl : BitVec 3) : Word :=
  (sr &&& 0x071FFFCC#32) ||| (lvl.setWidth 32 <<< 21) ||| 0x00040000#32

/-- The address of a handler: VBA[31:12], offset[11:6], zeros (R501). -/
def vectorAddr (s : State) (off : BitVec 12) : Word := (s.vba &&& vbaMask) ||| (off.setWidth 32 &&& 0xFC0#32)

/-- Taking an exception (R532, R540): the frame goes on ESP, whichever mode was active, with SR as it was; then SR, ESP and the next
address change. -/
def takeException (s : State) (off : BitVec 12) (lvl : BitVec 3) (ret : Word) : State :=
  let s1 := pushFrame s s.esp ret s.sr
  let s2 := setEsp { s1 with sr := entrySr s.sr lvl } (s.esp + 8)
  jumpTo s2 (vectorAddr s off)

/-- The read of the frame below the active stack pointer, as the rules on two accesses see it: its address is pre-calculated unless
the shadow stack pointer is valid (R113, R544). -/
def frameRead (s : State) (p q : Word) : Access := ⟨spOf s - 8, 8, false, 4, [p, q], !spShadow s, false⟩

/-- Returning from an exception (R440, R542): PC and SR from the frame below the active stack pointer, which is decremented; NMID is
cleared. The loads have tags 0 and 1. -/
def returnFromException (s : State) : State :=
  let sp := spOf s
  let p := load32 s (sp - 8) 0
  let q := load32 p.2 (sp - 4) 1
  let t := setSp (note q.2 (frameRead s p.1 q.1)) (sp - 8)
  jumpTo (writeSr { t with emr := withBit t.emr 3 false } q.1) p.1

/-- PC_EXCP and its type at an event of set `a` (R712). -/
def sampleExcp (e : Eonce) (t : ExcpType) (a : Word) : Eonce :=
  if e.excpType = t then e else { e with pcExcp := a, excpType := t }

/-- An illegal-instruction event: ILIN and the request (R505, R507). -/
def illegalInstruction (s : State) : State :=
  { s with emr := withBit s.emr 0 true, emrEv := s.emrEv ||| 1#32, reqIllegal := true, eonce := sampleExcp s.eonce .illegal s.pc }

/-- An illegal-execution-set event: ILST and the request (R511). -/
def illegalSet (s : State) : State :=
  { s with emr := withBit s.emr 1 true, emrEv := s.emrEv ||| 2#32, reqIllegal := true, eonce := sampleExcp s.eonce .illegal s.pc }

/-- A DALU overflow event: DOVF is set; it requests the exception if OVE is set and DOVF was clear (R512). -/
def overflow (s : State) : State :=
  let asks := ovEnable s && !s.emr.getLsbD 2
  { s with
    emr := withBit s.emr 2 true
    emrEv := s.emrEv ||| 4#32
    reqOverflow := s.reqOverflow || asks
    eonce := if asks then sampleExcp s.eonce .overflow s.pc else s.eonce }

/-- An overflow event if `b`. -/
def overflowIf (b : Bool) (s : State) : State := if b then overflow s else s

end Sys2Proof.Machine
end

