-- ==== Sys2Proof/Machine/Flags.lean ====
section
/-! DEFINITION. Flag and limit-tag computation, rounding and the three ways an arithmetic result is written
(spec/40_dalu_arith.md R200 to R206; spec/41_dalu_multiply.md R260). -/

namespace Sys2Proof.Machine

/-- A free bit (log 7). -/
def freeBit (s : State) (tag : Nat) : Bool := free 1 s tag == 1#1

/-- Are the bits 39..k of a value not all equal (R201)? -/
def lnFrom (v : DWord) (k : Nat) : Bool := v.sshiftRight k != 0#40 && v.sshiftRight k != BitVec.allOnes 40

/-- `LnCalc` (R201); the reserved scaling mode 11 gives a free bit, tag 8 (U3). -/
def lnCalc (s : State) (v : DWord) : Bool :=
  match scaling s with
  | 0 => lnFrom v 31
  | 1 => lnFrom v 32
  | 2 => lnFrom v 30
  | _ => freeBit s 8

/-- `LnCalcNoScale` (R201). -/
def lnCalcNoScale (v : DWord) : Bool := lnFrom v 31

/-- `wrap40` (R200). -/
def wrap40 (x : Int) : DWord := BitVec.ofInt 40 x

/-- Is a result not representable in 40 bits (R202)? -/
def outside40 (x : Int) : Bool := decide (x < -2 ^ 39) || decide (2 ^ 39 - 1 < x)

/-- A saturable write; `top` is the positive saturation constant (R202, R204). -/
def writeSat (s : State) (n : DReg) (x : Int) (top : DWord) : State :=
  if satMode s then
    if 2 ^ 31 - 1 < x then overflow (setD s n top false)
    else if x < -2 ^ 31 then overflow (setD s n 0xFF80000000#40 false)
    else setD s n (wrap40 x) false
  else overflowIf (outside40 x) (setD s n (wrap40 x) (lnCalc s (wrap40 x)))

/-- `WriteArith` (R202). -/
def writeArith (s : State) (n : DReg) (x : Int) : State := writeSat s n x 0x007FFFFFFF#40

/-- `WriteArith` of a rounded result by MPYR, MACR and RND: it saturates to the rounded constant (R204). -/
def writeRounded (s : State) (n : DReg) (x : Int) : State := writeSat s n x 0x007FFF0000#40

/-- The limit tag of the instructions that ignore SM: scaling counts only without it (R203). -/
def lnCalc6 (s : State) (v : DWord) : Bool := if satMode s then lnCalcNoScale v else lnCalc s v

/-- `WriteArith6` (R203). -/
def writeArith6 (s : State) (n : DReg) (x : Int) : State :=
  overflowIf (outside40 x) (setD s n (wrap40 x) (lnCalc6 s (wrap40 x)))

/-- `WriteWrap` (R260). -/
def writeWrap (s : State) (n : DReg) (x : Int) : State := overflowIf (outside40 x) (setD s n (wrap40 x) false)

/-- The rounding boundary k (R204, Table 2-13); none in the reserved scaling mode. -/
def roundingBit (s : State) : Option Nat :=
  if satMode s then some 16
  else
    match scaling s with
    | 0 => some 16
    | 1 => some 17
    | 2 => some 15
    | _ => none

/-- `Rnd` at a boundary k, two's-complement rounding or convergent (R204). -/
def rndAt (k : Nat) (twos : Bool) (x : Int) : Int :=
  let low := x % 2 ^ k
  let half : Int := 2 ^ (k - 1)
  let up : Bool := if twos then decide (half ≤ low) else decide (half < low) || (decide (low = half) && decide (x / 2 ^ k % 2 = 1))
  let y := if up then x + half else x
  y - y % 2 ^ k

/-- `Rnd` (R204); in the reserved scaling mode the rounded value is free, tag 9 (U3). -/
def rnd (s : State) (x : Int) : Int :=
  match roundingBit s with
  | some k => rndAt k (roundMode s) x
  | none => (free 41 s 9).toInt

/-- The carry out of bit 39 of an unsigned addition (R205). -/
def carryOut (a b : DWord) (c : Nat) : Bool := decide (2 ^ 40 ≤ a.toNat + b.toNat + c)

/-- The borrow out of bit 39 of `a - b - c` (R205). -/
def borrowOut (a b : DWord) (c : Nat) : Bool := decide (a.toNat < b.toNat + c)

/-- The carry as a number. -/
def carryNat (s : State) : Nat := (carry s).toNat

end Sys2Proof.Machine
end

