-- ==== Sys2Proof/Machine/Operands.lean ====
section
/-! DEFINITION. The operand forms: portions of a data register, and the register operands of moves, AGU arithmetic, stack and
bit-mask instructions (spec/10_state.md R21 to R31; spec/44_agu_move.md R350, R352; spec/45_stack_bmu.md R390). -/

namespace Sys2Proof.Machine

/-! ### Data registers and their portions (R21, R200) -/

/-- `sD(n)` (R200). -/
def sD (s : State) (n : DReg) : Int := (dreg s n).toInt
/-- `uD(n)` (R200). -/
def uD (s : State) (n : DReg) : Nat := (dreg s n).toNat
/-- The extension byte D[n].e. -/
def dExt (s : State) (n : DReg) : Byte := (dreg s n).extractLsb' 32 8
/-- D[n].h. -/
def dHigh (s : State) (n : DReg) : Word16 := (dreg s n).extractLsb' 16 16
/-- D[n].l. -/
def dLow (s : State) (n : DReg) : Word16 := (dreg s n).extractLsb' 0 16
/-- D[n][31:0]. -/
def dLong (s : State) (n : DReg) : Word := (dreg s n).extractLsb' 0 32
/-- The value of L[n] and D[n].e in a memory long: bits 8 and 7:0 (R363). -/
def extValue (s : State) (n : DReg) : BitVec 9 := BitVec.ofBool (ltag s n) ++ dExt s n

/-- D(2i) of a pair (R165). -/
def pairFst (p : Pair) : DReg := ⟨2 * p.val, by omega⟩
/-- D(2i+1) of a pair. -/
def pairSnd (p : Pair) : DReg := ⟨2 * p.val + 1, by omega⟩
/-- D(4i+k) of a quad (R165). -/
def quadReg (q : Quad) (k : Fin 4) : DReg := ⟨4 * q.val + k.val, by omega⟩

/-! ### AGU registers (R320) -/

/-- The value of rx; PC is the address of the set (R33). -/
def srcVal (s : State) (x : RxSrc) : Word :=
  match x with
  | .n k => nreg s k
  | .pc => s.pc
  | .sp => spOf s
  | .r n => rreg s n

/-- The value of Rx. -/
def rxVal (s : State) (x : Rx) : Word :=
  match x with
  | .n k => nreg s k
  | .sp => spOf s
  | .r n => rreg s n

/-- Write Rx; an explicit write of SP, by TFRA or AGU arithmetic, invalidates RAS (R442) and SP's shadow (R690). -/
def setRx (s : State) (x : Rx) (v : Word) : State :=
  match x with
  | .n k => setN s k v
  | .sp => setSpShadow (dropRas (setSp s v)) false
  | .r n => setR s n v

/-- Do rx and Rx name one register? -/
def sameReg (src : RxSrc) (x : Rx) : Bool :=
  match src, x with
  | .n k, .n j => k == j
  | .sp, .sp => true
  | .r m, .r n => m == n
  | _, _ => false

/-- The value of Rx plus an offset, in Rx's modifier mode if Rx is R0..R7 (R321). -/
def rxAdd (s : State) (x : Rx) (o : Word) (regOffset : Bool) : Word :=
  match x with
  | .r n => aguAdd s n (rreg s n) o 1 regOffset 0
  | _ => rxVal s x + o

/-- The value of rx plus an offset, in rx's modifier mode if rx is R0..R7 (R321, R322). -/
def srcAdd (s : State) (x : RxSrc) (o : Word) : Word :=
  match x with
  | .r n => aguAdd s n (rreg s n) o 1 false 0
  | _ => srcVal s x + o

/-! ### Moves (R350, R352) -/

/-- `WriteInt` of a value already extended to 40 bits (R350). -/
def writeDr (s : State) (x : DR) (v : DWord) : State :=
  match x with
  | .d n => setD s n v false
  | .r n => setR s n (v.setWidth 32)

/-- Bits 31:0 of a DR register. -/
def drLong (s : State) (x : DR) : Word :=
  match x with
  | .d n => dLong s n
  | .r n => rreg s n

/-- Does an addressing mode update its pointer (R351)? -/
def eaUpdates (m : EaMode) : Bool :=
  match m with
  | .indexN0 => false
  | .plain => false
  | _ => true

/-- Is `x` the pointer that `m` also updates? -/
def clashes (m : Mem) (x : DR) : Bool :=
  match m, x with
  | .ea em rn, .r n => eaUpdates em && rn == n
  | _, _ => false

/-- Write a loaded value to a DR register.  A register that is also the updated pointer is written twice by the one
instruction: it holds a free value, tag 3 (R620 (2), D53). -/
def writeLoaded (s : State) (m : Mem) (x : DR) (v : DWord) : State :=
  if clashes m x then writeDr s x (free 40 s 3) else writeDr s x v

/-- Write a value to a C4 register, sign-extended or zero-extended by the caller (R350). -/
def writeC4 (s : State) (x : C4) (v : DWord) : State :=
  match x with
  | .d n => setD s n v false
  | .r n => setR s n (v.setWidth 32)
  | .b k => setR s (breg k) (v.setWidth 32)
  | .n k => setN s k (v.setWidth 32)
  | .m k => setM s k (v.setWidth 32)

/-- Bits 31:0 of a C4 register. -/
def c4Long (s : State) (x : C4) : Word :=
  match x with
  | .d n => dLong s n
  | .r n => rreg s n
  | .b k => rreg s (breg k)
  | .n k => nreg s k
  | .m k => mreg s k

/-- C3 as a C4 register. -/
def c3c4 (x : C3) : C4 :=
  match x with
  | .b k => .b k
  | .n k => .n k
  | .m k => .m k

/-- The value of a C1 register (R170). -/
def c1Val (s : State) (x : C1) : Word :=
  match x with
  | .emr => s.emr
  | .vba => s.vba
  | .sr => s.sr
  | .mctl => s.mctl

/-- Write a C1 register through its write rule (R46 to R49). -/
def setC1 (s : State) (x : C1) (v : Word) : State :=
  match x with
  | .emr => writeEmr s v
  | .vba => writeVba s v
  | .sr => writeSr s v
  | .mctl => writeMctl s v

/-- The value of a C2 register (R169). -/
def c2Val (s : State) (x : C2) : Word :=
  match x with
  | .emr => s.emr
  | .vba => s.vba
  | .sr => s.sr
  | .mctl => s.mctl
  | .sa k => saReg s k
  | .lc k => lcReg s k

/-- Write a C2 register. -/
def setC2 (s : State) (x : C2) (v : Word) : State :=
  match x with
  | .emr => writeEmr s v
  | .vba => writeVba s v
  | .sr => writeSr s v
  | .mctl => writeMctl s v
  | .sa k => setSa s k v
  | .lc k => setLc s k v

/-- `WriteFrac`'s value: the extension is the sign, the low portion 0 (R350). -/
def fracVal (v : Word16) : DWord := (v ++ 0#16).signExtend 40

/-! ### Data accesses of one operand (R354) -/

/-- Read a byte at an effective address. -/
def read8 (e : Ea) : Byte × State :=
  let r := load8 e.st e.addr 1
  (r.1, note r.2 ⟨e.addr, 1, false, 1, [r.1.setWidth 32], e.pre, false⟩)

/-- Read a word at an effective address. -/
def read16 (e : Ea) : Word16 × State :=
  let r := load16 e.st e.addr 1
  (r.1, note r.2 ⟨e.addr, 2, false, 2, [r.1.setWidth 32], e.pre, false⟩)

/-- Read a long at an effective address. -/
def read32 (e : Ea) : Word × State :=
  let r := load32 e.st e.addr 1
  (r.1, note r.2 ⟨e.addr, 4, false, 4, [r.1], e.pre, false⟩)

/-- Write a byte at an effective address. -/
def write8 (e : Ea) (v : Byte) : State := note (store8 e.st e.addr v) ⟨e.addr, 1, true, 1, [v.setWidth 32], e.pre, false⟩

/-- Write a word at an effective address. -/
def write16 (e : Ea) (v : Word16) : State := note (store16 e.st e.addr v) ⟨e.addr, 2, true, 2, [v.setWidth 32], e.pre, false⟩

/-- Write a long at an effective address. -/
def write32 (e : Ea) (v : Word) : State := note (store32 e.st e.addr v) ⟨e.addr, 4, true, 4, [v], e.pre, false⟩

/-- Read words at rising addresses, two by two: the memory, and the EOnCE, treat two words like a long (R101, R105, R702).  The first has
tag `t`. -/
def loadWords (s : State) (a : Word) (t : Nat) (k : Nat) : List Word16 × State :=
  match k with
  | 0 => ([], s)
  | 1 =>
    let r := load16 s a t
    ([r.1], r.2)
  | j + 2 =>
    let r := load32 s a t
    let q := loadWords r.2 (a + 4) (t + 1) j
    ((halves s r.1).1 :: (halves s r.1).2 :: q.1, q.2)

/-- Write words at rising addresses, two by two like a long (R101, R105, R702). -/
def storeWords (s : State) (a : Word) (vs : List Word16) : State :=
  match vs with
  | [] => s
  | [v] => store16 s a v
  | v :: w :: rest => storeWords (store32 s a (joined s v w)) (a + 4) rest

/-- Read `k` words by one access. -/
def readWords (e : Ea) (k : Nat) : List Word16 × State :=
  let r := loadWords e.st e.addr 1 k
  (r.1, note r.2 ⟨e.addr, 2 * k, false, 2, r.1.map (·.setWidth 32), e.pre, false⟩)

/-- Write words by one access. -/
def writeWords (e : Ea) (vs : List Word16) : State :=
  note (storeWords e.st e.addr vs) ⟨e.addr, 2 * vs.length, true, 2, vs.map (·.setWidth 32), e.pre, false⟩

/-- Read two longs by one access. -/
def readTwoLongs (e : Ea) : (Word × Word) × State :=
  let r := load32 e.st e.addr 1
  let q := load32 r.2 (e.addr + 4) 2
  ((r.1, q.1), note q.2 ⟨e.addr, 8, false, 4, [r.1, q.1], e.pre, false⟩)

/-- Write two longs by one access. -/
def writeTwoLongs (e : Ea) (v w : Word) : State :=
  note (store32 (store32 e.st e.addr v) (e.addr + 4) w) ⟨e.addr, 8, true, 4, [v, w], e.pre, false⟩

/-- Write data registers with values, in order. -/
def setDs (s : State) (xs : List (DReg × DWord)) : State :=
  match xs with
  | [] => s
  | x :: rest => setDs (setD s x.1 x.2 false) rest

/-- The registers of a pair, first first. -/
def pairRegs (p : Pair) : List DReg := [pairFst p, pairSnd p]
/-- The registers of a quad, first first. -/
def quadRegs (q : Quad) : List DReg := [quadReg q 0, quadReg q 1, quadReg q 2, quadReg q 3]

/-! ### Portions for the bit-mask instructions (R415) -/

/-- A 16-bit portion of a 32-bit value. -/
def portion (v : Word) (h : Half) : Word16 :=
  match h with
  | .low => v.setWidth 16
  | .high => (v >>> 16).setWidth 16

/-- A 32-bit value with one portion replaced. -/
def withPortion (v : Word) (h : Half) (p : Word16) : Word :=
  match h with
  | .low => (v &&& 0xFFFF0000#32) ||| p.setWidth 32
  | .high => (v &&& 0x0000FFFF#32) ||| (p.setWidth 32 <<< 16)

/-- Write a portion of a DR register: a data register keeps its extension and loses its limit tag (R415). -/
def setDrPortion (s : State) (x : DR) (h : Half) (p : Word16) : State :=
  match x with
  | .d n => setD s n (dExt s n ++ withPortion (dLong s n) h p) false
  | .r n => setR s n (withPortion (rreg s n) h p)

/-- Write a portion of a C1 register through its write rule; the other portion of EMR is written with zeros, which change nothing
(R47, R415). -/
def setC1Portion (s : State) (x : C1) (h : Half) (p : Word16) : State :=
  match x with
  | .emr => writeEmr s (withPortion 0#32 h p)
  | .vba => writeVba s (withPortion s.vba h p)
  | .sr => writeSr s (withPortion s.sr h p)
  | .mctl => writeMctl s (withPortion s.mctl h p)

/-! ### Stack operands (R416, R391, R393) -/

/-- Twice an index, as a register number. -/
def evenReg (i : Fin 8) : Fin 16 := ⟨2 * i.val, by omega⟩
/-- Twice an index plus one. -/
def oddReg (i : Fin 8) : Fin 16 := ⟨2 * i.val + 1, by omega⟩
/-- B(2i). -/
def evenB (i : Fin 4) : RReg := ⟨8 + 2 * i.val, by omega⟩
/-- B(2i+1). -/
def oddB (i : Fin 4) : RReg := ⟨8 + 2 * i.val + 1, by omega⟩
/-- N(2i) or M(2i). -/
def even4 (i : Fin 2) : Fin 4 := ⟨2 * i.val, by omega⟩
/-- N(2i+1) or M(2i+1). -/
def odd4 (i : Fin 2) : Fin 4 := ⟨2 * i.val + 1, by omega⟩

/-- Put L and the extension byte into a data register, bits 31:0 kept (R363). -/
def setExt (s : State) (n : DReg) (v : BitVec 9) : State :=
  setD s n (v.setWidth 8 ++ dLong s n) (v.getLsbD 8)

/-- The long that PUSH writes for De (R393). -/
def evenVal (s : State) (x : PushEven) : Word :=
  match x with
  | .d i => dLong s (evenReg i)
  | .r i => rreg s (evenReg i)
  | .b i => rreg s (evenB i)
  | .n i => nreg s (even4 i)
  | .m i => mreg s (even4 i)
  | .sa k => saReg s k
  | .ext i => (extValue s (evenReg i)).setWidth 32
  | .extPair i => (extValue s (evenReg i)).setWidth 32 ||| ((extValue s (oddReg i)).setWidth 32 <<< 16)

/-- The long that PUSH writes for Do (R393). -/
def oddVal (s : State) (x : PushOdd) : Word :=
  match x with
  | .d i => dLong s (oddReg i)
  | .r i => rreg s (oddReg i)
  | .b i => rreg s (oddB i)
  | .n i => nreg s (odd4 i)
  | .m i => mreg s (odd4 i)
  | .lc k => lcReg s k
  | .ext i => (extValue s (oddReg i)).setWidth 32 <<< 16
  | .vba => s.vba
  | .sr => s.sr
  | .mctl => s.mctl

/-- POP's write of De (R391). -/
def setEven (s : State) (x : PushEven) (v : Word) : State :=
  match x with
  | .d i => setD s (evenReg i) (v.signExtend 40) false
  | .r i => setR s (evenReg i) v
  | .b i => setR s (evenB i) v
  | .n i => setN s (even4 i) v
  | .m i => setM s (even4 i) v
  | .sa k => setSa s k v
  | .ext i => setExt s (evenReg i) (v.setWidth 9)
  | .extPair i => setExt (setExt s (evenReg i) (v.setWidth 9)) (oddReg i) ((v >>> 16).setWidth 9)

/-- POP's write of Do (R391). -/
def setOdd (s : State) (x : PushOdd) (v : Word) : State :=
  match x with
  | .d i => setD s (oddReg i) (v.signExtend 40) false
  | .r i => setR s (oddReg i) v
  | .b i => setR s (oddB i) v
  | .n i => setN s (odd4 i) v
  | .m i => setM s (odd4 i) v
  | .lc k => setLc s k v
  | .ext i => setExt s (oddReg i) ((v >>> 16).setWidth 9)
  | .vba => writeVba s v
  | .sr => writeSr s v
  | .mctl => writeMctl s v

end Sys2Proof.Machine
end

