-- ==== Sys2Proof/Machine/AguArith.lean ====
section
/-! DEFINITION. The AGU arithmetic instructions (spec/43_agu_arith.md R320 to R346). -/

namespace Sys2Proof.Machine

/-- ADDA #u5,Rx (R322). -/
def execAddaImm (u : BitVec 5) (x : Rx) (s : State) : Res State := .next (setRx s x (rxAdd s x (u.setWidth 32) false))

/-- ADDA #s16,rx,Rn (R322): the modifier mode is that of rx. -/
def execAddaImm16 (v : BitVec 16) (src : RxSrc) (n : RReg) (s : State) : Res State :=
  .next (setR s n (srcAdd s src (v.signExtend 32)))

/-- ADDA rx,Rx (R322). -/
def execAddaReg (src : RxSrc) (x : Rx) (s : State) : Res State := .next (setRx s x (rxAdd s x (srcVal s src) true))

/-- ADDL1A (R323). -/
def execAddl1a (src : RxSrc) (x : Rx) (s : State) : Res State :=
  .next (setRx s x (rxAdd s x (srcVal s src <<< 1) true))

/-- ADDL2A (R324). -/
def execAddl2a (src : RxSrc) (x : Rx) (s : State) : Res State :=
  .next (setRx s x (rxAdd s x (srcVal s src <<< 2) true))

/-- ASL2A (R325). -/
def execAsl2a (x : Rx) (s : State) : Res State := .next (setRx s x (rxVal s x <<< 2))

/-- ASLA (R326). -/
def execAsla (x : Rx) (s : State) : Res State := .next (setRx s x (rxVal s x <<< 1))

/-- ASRA (R327). -/
def execAsra (x : Rx) (s : State) : Res State := .next (setRx s x ((rxVal s x).sshiftRight 1))

/-- A comparison writes T; a register cannot be compared to itself (R328, U3). -/
def compareA (src : RxSrc) (x : Rx) (c : Bool) (s : State) : Res State :=
  if sameReg src x then .refused .selfCompare else .next (setT s c)

/-- CMPEQA (R328). -/
def execCmpeqa (src : RxSrc) (x : Rx) (s : State) : Res State := compareA src x (srcVal s src == rxVal s x) s

/-- CMPGTA (R329). -/
def execCmpgta (src : RxSrc) (x : Rx) (s : State) : Res State :=
  compareA src x (decide ((srcVal s src).toInt < (rxVal s x).toInt)) s

/-- CMPHIA (R330). -/
def execCmphia (src : RxSrc) (x : Rx) (s : State) : Res State :=
  compareA src x (decide ((srcVal s src).toNat < (rxVal s x).toNat)) s

/-- DECA (R331). -/
def execDeca (x : Rx) (s : State) : Res State := .next (setRx s x (rxAdd s x (-1#32) false))

/-- DECEQA (R332): no modifier mode. -/
def execDeceqa (x : Rx) (s : State) : Res State :=
  .next (setT (setRx s x (rxVal s x - 1#32)) (rxVal s x - 1#32 == 0#32))

/-- DECGEA (R333): T is that of the exact difference. -/
def execDecgea (x : Rx) (s : State) : Res State :=
  .next (setT (setRx s x (rxVal s x - 1#32)) (decide (0 ≤ (rxVal s x).toInt - 1)))

/-- INCA (R334). -/
def execInca (x : Rx) (s : State) : Res State := .next (setRx s x (rxAdd s x 1#32 false))

/-- LSRA (R335). -/
def execLsra (x : Rx) (s : State) : Res State := .next (setRx s x (rxVal s x >>> 1))

/-- SUBA #u5,Rx (R336). -/
def execSubaImm (u : BitVec 5) (x : Rx) (s : State) : Res State :=
  .next (setRx s x (rxAdd s x (-(u.setWidth 32)) false))

/-- SUBA rx,Rx (R336). -/
def execSubaReg (src : RxSrc) (x : Rx) (s : State) : Res State := .next (setRx s x (rxAdd s x (-(srcVal s src)) true))

/-- SXTA.B (R337). -/
def execSxtaB (src : RxSrc) (x : Rx) (s : State) : Res State :=
  .next (setRx s x (((srcVal s src).setWidth 8).signExtend 32))

/-- SXTA.W (R338). -/
def execSxtaW (x : Rx) (s : State) : Res State := .next (setRx s x (((rxVal s x).setWidth 16).signExtend 32))

/-- TFRA rx,Rx (R339). -/
def execTfra (src : RxSrc) (x : Rx) (s : State) : Res State := .next (setRx s x (srcVal s src))

/-- TFRA OSP,Rn (R340). -/
def execTfraFromOsp (n : RReg) (s : State) : Res State := .next (setR s n (ospOf s))

/-- TFRA Rn,OSP (R340). -/
def execTfraToOsp (n : RReg) (s : State) : Res State := .next (setOspShadow (dropRas (setOsp s (rreg s n))) false)

/-- TSTEQA.L (R341). -/
def execTsteqaL (x : Rx) (s : State) : Res State := .next (setT s (rxVal s x == 0#32))

/-- TSTEQA.W (R342). -/
def execTsteqaW (x : Rx) (s : State) : Res State := .next (setT s ((rxVal s x).setWidth 16 == 0#16))

/-- TSTGEA.L (R343). -/
def execTstgeaL (x : Rx) (s : State) : Res State := .next (setT s (decide (0 ≤ (rxVal s x).toInt)))

/-- TSTGTA (R344). -/
def execTstgta (x : Rx) (s : State) : Res State := .next (setT s (decide (0 < (rxVal s x).toInt)))

/-- ZXTA.B (R345). -/
def execZxtaB (src : RxSrc) (x : Rx) (s : State) : Res State :=
  .next (setRx s x (((srcVal s src).setWidth 8).setWidth 32))

/-- ZXTA.W (R346). -/
def execZxtaW (x : Rx) (s : State) : Res State := .next (setRx s x (((rxVal s x).setWidth 16).setWidth 32))

end Sys2Proof.Machine
end

