-- ==== Sys2Proof/Machine/Bmu.lean ====
section
/-! DEFINITION. The bit-mask instructions (spec/45_stack_bmu.md R390, R395 to R415). -/

namespace Sys2Proof.Machine

/-- Read, change and write a portion of a DR register (R415). -/
def changeDr (s : State) (x : DR) (h : Half) (f : Word16 → Word16) : State :=
  setDrPortion s x h (f (portion (drLong s x) h))

/-- Read, change and write a portion of a C1 register (R415). -/
def changeC1 (s : State) (x : C1) (h : Half) (f : Word16 → Word16) : State :=
  setC1Portion s x h (f (portion (c1Val s x) h))

/-- Read, change and write a word of memory (R398). -/
def changeMem (s : State) (m : BmuMem) (f : Word16 → Word16) : Res State :=
  withEa (bmuEa s m) 2 fun e =>
    let r := read16 e
    .next (write16 { e with st := r.2 } (f r.1))

/-- Read a word of memory and write T (R406). -/
def testMem (s : State) (m : BmuMem) (f : Word16 → Bool) : Res State :=
  withEa (bmuEa s m) 2 fun e =>
    let r := read16 e
    .next (setT r.2 (f r.1))

/-- Are all selected bits clear (R405)? -/
def allClear (u p : Word16) : Bool := u &&& p == 0#16

/-- Are all selected bits set (R407)? -/
def allSet (u p : Word16) : Bool := u &&& ~~~p == 0#16

/-- BMCLR #u16,DR (R399). -/
def execBmclrDr (m : BitVec 16) (half : Half) (dr : DR) (s : State) : Res State := .next (changeDr s dr half fun p => p &&& ~~~m)

/-- BMCLR #u16,C1 (R399). -/
def execBmclrC1 (m : BitVec 16) (half : Half) (c : C1) (s : State) : Res State := .next (changeC1 s c half fun p => p &&& ~~~m)

/-- BMCLR.W (R400). -/
def execBmclrMem (m : BitVec 16) (ea : BmuMem) (s : State) : Res State := changeMem s ea fun p => p &&& ~~~m

/-- BMSET #u16,DR (R401). -/
def execBmsetDr (m : BitVec 16) (half : Half) (dr : DR) (s : State) : Res State := .next (changeDr s dr half fun p => p ||| m)

/-- BMSET #u16,C1 (R401). -/
def execBmsetC1 (m : BitVec 16) (half : Half) (c : C1) (s : State) : Res State := .next (changeC1 s c half fun p => p ||| m)

/-- BMSET.W (R402). -/
def execBmsetMem (m : BitVec 16) (ea : BmuMem) (s : State) : Res State := changeMem s ea fun p => p ||| m

/-- BMCHG #u16,DR (R397). -/
def execBmchgDr (m : BitVec 16) (half : Half) (dr : DR) (s : State) : Res State := .next (changeDr s dr half fun p => p ^^^ m)

/-- BMCHG #u16,C1 (R397). -/
def execBmchgC1 (m : BitVec 16) (half : Half) (c : C1) (s : State) : Res State := .next (changeC1 s c half fun p => p ^^^ m)

/-- BMCHG.W (R398). -/
def execBmchgMem (m : BitVec 16) (ea : BmuMem) (s : State) : Res State := changeMem s ea fun p => p ^^^ m

/-- BMTSTC #u16,DR (R405). -/
def execBmtstcDr (m : BitVec 16) (half : Half) (dr : DR) (s : State) : Res State :=
  .next (setT s (allClear m (portion (drLong s dr) half)))

/-- BMTSTC #u16,C1 (R405). -/
def execBmtstcC1 (m : BitVec 16) (half : Half) (c : C1) (s : State) : Res State :=
  .next (setT s (allClear m (portion (c1Val s c) half)))

/-- BMTSTC.W (R406). -/
def execBmtstcMem (m : BitVec 16) (ea : BmuMem) (s : State) : Res State := testMem s ea fun p => allClear m p

/-- BMTSTS #u16,DR (R407). -/
def execBmtstsDr (m : BitVec 16) (half : Half) (dr : DR) (s : State) : Res State :=
  .next (setT s (allSet m (portion (drLong s dr) half)))

/-- BMTSTS #u16,C1 (R407). -/
def execBmtstsC1 (m : BitVec 16) (half : Half) (c : C1) (s : State) : Res State :=
  .next (setT s (allSet m (portion (c1Val s c) half)))

/-- BMTSTS.W (R408). -/
def execBmtstsMem (m : BitVec 16) (ea : BmuMem) (s : State) : Res State := testMem s ea fun p => allSet m p

/-- BMTSET #u16,DR (R403). -/
def execBmtsetDr (m : BitVec 16) (half : Half) (dr : DR) (s : State) : Res State :=
  .next (setT (changeDr s dr half fun p => p ||| m) (allSet m (portion (drLong s dr) half)))

/-- BMTSET.W (R404): the write never fails on one core (D18). -/
def execBmtsetMem (m : BitVec 16) (ea : BmuMem) (s : State) : Res State :=
  withEa (bmuEa s ea) 2 fun e =>
    let r := read16 e
    .next (setT (write16 { e with st := r.2 } (r.1 ||| m)) (allSet m r.1))

/-- AND #u16,DR (R395). -/
def execAndDr (m : BitVec 16) (half : Half) (dr : DR) (s : State) : Res State := .next (changeDr s dr half fun p => p &&& m)

/-- AND.W (R396). -/
def execAndMem (m : BitVec 16) (ea : BmuMem) (s : State) : Res State := changeMem s ea fun p => p &&& m

/-- EOR #u16,DR (R409). -/
def execEorDr (m : BitVec 16) (half : Half) (dr : DR) (s : State) : Res State := .next (changeDr s dr half fun p => p ^^^ m)

/-- EOR.W (R410). -/
def execEorMem (m : BitVec 16) (ea : BmuMem) (s : State) : Res State := changeMem s ea fun p => p ^^^ m

/-- NOT DR (R411). -/
def execNotDr (half : Half) (dr : DR) (s : State) : Res State := .next (changeDr s dr half fun p => ~~~p)

/-- NOT.W (R412). -/
def execNotMem (ea : BmuMem) (s : State) : Res State := changeMem s ea fun p => ~~~p

/-- OR #u16,DR (R413). -/
def execOrDr (m : BitVec 16) (half : Half) (dr : DR) (s : State) : Res State := .next (changeDr s dr half fun p => p ||| m)

/-- OR.W (R414). -/
def execOrMem (m : BitVec 16) (ea : BmuMem) (s : State) : Res State := changeMem s ea fun p => p ||| m

end Sys2Proof.Machine
end

