-- ==== Sys2Proof/Machine/Cof.lean ====
section
/-! DEFINITION. The change-of-flow instructions (spec/46_cof.md R420 to R447). -/

namespace Sys2Proof.Machine

/-- A displacement given without its bit 0, as a 32-bit offset (R423, R424). -/
def dispOffset {w : Nat} (x : BitVec w) : Word := (x ++ 0#1).signExtend 32

/-- The target of BRA and BRAD (R426, R427). -/
def target10 (s : State) (d : Disp10) : Word :=
  match d with
  | .short x => s.pc + dispOffset x
  | .long x => s.pc + dispOffset x

/-- The target of the other branches (R424, R428, R430). -/
def target8 (s : State) (d : Disp8) : Word :=
  match d with
  | .short x => s.pc + dispOffset x
  | .long x => s.pc + dispOffset x

/-- The target of a jump (R447). -/
def jumpTarget (s : State) (t : JumpTo) : Word :=
  match t with
  | .abs a => a
  | .reg n => rreg s n

/-- Control goes to `t` at the end of the next set (R421). -/
def delayed (s : State) (d : Delay) : State := { s with delay := d }

/-- `Call(ret, target)` (R422). -/
def callTo (s : State) (ret target : Word) : State :=
  let s1 := setSp (pushFrame s (spOf s) ret s.sr) (spOf s + 8)
  jumpTo { s1 with ras := ret, rasValid := true } target

/-- Control goes to `t` if `b` (R420). -/
def jumpIf (b : Bool) (s : State) (t : Word) : State := if b then jumpTo s t else s

/-- Control goes to `t` after the delay slot if `b`; the delay slot is executed in either case (R421). -/
def delayedIf (b : Bool) (s : State) (t : Word) : State := delayed s (if b then .jump t else .fallthrough)

/-- BRAD (R427). -/
def execBrad (d : Disp10) (s : State) : Res State := .next (delayed s (.jump (target10 s d)))
/-- BRA (R426). -/
def execBra (d : Disp10) (s : State) : Res State := .next (jumpTo s (target10 s d))
/-- BSRD (R429). -/
def execBsrd (d : Disp8) (s : State) : Res State := .next (delayed s (.call (target8 s d)))
/-- BSR (R428). -/
def execBsr (d : Disp8) (s : State) : Res State := .next (callTo s s.npc (target8 s d))
/-- BTD (R431). -/
def execBtd (d : Disp8) (s : State) : Res State := .next (delayedIf (tBit s) s (target8 s d))
/-- BT (R430). -/
def execBt (d : Disp8) (s : State) : Res State := .next (jumpIf (tBit s) s (target8 s d))
/-- BFD (R425). -/
def execBfd (d : Disp8) (s : State) : Res State := .next (delayedIf (!tBit s) s (target8 s d))
/-- BF (R424). -/
def execBf (d : Disp8) (s : State) : Res State := .next (jumpIf (!tBit s) s (target8 s d))

/-- JMPD (R435). -/
def execJmpd (t : JumpTo) (s : State) : Res State := .next (delayed s (.jump (jumpTarget s t)))
/-- JMP (R434). -/
def execJmp (t : JumpTo) (s : State) : Res State := .next (jumpTo s (jumpTarget s t))
/-- JSRD (R437). -/
def execJsrd (t : JumpTo) (s : State) : Res State := .next (delayed s (.call (jumpTarget s t)))
/-- JSR (R436). -/
def execJsr (t : JumpTo) (s : State) : Res State := .next (callTo s s.npc (jumpTarget s t))
/-- JTD (R439). -/
def execJtd (t : JumpTo) (s : State) : Res State := .next (delayedIf (tBit s) s (jumpTarget s t))
/-- JT (R438). -/
def execJt (t : JumpTo) (s : State) : Res State := .next (jumpIf (tBit s) s (jumpTarget s t))
/-- JFD (R433). -/
def execJfd (t : JumpTo) (s : State) : Res State := .next (delayedIf (!tBit s) s (jumpTarget s t))
/-- JF (R432). -/
def execJf (t : JumpTo) (s : State) : Res State := .next (jumpIf (!tBit s) s (jumpTarget s t))

/-- The return address in the frame below the active stack pointer (R442, R444); the load has tag 1, and its address is
pre-calculated unless the shadow stack pointer is valid (R113, R544). -/
def popReturn (s : State) : Word × State :=
  let r := load32 s (spOf s - 8) 1
  (r.1, note r.2 ⟨spOf s - 8, 4, false, 4, [r.1], !spShadow s, false⟩)

/-- The active stack pointer loses one frame and RAS its validity (R442, R444). -/
def dropFrame (s : State) : State := dropRas (setSp s (spOf s - 8))

/-- EMR.NMID is cleared (R440, R444). -/
def clearNmid (s : State) : State := { s with emr := withBit s.emr 3 false }

/-- The return address of RTS and RTSD, and the state after the frame is dropped: RAS if it is valid (R442). -/
def subReturn (s : State) : Word × State :=
  if s.rasValid then (s.ras, dropFrame s)
  else
    let r := popReturn s
    (r.1, dropFrame r.2)

/-- The return address of RTSTK and RTSTKD: always the stack's; NMID is cleared (R444). -/
def stackReturn (s : State) : Word × State :=
  let r := popReturn s
  (r.1, clearNmid (dropFrame r.2))

/-- RTE (R440). -/
def execRte (s : State) : Res State := .next (returnFromException s)

/-- RTED: the frame is read and dropped now; SR and NMID change after the delay slot (R441, D30). -/
def execRted (s : State) : Res State :=
  let sp := spOf s
  let p := load32 s (sp - 8) 0
  let q := load32 p.2 (sp - 4) 1
  .next (delayed (setSp (note q.2 (frameRead s p.1 q.1)) (sp - 8)) (.ret p.1 q.1 (sp - 8)))

/-- RTS (R442). -/
def execRts (s : State) : Res State :=
  let r := subReturn s
  .next (jumpTo r.2 r.1)

/-- RTSD (R443). -/
def execRtsd (s : State) : Res State :=
  let r := subReturn s
  .next (delayed r.2 (.sub r.1 (spOf s - 8)))

/-- RTSTK (R444). -/
def execRtstk (s : State) : Res State :=
  let r := stackReturn s
  .next (jumpTo r.2 r.1)

/-- RTSTKD (R445). -/
def execRtstkd (s : State) : Res State :=
  let r := stackReturn s
  .next (delayed r.2 (.sub r.1 (spOf s - 8)))

/-- TRAP: the exception with offset $000 and level 7, returning after the set; no other exception is taken in the first
sets of the handler (R446, R530 (b)). -/
def execTrap (s : State) : Res State := .next { takeException s 0x000#12 7#3 s.npc with window := 4 }

end Sys2Proof.Machine
end

