-- ==== Sys2Proof/Machine/Loop.lean ====
section
/-! DEFINITION. The hardware loops: their instructions (spec/47_loop.md R450 to R457) and their marks
(spec/70_reset_and_hazards.md R650 to R654). -/

namespace Sys2Proof.Machine

/-- The active loop: the enabled one of highest index (R651). -/
def activeLoop (s : State) : Option LoopIx :=
  if loopFlag s 3 then some 3
  else if loopFlag s 2 then some 2
  else if loopFlag s 1 then some 1
  else if loopFlag s 0 then some 0
  else none

/-- Write SR.LFn (R37). -/
def setLoopFlag (s : State) (n : LoopIx) (b : Bool) : State := setSrBit s (27 + n.val) b
/-- Write SR.SLF (R37). -/
def setShortLoop (s : State) (b : Bool) : State := setSrBit s 31 b

/-- The 17-bit displacement of the loop instructions, from the set's address (R450). -/
def loopTarget (s : State) (d : BitVec 16) : Word := s.pc + dispOffset d

/-- Is the count, a signed number, above one: is the loop repeated (R652, R653)? -/
def repeats (s : State) (n : LoopIx) : Bool := decide (1 < (lcReg s n).toInt)

/-- The count goes down by one (R652). -/
def countDown (s : State) (n : LoopIx) : State := setLc s n (lcReg s n - 1)

/-- The loop ends: its count and its flag are cleared (R652). -/
def endLoop (s : State) (n : LoopIx) : State := setLoopFlag (setLc s n 0#32) n false

/-- The value of a loop count (R454). -/
def countVal (s : State) (c : LoopCount) : Word :=
  match c with
  | .u6 u => u.setWidth 32
  | .u16 u => u.setWidth 32
  | .reg x => drLong s x

/-- BREAK: the active loop is left; its count stays (R451). -/
def execBreak (d : BitVec 16) (s : State) : Res State :=
  match activeLoop s with
  | none => .fault .noActiveLoop
  | some n => .next (jumpTo (setLoopFlag s n false) (loopTarget s d))

/-- SKIPLS: a loop whose count is not positive is left (R457). -/
def execSkipls (d : BitVec 16) (s : State) : Res State :=
  match activeLoop s with
  | none => .fault .noActiveLoop
  | some n =>
    if (lcReg s n).toInt ≤ 0 then .next (jumpTo (setLoopFlag s n false) (loopTarget s d)) else .next s

/-- CONTD: CONT after a delay slot (R453); LCn and LFn are updated in CONTD's own set, so that the slot sees the new ones (log 29; DESIGN
CHOICE). -/
def execContd (d : BitVec 16) (s : State) : Res State :=
  match activeLoop s with
  | none => .fault .noActiveLoop
  | some n =>
    if repeats s n then .next (delayed (countDown s n) (.jump (saReg s n)))
    else .next (delayed (endLoop s n) (.jump (loopTarget s d)))

/-- CONT: the next iteration, or the end of the loop (R452). -/
def execCont (d : BitVec 16) (s : State) : Res State :=
  match activeLoop s with
  | none => .fault .noActiveLoop
  | some n =>
    if repeats s n then .next (jumpTo (countDown s n) (saReg s n))
    else .next (jumpTo (endLoop s n) (loopTarget s d))

/-- DOSETUPn (R456). -/
def execDosetup (l : LoopIx) (d : BitVec 16) (s : State) : Res State := .next (setSa s l (loopTarget s d))

/-- DOENn (R454). -/
def execDoen (l : LoopIx) (c : LoopCount) (s : State) : Res State :=
  .next (setLoopFlag (setLc s l (countVal s c)) l true)

/-- DOENSHn (R455). -/
def execDoensh (l : LoopIx) (c : LoopCount) (s : State) : Res State :=
  .next (setShortLoop (setLoopFlag (setLc s l (countVal s c)) l true) true)

/-- LPMARKA's effect on the active loop n (R481, R652): jump to the start, or end the loop. -/
def markEndA (s : State) (n : LoopIx) : State :=
  if repeats s n then jumpTo (countDown s n) (if shortLoop s then s.pc else saReg s n)
  else setShortLoop (endLoop s n) false

/-- LPMARKB's effect on the active loop n (R481, R652): in a long loop a jump after two more sets, in a short loop after one.  Where a
short loop ends marks are treated in the next set, LA, but no exception is taken before it (R659). -/
def markEndB (s : State) (n : LoopIx) : State :=
  match shortLoop s, repeats s n with
  | false, true => { countDown s n with loopJump := some ⟨3, saReg s n⟩, ignoreA := 3, ignoreB := 3 }
  | false, false => { endLoop s n with ignoreA := 3 }
  | true, true => { countDown s n with loopJump := some ⟨2, s.pc⟩, ignoreA := 2, ignoreB := 2 }
  | true, false => { setShortLoop (endLoop s n) false with window := max s.window 2 }

/-- LPMARKA: nothing if no loop is enabled (D54). -/
def markA (s : State) : State :=
  match activeLoop s with
  | none => s
  | some n => markEndA s n

/-- LPMARKB. -/
def markB (s : State) : State :=
  match activeLoop s with
  | none => s
  | some n => markEndB s n

/-- Does LPMARKA repeat the active loop? Then an LPMARKB of the same set is ignored (R652). -/
def markARepeats (s : State) : Bool :=
  match activeLoop s with
  | none => false
  | some n => repeats s n

/-- The marks of a set (R652): an ignored mark does nothing; with both, A is the inner loop's. -/
def marks (p j : Bool) (s : State) : State :=
  let a := j && s.ignoreA == 0
  let b := p && s.ignoreB == 0
  if a then (if b && !markARepeats s then markB (markA s) else markA s)
  else if b then markB s else s

end Sys2Proof.Machine
end

