-- ==== Sys2Proof/Machine/Eonce.lean ====
section
/-! DEFINITION. What the EOnCE does: debug requests, the counter, the trace buffer, event detection and the event selector
(spec/49_eonce_debug.md R709 to R742). -/

namespace Sys2Proof.Machine

/-! ### Debug state and debug exception (R720) -/

/-- A request of the debug exception, with the debug-reason bits it sets in ESR; with PICINT set it goes to the off-core interrupt
controller instead, whose request line then stays asserted (R710, R720; log 63). -/
def debugException (s : State) (reason : Word) : State :=
  if s.eonce.emcr.getLsbD 25 then { s with eonce := { s.eonce with picint := true } }
  else
    { s with
      reqDebug := true
      eonce := { s.eonce with emcr := s.eonce.emcr ||| 0x00008000#32, esr := s.eonce.esr ||| reason } }

/-- A request of debug state: the debug exception if IME is set (R720).  In debug state only the reason is recorded (R709). -/
def debugStateRequest (s : State) (reason : Word) : State :=
  if s.eonce.emcr.getLsbD 16 then debugException s reason
  else { s with eonce := { s.eonce with dbgReq := s.eonce.dbgReq || s.proc != .debug, esr := s.eonce.esr ||| reason } }

/-- The EE outputs that show a status: EE1 debug acknowledge, EE3 ERCV full, EE4 ETRSMT ready (R714). -/
def mirrorPins (s : State) : State :=
  let e := s.eonce
  let show1 (x : BitVec 7) (i : Nat) (b : Bool) : BitVec 7 := if b then x ||| (1#7 <<< i) else x &&& ~~~(1#7 <<< i)
  let field (lo : Nat) : BitVec 2 := e.eeCtrl.extractLsb' lo 2
  let o1 := if field 2 = 1#2 then show1 e.eeOut 1 (s.proc == .debug) else e.eeOut
  let o2 := if field 6 = 1#2 then show1 o1 3 (e.esr.getLsbD 27) else o1
  let o3 := if field 8 = 1#2 then show1 o2 4 (e.esr.getLsbD 26) else o2
  { s with eonce := { e with eeOut := o3 } }

/-- The debug state (R707, R720). -/
def debugState (s : State) : State := mirrorPins { s with proc := .debug, eonce := { s.eonce with dbgReq := false } }

/-- PC_NEXT holds the address of the next set if the EOnCE is enabled (R713). -/
def samplePcNext (s : State) : State :=
  if s.eonce.enabled then { s with eonce := { s.eonce with pcNext := s.pc } } else s

/-- Leaving debug state: the debug reasons are cleared and PC_DETECT can sample again (R709, R713). -/
def exitDebug (s : State) : State :=
  mirrorPins { s with
    proc := .execution
    eonce := { s.eonce with esr := s.eonce.esr &&& ~~~0x1001FFFF#32, pcDetectHeld := false } }

/-! ### Counter and trace buffer (R730, R731, R740) -/

/-- ECNTEN (R731). -/
def ecntEn (e : Eonce) : Nat := (e.ecntCtrl.toNat >>> 4) % 16
/-- ECNTWHAT. -/
def ecntWhat (e : Eonce) : Nat := e.ecntCtrl.toNat % 16

/-- One counted event (R730): down to zero, where the regular mode stops with a count event and the extended mode counts the
extension up. -/
def countOne (e : Eonce) : Eonce :=
  if e.ecntVal = 0#32 then { e with ecntVal := 0x7FFFFFFF#32 }
  else if e.ecntVal = 1#32 then
    if e.ecntCtrl.getLsbD 8 then { e with ecntVal := 0#32, ecntExt := (e.ecntExt + 1) &&& 0x7FFFFFFF#32 }
    else { e with ecntVal := 0#32, ecntCtrl := e.ecntCtrl &&& 0xFF0F#16, evs := e.evs ||| 0x200#18 }
  else { e with ecntVal := e.ecntVal - 1 }

/-- Count an event of a kind if `on` is the counter's setting for it. -/
def countIf (on : Eonce) (what : Nat) (e : Eonce) : Eonce :=
  if ecntEn on = 15 ∧ ecntWhat on = what then countOne e else e

/-- Put a value at a place of the trace buffer; entries past the end of the list are 0. -/
def tbPut (tb : List Word) (i : Nat) (v : Word) : List Word :=
  match tb, i with
  | [], 0 => [v]
  | [], i + 1 => 0#32 :: tbPut [] i v
  | _ :: rest, 0 => v :: rest
  | x :: rest, i + 1 => x :: tbPut rest i v

/-- Write one entry of the trace buffer: the pointer wraps, TBFULL is set 15 entries before the end, and with TBFDM that asks for
debug state (R740).  A buffer of no entries takes nothing. -/
def tracePush (s : State) (v : Word) : State :=
  let e := s.eonce
  let size := s.params.tbSize
  if e.tbWr.toNat < size then
    let next : BitVec 16 := if e.tbWr.toNat + 1 < size then e.tbWr + 1 else 0#16
    let full := next.toNat + 15 == size
    let e1 := countIf e 10 { e with tb := tbPut e.tb e.tbWr.toNat v, tbWr := next }
    let s1 := { s with eonce := { e1 with esr := if full then e1.esr ||| 0x02000000#32 else e1.esr } }
    if full && !e.esr.getLsbD 25 && e.emcr.getLsbD 23 then debugStateRequest s1 0x00010000#32 else s1
  else s

/-- TEN and a mode bit of TB_CTRL (R741), in an enabled EOnCE (R705). -/
def tracing (e : Eonce) (mode : Nat) : Bool := e.enabled && e.tbCtrl.getLsbD 4 && e.tbCtrl.getLsbD mode

/-- A destination address and the counter values that go with it (R740): those before these entries, and the set, are counted (log 20;
DESIGN CHOICE). -/
def traceDest (s : State) (a : Word) : State :=
  let s1 := tracePush s (a &&& pcMask)
  let s2 := if s.eonce.tbCtrl.getLsbD 6 then tracePush s1 (s.eonce.ecntVal <<< 1) else s1
  if s.eonce.tbCtrl.getLsbD 6 && s.eonce.tbCtrl.getLsbD 7 then tracePush s2 (s.eonce.ecntExt <<< 1) else s2

/-- A source address, its LSB set, and its destination (R740). -/
def traceJump (s : State) (src dst : Word) : State := traceDest (tracePush s (src ||| 1#32)) dst

/-- A taken change of flow (TCHOF, R740). -/
def traceCof (s : State) (dst : Word) : State := if tracing s.eonce 0 then traceJump s s.pc dst else s

/-- An interrupt or exception: the last executed set and the vector (TINT, R740). -/
def traceInt (s : State) (src dst : Word) : State := if tracing s.eonce 1 then traceJump s src dst else s

/-- The end of a loop that is repeated: the last address, and the start address of a long loop (TLOOP, R740). -/
def traceLoop (s : State) (dst : Word) : State :=
  if tracing s.eonce 5 then (if shortLoop s then tracePush s (s.pc ||| 1#32) else traceJump s s.pc dst) else s

/-- The address of every set, with T as it was before the set (TEXEC, R740). -/
def traceExec (b : Eonce) (t : Bool) (s : State) : State :=
  if tracing b 2 then tracePush s ((s.pc &&& pcMask) ||| (BitVec.ofBool t).setWidth 32) else s

/-! ### Event detection (R725 to R728) -/

/-- A comparison of EDCA and EDCD: equal, not equal, greater, less, on unsigned numbers. -/
def compareBy (code : BitVec 2) (x y : Word) : Bool :=
  match code.toNat with
  | 0 => x == y
  | 1 => x != y
  | 2 => BitVec.ult y x
  | _ => BitVec.ult x y

/-- The bus of an access: XABB if `true`.  Which unit drives which bus is free (N69; log 7), tag 11. -/
def busOf (s : State) (x : Access) : Bool := x.unit != (free 1 s 11 == 1#1)

/-- The bits of an address that an access of `w` bytes leaves to the comparison (R727). -/
def widthMask (w : Nat) : Word := ~~~(BitVec.ofNat 32 w - 1)

/-- Does a channel's access type take this access (ATS, R726)? -/
def atsTakes (c : BitVec 16) (x : Access) : Bool :=
  match (c.toNat >>> 2) % 4 with
  | 0 => !x.write
  | 1 => x.write
  | 2 => true
  | _ => false

/-- Comparator A (`false`) or B (`true`) of channel i on an address. -/
def comparator (e : Eonce) (i : Fin 6) (b : Bool) (addr keep : Word) : Bool :=
  let m := e.edcaMask.get i &&& keep
  let c := e.edcaCtrl.get i
  if b then compareBy (c.extractLsb' 6 2) (addr &&& m) (e.edcaRefB.get i &&& m)
  else compareBy (c.extractLsb' 4 2) (addr &&& m) (e.edcaRefA.get i &&& m)

/-- Combine the two comparators (CS, R726). -/
def combine (cs : Nat) (a b : Bool) : Bool :=
  match cs with
  | 0 => a
  | 1 => b
  | 2 => a && b
  | _ => a || b

/-- Does channel i detect access x of the set (R726, R727)?  Where one bus is selected, both comparators look at it; both buses with CS 00
or 01, which R726 forbids, are XABA with REFA alone or XABB with REFB alone (log 67; DESIGN CHOICE).  With A AND B on both buses it takes
an access on each. -/
def edcaTakes (e : Eonce) (s : State) (i : Fin 6) (x : Access) : Bool :=
  let c := e.edcaCtrl.get i
  let cs := (c.toNat >>> 8) % 4
  let at1 (b : Bool) (y : Access) : Bool := atsTakes c y && comparator e i b y.addr (widthMask y.width)
  let both : Bool := combine cs (at1 false x) (at1 true x)
  let own (y : Access) : Bool := at1 (busOf s y) y
  edcaOn c &&
    match c.toNat % 4 with
    | 0 => !busOf s x && both
    | 1 => busOf s x && both
    | 2 =>
      own x && (match cs with
        | 0 => !busOf s x
        | 1 => busOf s x
        | 2 => s.acc.any fun y => busOf s y != busOf s x && own y
        | _ => true)
    | _ => false

/-- Does channel i detect the PC of the set, which it does not for the first set after it was enabled (R726)? -/
def edcaPc (e : Eonce) (s : State) (i : Fin 6) : Bool :=
  let c := e.edcaCtrl.get i
  edcaOn c && c.toNat % 4 == 3 && e.edcaLive.getLsbD i.val
    && combine ((c.toNat >>> 8) % 4) (comparator e i false s.pc 0xFFFFFFFF#32) (comparator e i true s.pc 0xFFFFFFFF#32)

/-- Does EDCD detect this access (R728)?  Its element size is the AWS width; any element may match, and for `not equal` all must.
Each element is masked with the low bits of EDCD_MASK (log 10). -/
def edcdTakes (e : Eonce) (x : Access) : Bool :=
  let c := e.edcdCtrl
  let bytes := 2 ^ ((c.toNat >>> 8) % 4)
  let keep : Word := BitVec.ofNat 32 (2 ^ (8 * bytes) - 1)
  let code := c.extractLsb' 1 2
  let hit (v : Word) : Bool := compareBy code (v &&& e.edcdMask &&& keep) (e.edcdRef &&& keep)
  let en := (c.toNat >>> 3) % 16
  (en == 15 || en == 11) && bytes != 8 && x.esize == bytes && x.write == c.getLsbD 0
    && (if code = 1#2 then x.data.all hit else x.data.any hit)

/-- Event bits of the six channels. -/
def bits6 (f : Fin 6 → Bool) : BitVec 18 :=
  (List.finRange 6).foldl (fun x i => if f i then x ||| (1#18 <<< i.val) else x) 0#18

/-- The data events of each access of a set, and its PC events. -/
structure Detected where
  byAccess : List (BitVec 18)
  pcs : BitVec 18

/-- The data events of a set.  Several accesses that one channel detects are one event of it (log 76; DESIGN CHOICE). -/
def Detected.data (d : Detected) : BitVec 18 := d.byAccess.foldl (· ||| ·) 0#18

/-- What the EDU detects in a set (R725 to R728), with the registers as they were before it. -/
def detect (e : Eonce) (s : State) : Detected :=
  { byAccess := s.acc.map fun x => bits6 (fun i => edcaTakes e s i x) ||| if edcdTakes e x then 0x100#18 else 0#18
    pcs := bits6 (edcaPc e s) }

/-- Toggle the EE outputs that show detections (R714); they toggle for every set that detects, also for two in a row (log 75; DESIGN
CHOICE). -/
def togglePins (e : Eonce) (evs : BitVec 18) : Eonce :=
  let t (i lo : Nat) : BitVec 7 := if e.eeCtrl.extractLsb' lo 2 = 0#2 && evs.getLsbD i then 1#7 <<< i else 0#7
  let t5 : BitVec 7 := if !e.eeCtrl.getLsbD 10 && evs.getLsbD 5 then 0x20#7 else 0#7
  let td : BitVec 7 := if !e.eeCtrl.getLsbD 15 && evs.getLsbD 8 then 0x40#7 else 0#7
  { e with eeOut := e.eeOut ^^^ (t 0 0 ||| t 1 2 ||| t 2 4 ||| t 3 6 ||| t 4 8 ||| t5 ||| td) }

/-- Is an enabling code 1 to 8 that of an event EDCA0..EDCA5, EDCA6, EDCA7? -/
def codeHit (evs : BitVec 18) (code : Nat) : Bool := decide (1 ≤ code ∧ code ≤ 8) && evs.getLsbD (code - 1)

/-- EDCAEN after events: 1111 if one of them is the enabling one (R726). -/
def edcaEnable (evs : BitVec 18) (c : BitVec 16) : BitVec 16 :=
  let k := (c.toNat >>> 10) % 16
  if codeHit evs k || (k == 9 && evs.getLsbD 8) || (k == 10 && evs.getLsbD 9) then c ||| 0x3C00#16 else c

/-- EDCDEN after events (R728). -/
def edcdEnable (evs : BitVec 18) (c : BitVec 16) : BitVec 16 :=
  let k := (c.toNat >>> 3) % 16
  if codeHit evs k || (k == 9 && evs.getLsbD 9) then c ||| 0x0078#16 else c

/-- The event that the counter's enabling code names has come (R731). -/
def ecntHit (evs : BitVec 18) (k : Nat) : Bool :=
  codeHit evs k || (k == 9 && evs.getLsbD 8) || (k == 10 && evs.getLsbD 13)

/-- The ECNTWHAT of the event that an enabling code names; EE2 cannot be counted (R731). -/
def codeWhat (k : Nat) : Option Nat := if k = 10 then none else some (k - 1)

/-- Count the detections, DEBUGEV and the set itself, and enable the counter (R730, R731): the enabling event is counted if it is
what is counted.  `b` is the EOnCE before the set: what the set itself writes to ECNT_CTRL does not decide what is counted, and what it
writes to ECNT_VAL is counted down (log 73; DESIGN CHOICE).  An event of a set is one occurrence, however many accesses of the set one
channel detects (log 76; DESIGN CHOICE). -/
def countEvents (b : Eonce) (vles : Bool) (e : Eonce) : Eonce :=
  let hit := ecntHit e.evs (ecntEn b)
  let seen : Bool :=
    let w := ecntWhat b
    (w < 9 && e.evs.getLsbD w) || (w == 9 && e.evs.getLsbD 10) || (w == 11 && vles)
  if ecntEn b = 15 then (if seen then countOne e else e)
  else if hit then
    let e1 := { e with ecntCtrl := e.ecntCtrl ||| 0x00F0#16 }
    if codeWhat (ecntEn b) = some (ecntWhat b) then countOne e1 else e1
  else e

/-- Is a source of the event selector on (R721)? -/
def sourceOn (evs : BitVec 18) (x : EselSource) : Bool :=
  match x with
  | .edca i => evs.getLsbD i.val
  | .extEdca i => evs.getLsbD (6 + i.val)
  | .edcd => evs.getLsbD 8
  | .counter => evs.getLsbD 9
  | .debugev => evs.getLsbD 10
  | .ee i => evs.getLsbD (11 + i.val)
  | .eed => evs.getLsbD 17

/-- The sources that a mask register selects: bits from `j` up. -/
def selected (mask : BitVec 16) (srcs : List (Option EselSource)) (j : Nat) : List EselSource :=
  match srcs with
  | [] => []
  | x :: rest =>
    match x, mask.getLsbD j with
    | some y, true => y :: selected mask rest (j + 1)
    | _, _ => selected mask rest (j + 1)

/-- Does the selector act: any selected source on, or all of them (R721)?  Under AND with EDCD the data events of the channels must be of
the access that EDCD detects, an address and data pair. -/
def selects (d : Detected) (evs : BitVec 18) (srcs : List EselSource) (all : Bool) : Bool :=
  let other := evs &&& ~~~d.data ||| d.pcs
  if !all then srcs.any (sourceOn evs)
  else if srcs.contains .edcd then d.byAccess.any fun x => srcs.all (sourceOn (other ||| x))
  else !srcs.isEmpty && srcs.all (sourceOn evs)

/-- The debug-reason bit of a source (R709); EE5 and EED have none. -/
def reasonOf (x : EselSource) : Word :=
  match x with
  | .edca i => 1#32 <<< i.val
  | .extEdca i => 1#32 <<< (6 + i.val)
  | .edcd => 0x100#32
  | .counter => 0x200#32
  | .debugev => 0x8000#32
  | .ee i => if i.val < 5 then 1#32 <<< (10 + i.val) else 0#32
  | .eed => 0#32

/-- The debug-reason bits of the sources that are on. -/
def reasons (evs : BitVec 18) (srcs : List EselSource) : Word :=
  srcs.foldl (fun r x => if sourceOn evs x then r ||| reasonOf x else r) 0#32

/-- Is a source a data event of the set (R713)? -/
def isDataEvent (d : Detected) (x : EselSource) : Bool :=
  match x with
  | .edca i => d.data.getLsbD i.val
  | .edcd => d.data.getLsbD 8
  | _ => false

/-- The event selector acts on the events of a set, and the events are dropped (R721).  PC_DETECT samples if debug state is what
follows (R713).  AND takes whatever sources are selected, and of an event that enables and disables tracing the disabling wins (log 71;
DESIGN CHOICE). -/
def selectEvents (d : Detected) (s : State) : State :=
  let e := s.eonce
  let evs := e.evs
  let src (m : BitVec 16) : List EselSource := selected m s.params.eselMap 0
  let dm := src e.eselDm
  let di := src e.eselDi
  let s1 :=
    if selects d evs dm (e.eselCtrl.getLsbD 0) then
      let sample := dm.any (isDataEvent d) && !e.pcDetectHeld && !e.emcr.getLsbD 16
      let e1 := if sample then { e with pcDetect := s.pc, pcDetectHeld := true } else e
      debugStateRequest { s with eonce := e1 } (reasons evs dm)
    else s
  let s2 := if selects d evs di (e.eselCtrl.getLsbD 1) then debugException s1 (reasons evs di) else s1
  let e2 := s2.eonce
  let e3 :=
    if selects d evs (src e.eselEtb) (e.eselCtrl.getLsbD 3) && !e2.tbCtrl.getLsbD 4 then
      tbEnable { e2 with tbCtrl := e2.tbCtrl ||| 0x10#16 }
    else e2
  let e4 :=
    if selects d evs (src e.eselDtb) (e.eselCtrl.getLsbD 4) then { e3 with tbCtrl := e3.tbCtrl &&& 0xFFEF#16 } else e3
  { s2 with eonce := { e4 with evs := 0#18 } }

/-- The channels that were enabled through the whole of a set: `b` and `e` are the EOnCE before and after it (R726). -/
def liveChannels (b e : Eonce) : BitVec 6 :=
  (bits6 fun i => b.enabled && edcaOn (b.edcaCtrl.get i) && edcaOn (e.edcaCtrl.get i)).setWidth 6

/-- The events of a set, or of the outside, take their effects: status bits, pins, counter, enabling, selector. `b` is the EOnCE
as it was before the set; as long as it is disabled its modules do nothing (R705).  A detection sets its bit of EMCR also where the set
clears it (log 31; DESIGN CHOICE). -/
def eonceEvents (b : Eonce) (d : Detected) (vles : Bool) (s : State) : State :=
  if !b.enabled then { s with eonce := { s.eonce with evs := 0#18 } } else
  let evs := s.eonce.evs ||| d.data ||| d.pcs
  let e1 := togglePins { s.eonce with evs := evs, emcr := s.eonce.emcr ||| (evs.setWidth 32 &&& 0x1FF#32) } evs
  let e2 := countEvents b vles e1
  let e3 := { e2 with edcaCtrl := e2.edcaCtrl.map (edcaEnable e2.evs), edcdCtrl := edcdEnable e2.evs e2.edcdCtrl }
  selectEvents d { s with eonce := e3 }

/-- Nothing detected. -/
def Detected.none : Detected := { byAccess := [], pcs := 0#18 }

/-- The events of the outside that are pending take their effects (R721). -/
def settle (s : State) : State := mirrorPins (eonceEvents s.eonce Detected.none false s)

/-- Entering debug state between two sets: PC_NEXT holds the address of the next one (R713).  Events that are still pending, such as
the assertion of EE0 that asks for it, take their effects now and ask for it no second time (R720, log 24). -/
def enterDebug (s : State) : State := settle (debugState (samplePcNext s))

end Sys2Proof.Machine
end

