-- ==== Sys2Proof/Machine/Control.lean ====
section
/-! DEFINITION. The program-control and the prefix instructions (spec/48_program_control_prefix.md R470 to R482). -/

namespace Sys2Proof.Machine

/-- What DEBUG asks for: debug state, or the debug exception if IME is set (R470, R720). -/
def debugRequest (s : State) : State :=
  if s.eonce.emcr.getLsbD 16 then debugException s 0x8000#32
  else debugState { s with eonce := { s.eonce with esr := s.eonce.esr ||| 0x8000#32 } }

/-- DEBUG: debug state at the end of the set, or the debug exception if IME is set (R470, R720, D45, D47). -/
def execDebug (s : State) : Res State := .next (debugRequest s)

/-- DEBUGEV: an event of the EOnCE, nothing before the EOnCE is enabled (R471, R720). -/
def execDebugev (s : State) : Res State :=
  .next (if s.eonce.enabled then { s with eonce := { s.eonce with evs := s.eonce.evs ||| 0x400#18 } } else s)

/-- DI (R472). -/
def execDi (s : State) : Res State := .next (setSrBit s 19 true)

/-- EI (R473). -/
def execEi (s : State) : Res State := .next (setSrBit s 19 false)

/-- ILLEGAL: the request and ILIN, whichever of the three candidate words it is (R474).  It is an instruction of its own: the others of
its set execute beside it (log 56; DESIGN CHOICE). -/
def execIllegal (_c : Fin 3) (s : State) : Res State := .next (illegalInstruction s)

/-- The trace entry of MARK, if TEN and TMARK are set in an enabled EOnCE (R475, R740). -/
def markTrace (s : State) : State := if tracing s.eonce 3 then tracePush s s.pc else s

/-- MARK: PC into the trace buffer if TEN and TMARK are set in an enabled EOnCE (R475, R705, R740). -/
def execMark (s : State) : Res State := .next (markTrace s)

/-- STOP (R476). -/
def execStop (s : State) : Res State := .next { s with proc := .stop }

/-- WAIT (R477). -/
def execWait (s : State) : Res State := .next { s with proc := .wait }

/-- The condition field of a set (R155). -/
def withIfc (s : State) (ccc : BitVec 3) : State := { s with ifc := ccc }

/-- IFA: ccc 000 (R478). -/
def execIfa (_aaa : BitVec 3) (s : State) : Res State := .next (withIfc s 0#3)

/-- IFT: ccc 010 (R480). -/
def execIft (_aaa : BitVec 3) (s : State) : Res State := .next (withIfc s 2#3)

/-- IFF: ccc 011 (R479). -/
def execIff (_aaa : BitVec 3) (s : State) : Res State := .next (withIfc s 3#3)

/-- LPMARKA (R481). -/
def execLpmarka (_aaa : BitVec 3) (s : State) : Res State := .next (marks false true s)

/-- LPMARKB (R481). -/
def execLpmarkb (_aaa : BitVec 3) (s : State) : Res State := .next (marks true false s)

/-- NOP (R482). -/
def execNop (s : State) : Res State := .next s

/-- A one-word prefix: its condition and its marks (R153, R155, R481); a reserved ccc is an illegal instruction (R179, D43). -/
def execPrefix1 (_aaa : BitVec 3) (p j : Bool) (ccc : BitVec 3) (s : State) : Res State :=
  .next (if cccOk ccc then marks p j (withIfc s ccc) else illegalInstruction s)

/-- A two-word prefix: its condition and its marks (R154, R155, R481); a reserved ccc or length is an illegal instruction (R179,
D43). -/
def execPrefix2 (aaa : BitVec 3) (_hb : BitVec 16) (p j : Bool) (ccc : BitVec 3) (s : State) : Res State :=
  .next (if cccOk ccc && decide (2 ≤ aaa.toNat) then marks p j (withIfc s ccc) else illegalInstruction s)

end Sys2Proof.Machine
end

