-- ==== Sys2Proof/Machine/Dalu.lean ====
section
/-! DEFINITION. The non-multiply DALU arithmetic instructions (spec/40_dalu_arith.md R210 to R248). -/

namespace Sys2Proof.Machine

/-- ABS (R210). -/
def execAbs (n : DReg) (s : State) : Res State := .next (writeArith s n (sD s n).natAbs)

/-- A sum with its carry out of bit 39 (R205, R212). -/
def addTo (s : State) (n : DReg) (a b : DWord) : State := setC (writeArith s n (a.toInt + b.toInt)) (carryOut a b 0)

/-- A difference `a - b` with its borrow (R205, R239). -/
def subTo (s : State) (n : DReg) (a b : DWord) : State := setC (writeArith s n (a.toInt - b.toInt)) (borrowOut a b 0)

/-- ADD #u5,Dn (R212). -/
def execAddImm (u : BitVec 5) (n : DReg) (s : State) : Res State := .next (addTo s n (dreg s n) (u.setWidth 40))

/-- ADD Da,Db,Dn (R212). -/
def execAddReg (a b n : DReg) (s : State) : Res State := .next (addTo s n (dreg s a) (dreg s b))

/-- ADD Da,Da,Dn of an odd pair (R212). -/
def execAddSame (a b n : DReg) (s : State) : Res State := .next (addTo s n (dreg s a) (dreg s b))

/-- ADD2 (R213): the extension byte is free, tag 1 (U8). -/
def execAdd2 (a n : DReg) (s : State) : Res State :=
  .next (setD s n (free 8 s 1 ++ ((dHigh s a + dHigh s n) ++ (dLow s a + dLow s n))) false)

/-- ADDNC.W (R214). -/
def execAddnc (x : BitVec 16) (a n : DReg) (s : State) : Res State := .next (writeArith s n (sD s a + x.toInt))

/-- ADR (R215). -/
def execAdr (a n : DReg) (s : State) : Res State := .next (writeArith s n (rnd s (sD s a + sD s n)))

/-- ASL (R216). -/
def execAsl (a n : DReg) (s : State) : Res State :=
  .next (setC (writeArith s n (2 * sD s a)) ((dreg s a).getLsbD 39))

/-- ASR (R217). -/
def execAsr (a n : DReg) (s : State) : Res State :=
  .next (setC (writeArith s n (sD s a / 2)) ((dreg s a).getLsbD 0))

/-- Dn, its limit tag and C become 0, whatever SR says (R218, R645). -/
def clear (s : State) (n : DReg) : State := setC (setD s n 0#40 false) false

/-- CLR (R218); the source Da does not matter. -/
def execClr (_a n : DReg) (s : State) : Res State := .next (clear s n)

/-- The difference of two registers, `a - b`; that of a register and itself is CLR (R218, R239). -/
def subRegs (s : State) (n a b : DReg) : State := if a = b then clear s n else subTo s n (dreg s a) (dreg s b)

/-- CMPEQ Da,Dn (R219). -/
def execCmpeq (a n : DReg) (s : State) : Res State := .next (setT s (dreg s a == dreg s n))

/-- CMPEQ.W #u5,Dn (R219). -/
def execCmpeqU (u : BitVec 5) (n : DReg) (s : State) : Res State := .next (setT s (dreg s n == u.setWidth 40))

/-- CMPEQ.W #s16,Dn (R219). -/
def execCmpeqS (x : BitVec 16) (n : DReg) (s : State) : Res State := .next (setT s (dreg s n == x.signExtend 40))

/-- CMPGT Da,Dn (R220): Dn is the left side. -/
def execCmpgt (a n : DReg) (s : State) : Res State := .next (setT s (decide (sD s a < sD s n)))

/-- CMPGT.W #u5,Dn (R220). -/
def execCmpgtU (u : BitVec 5) (n : DReg) (s : State) : Res State := .next (setT s (decide ((u.toNat : Int) < sD s n)))

/-- CMPGT.W #s16,Dn (R220). -/
def execCmpgtS (x : BitVec 16) (n : DReg) (s : State) : Res State := .next (setT s (decide (x.toInt < sD s n)))

/-- CMPHI (R221): bits 31:0, unsigned.  It writes T alone, as its page says; that R44 (c) lists it among the instructions that
clear Ln is not followed (log 61; DESIGN CHOICE). -/
def execCmphi (a n : DReg) (s : State) : Res State := .next (setT s ((dLong s a).ult (dLong s n)))

/-- DECGE (R223). -/
def execDecge (n : DReg) (s : State) : Res State :=
  let x := sD s n - 1
  .next (setT (setC (writeWrap s n x) (borrowOut (dreg s n) 1#40 0)) (decide (0 ≤ x)))

/-- DIV (R224): one step of a non-restoring division. -/
def execDiv (a n : DReg) (s : State) : Res State :=
  let m : DWord := dreg s a &&& 0xFFFFFF0000#40
  let x : Int :=
    if (dreg s n).getLsbD 39 != (dreg s a).getLsbD 39 then 2 * sD s n + carryNat s + m.toInt
    else 2 * sD s n + carryNat s - m.toInt
  let moved := (dreg s n).getLsbD 39 != (dreg s n).getLsbD 38
  .next (setC (overflowIf moved (writeArith6 s n x)) (!(wrap40 x).getLsbD 39))

/-- IADDNC.W (R225). -/
def execIaddnc (x : BitVec 16) (n : DReg) (s : State) : Res State := .next (writeWrap s n (sD s n + x.toInt))

/-- INC (R226). -/
def execInc (n : DReg) (s : State) : Res State := .next (addTo s n (dreg s n) 1#40)

/-- INC, the word of the Example 5-13 listing (R226, D56). -/
def execIncListed (n : DReg) (s : State) : Res State := .next (addTo s n (dreg s n) 1#40)

/-- INC.F (R227). -/
def execIncF (n : DReg) (s : State) : Res State := .next (addTo s n (dreg s n) 0x10000#40)

/-- MAX (R228). -/
def execMax (g h : DReg) (s : State) : Res State :=
  .next (setD s h (if sD s h < sD s g then dreg s g else dreg s h) false)

/-- The two halves of MAX2VIT: Db's new value and the two Viterbi flags in SR bits `lo` and `lo + 1` (R230, D26). -/
def max2vit (a b : DReg) (lo : Nat) (s : State) : State :=
  let keepLow := decide ((dLow s a).toInt ≤ (dLow s b).toInt)
  let keepHigh := decide ((dHigh s a).toInt ≤ (dHigh s b).toInt)
  let v := dExt s b ++ ((if keepHigh then dHigh s b else dHigh s a) ++ (if keepLow then dLow s b else dLow s a))
  setSrBit (setSrBit (setD s b v false) lo keepLow) (lo + 1) keepHigh

/-- MAX2VIT D4,D2 or D12,D10: VF0 and VF1 (R230). -/
def execMax2vitA (a b : DReg) (s : State) : Res State := .next (max2vit a b 8 s)

/-- MAX2VIT D0,D6 or D8,D14: VF2 and VF3 (R230). -/
def execMax2vitB (a b : DReg) (s : State) : Res State := .next (max2vit a b 10 s)

/-- MIN (R232). -/
def execMin (g h : DReg) (s : State) : Res State :=
  .next (setD s h (if sD s g < sD s h then dreg s g else dreg s h) false)

/-- NEG (R233). -/
def execNeg (n : DReg) (s : State) : Res State := .next (writeArith s n (0 - sD s n))

/-- RND (R234). -/
def execRnd (a n : DReg) (s : State) : Res State := .next (writeRounded s n (rnd s (sD s a)))

/-- SAT.L (R236). -/
def execSatL (n : DReg) (s : State) : Res State :=
  .next (if 0x7FFFFFFF < sD s n then overflow (setD s n 0x007FFFFFFF#40 false)
    else if sD s n < -2 ^ 31 then overflow (setD s n 0xFF80000000#40 false)
    else setD s n (dreg s n) false)

/-- SBC (R237). -/
def execSbc (c d : DReg) (s : State) : Res State :=
  .next (setC (writeArith6 s d (sD s d - sD s c - carryNat s)) (borrowOut (dreg s d) (dreg s c) (carryNat s)))

/-- SBR (R238). -/
def execSbr (a n : DReg) (s : State) : Res State := .next (writeArith s n (rnd s (sD s n - sD s a)))

/-- SUB #u5,Dn (R239). -/
def execSubImm (u : BitVec 5) (n : DReg) (s : State) : Res State := .next (subTo s n (dreg s n) (u.setWidth 40))

/-- SUB, the row `F00J JJJJ`: second minus first (R239, D27). -/
def execSubReg (a b n : DReg) (s : State) : Res State := .next (subRegs s n b a)

/-- SUB, the row `F01J JJJJ`: first minus second (R239, D27). -/
def execSubRegSwap (a b n : DReg) (s : State) : Res State := .next (subRegs s n a b)

/-- SUB Da,Da,Dn of an odd pair (R239), which is CLR (R218).  Where the prefix puts the two readings in different banks it is second minus
first (log 74; DESIGN CHOICE). -/
def execSubSame (a b n : DReg) (s : State) : Res State := .next (subRegs s n b a)

/-- SUB2 (R240): the extension byte is free, tag 1 (U8). -/
def execSub2 (a n : DReg) (s : State) : Res State :=
  .next (setD s n (free 8 s 1 ++ ((dHigh s n - dHigh s a) ++ (dLow s n - dLow s a))) false)

/-- SUBL (R241): the shift left of Dn counts as an overflow when it changes its sign. -/
def execSubl (a n : DReg) (s : State) : Res State :=
  let moved := (dreg s n).getLsbD 39 != (dreg s n).getLsbD 38
  .next (setC (overflowIf moved (writeArith s n (2 * sD s n - sD s a))) (borrowOut (dreg s n <<< 1) (dreg s a) 0))

/-- SUBNC.W (R242). -/
def execSubnc (x : BitVec 16) (n : DReg) (s : State) : Res State := .next (writeArith s n (sD s n - x.toInt))

/-- A transfer with its limit tag calculated again (R243). -/
def transfer (s : State) (a n : DReg) : State := setD s n (dreg s a) (lnCalc6 s (dreg s a))

/-- TFR (R243). -/
def execTfr (a n : DReg) (s : State) : Res State := .next (transfer s a n)

/-- TFRF (R244). -/
def execTfrf (a n : DReg) (s : State) : Res State := .next (if tBit s then s else transfer s a n)

/-- TFRT (R245). -/
def execTfrt (a n : DReg) (s : State) : Res State := .next (if tBit s then transfer s a n else s)

/-- TSTEQ (R246). -/
def execTsteq (n : DReg) (s : State) : Res State := .next (setT s (dreg s n == 0#40))

/-- TSTGE (R247). -/
def execTstge (n : DReg) (s : State) : Res State := .next (setT s (decide (0 ≤ sD s n)))

end Sys2Proof.Machine
end

