-- ==== Sys2Proof/Machine/Logical.lean ====
section
/-! DEFINITION. The DALU logical, shift and bit-field instructions (spec/42_dalu_logical.md R290 to R313). -/

namespace Sys2Proof.Machine

/-- A result of the bit-field unit: the register, its limit tag cleared. -/
def writeBits (s : State) (n : DReg) (v : DWord) : State := setD s n v false

/-- AND #0{u16},Da,Dn (R290). -/
def execAndImmLow (u : BitVec 16) (a n : DReg) (s : State) : Res State :=
  .next (writeBits s n (dreg s a &&& u.setWidth 40))

/-- AND #{u16}0000,Da,Dn (R290). -/
def execAndImmHigh (u : BitVec 16) (a n : DReg) (s : State) : Res State :=
  .next (writeBits s n (dreg s a &&& (u ++ 0#16).signExtend 40))

/-- AND Da,Dn (R290). -/
def execAndReg (a n : DReg) (s : State) : Res State := .next (writeBits s n (dreg s a &&& dreg s n))

/-- A shift of Dn left by `k` (1..40): the last bit shifted out goes to C (R291, R300). -/
def shiftLeft (s : State) (n : DReg) (k : Nat) : State :=
  setC (writeBits s n (dreg s n <<< k)) ((dreg s n).getLsbD (40 - k))

/-- A shift of Dn right by `k` (1..40), arithmetic or logical: the last bit shifted out goes to C (R291, R300). -/
def shiftRight (s : State) (n : DReg) (k : Nat) (arith : Bool) : State :=
  setC (writeBits s n (if arith then (dreg s n).sshiftRight k else dreg s n >>> k)) ((dreg s n).getLsbD (k - 1))

/-- A shift by `k` places, left if positive; by 0, C is cleared (D15).  `arith`: a right shift copies the sign and a left shift can
overflow (R291, R293). -/
def shiftBy (s : State) (n : DReg) (k : Int) (arith : Bool) : State :=
  if k = 0 then setC (writeBits s n (dreg s n)) false
  else if 0 < k then overflowIf (arith && outside40 (sD s n * 2 ^ k.toNat)) (shiftLeft s n k.toNat)
  else shiftRight s n (-k).toNat arith

/-- The signed shift amount Da[6:0] (R291). -/
def shiftAmount (s : State) (a : DReg) : Int := ((dreg s a).extractLsb' 0 7).toInt

/-- Is a register-held shift amount in the stated range -40..40 (U9)? -/
def shiftInRange (k : Int) : Bool := decide (-40 ≤ k) && decide (k ≤ 40)

/-- A shift by an amount outside -40..40: Dn and C are free, tags 1 and 2 (U9); an arithmetic shift left, whose DOVF the spec gives
without reference to the range, overflows as it would (R291). -/
def shiftUndefined (s : State) (n : DReg) (k : Int) (arith : Bool) : State :=
  overflowIf (arith && decide (0 < k) && outside40 (sD s n * 2 ^ k.toNat))
    (setC (writeBits s n (free 40 s 1)) (freeBit s 2))

/-- A shift by a register amount, left if positive (R291, R293, R300, R302). -/
def shiftReg (s : State) (n : DReg) (k : Int) (arith : Bool) : State :=
  if shiftInRange k then shiftBy s n k arith else shiftUndefined s n k arith

/-- ASLL #u5,Dn (R291). -/
def execAsllImm (u : BitVec 5) (n : DReg) (s : State) : Res State := .next (shiftBy s n u.toNat true)

/-- ASLL Da,Dn (R291). -/
def execAsllReg (a n : DReg) (s : State) : Res State := .next (shiftReg s n (shiftAmount s a) true)

/-- ASLW (R292). -/
def execAslw (a n : DReg) (s : State) : Res State :=
  .next (overflowIf (outside40 (sD s a * 2 ^ 16)) (setC (writeBits s n (dreg s a <<< 16)) ((dreg s a).getLsbD 24)))

/-- ASRR #u5,Dn (R293). -/
def execAsrrImm (u : BitVec 5) (n : DReg) (s : State) : Res State := .next (shiftBy s n (-(u.toNat : Int)) true)

/-- ASRR Da,Dn (R293). -/
def execAsrrReg (a n : DReg) (s : State) : Res State := .next (shiftReg s n (-shiftAmount s a) true)

/-- ASRW (R294). -/
def execAsrw (a n : DReg) (s : State) : Res State :=
  .next (setC (writeBits s n ((dreg s a).sshiftRight 16)) ((dreg s a).getLsbD 15))

/-- How many of the `fuel` bits from bit `fuel - 1` down equal `b` before one that does not. -/
def leadingRun (v : DWord) (b : Bool) (fuel : Nat) : Nat :=
  match fuel with
  | 0 => 0
  | k + 1 => if v.getLsbD k = b then 1 + leadingRun v b k else 0

/-- CLB's count: 9 minus the leading bits equal to the sign, and 0 for zero (R295). -/
def clbCount (v : DWord) : Int := if v = 0#40 then 0 else 9 - leadingRun v (v.getLsbD 39) 40

/-- CLB (R295). -/
def execClb (a n : DReg) (s : State) : Res State := .next (writeBits s n (wrap40 (clbCount (dreg s a))))

/-- EOR Da,Dn (R296). -/
def execEorReg (a n : DReg) (s : State) : Res State := .next (writeBits s n (dreg s a ^^^ dreg s n))

/-- Are a width and an offset in the stated ranges (R297)? -/
def fieldInRange (w o : Nat) : Bool := decide (w ≤ 40) && decide (o ≤ 40) && decide (w + o ≤ 40)

/-- The `w` low bits of a 40-bit register set. -/
def fieldMask (w : Nat) : DWord := BitVec.ofNat 40 (2 ^ w - 1)

/-- The field of `w` bits at bit `o`, right-aligned (R297). -/
def fieldOf (v : DWord) (w o : Nat) : DWord := (v >>> o) &&& fieldMask w

/-- The field, sign-extended (R297); no bits give 0 (D16). -/
def extractSigned (v : DWord) (w o : Nat) : DWord :=
  let f := fieldOf v w o
  if w ≠ 0 && f.getLsbD (w - 1) then f ||| ~~~(fieldMask w) else f

/-- EXTRACT: out of the ranges the result is free, tag 1 (U10). -/
def extract (s : State) (n : DReg) (v : DWord) (w o : Nat) : State :=
  writeBits s n (if fieldInRange w o then extractSigned v w o else free 40 s 1)

/-- EXTRACTU: out of the ranges the result is free, tag 1 (U10). -/
def extractu (s : State) (n : DReg) (v : DWord) (w o : Nat) : State :=
  writeBits s n (if fieldInRange w o then fieldOf v w o else free 40 s 1)

/-- The value of `dst` with the `w` low bits of `src` at bit `o` (R299). -/
def inserted (dst src : DWord) (w o : Nat) : DWord :=
  (dst &&& ~~~(fieldMask w <<< o)) ||| ((src &&& fieldMask w) <<< o)

/-- INSERT: out of the ranges the result is free, tag 1 (U10). -/
def insert (s : State) (n : DReg) (v : DWord) (w o : Nat) : State :=
  writeBits s n (if fieldInRange w o then inserted (dreg s n) v w o else free 40 s 1)

/-- The width Da[13:8] of the register forms (R297). -/
def fieldWidth (s : State) (a : DReg) : Nat := ((dreg s a).extractLsb' 8 6).toNat
/-- The offset Da[5:0] of the register forms (R297). -/
def fieldOffset (s : State) (a : DReg) : Nat := ((dreg s a).extractLsb' 0 6).toNat

/-- EXTRACT #U6,#u6,Db,Dn (R297). -/
def execExtractImm (w o : BitVec 6) (b n : DReg) (s : State) : Res State :=
  .next (extract s n (dreg s b) w.toNat o.toNat)

/-- EXTRACT Da,Db,Dn (R297). -/
def execExtractReg (a b n : DReg) (s : State) : Res State :=
  .next (extract s n (dreg s b) (fieldWidth s a) (fieldOffset s a))

/-- EXTRACTU #U6,#u6,Db,Dn (R298). -/
def execExtractuImm (w o : BitVec 6) (b n : DReg) (s : State) : Res State :=
  .next (extractu s n (dreg s b) w.toNat o.toNat)

/-- EXTRACTU Da,Db,Dn (R298). -/
def execExtractuReg (a b n : DReg) (s : State) : Res State :=
  .next (extractu s n (dreg s b) (fieldWidth s a) (fieldOffset s a))

/-- INSERT #U6,#u6,Db,Dn (R299). -/
def execInsertImm (w o : BitVec 6) (b n : DReg) (s : State) : Res State :=
  .next (insert s n (dreg s b) w.toNat o.toNat)

/-- INSERT Da,Db,Dn (R299). -/
def execInsertReg (a b n : DReg) (s : State) : Res State :=
  .next (insert s n (dreg s b) (fieldWidth s a) (fieldOffset s a))

/-- LSLL Da,Dn (R300). -/
def execLsll (a n : DReg) (s : State) : Res State := .next (shiftReg s n (shiftAmount s a) false)

/-- LSR (R301). -/
def execLsr (n : DReg) (s : State) : Res State := .next (shiftRight s n 1 false)

/-- LSRR #u5,Dn (R302). -/
def execLsrrImm (u : BitVec 5) (n : DReg) (s : State) : Res State := .next (shiftBy s n (-(u.toNat : Int)) false)

/-- LSRR Da,Dn (R302). -/
def execLsrrReg (a n : DReg) (s : State) : Res State := .next (shiftReg s n (-shiftAmount s a) false)

/-- LSRW (R303). -/
def execLsrw (a n : DReg) (s : State) : Res State :=
  .next (setC (writeBits s n (dreg s a >>> 16)) ((dreg s a).getLsbD 15))

/-- NOT Da,Dn (R304). -/
def execNotReg (a n : DReg) (s : State) : Res State := .next (writeBits s n (~~~(dreg s a)))

/-- OR Da,Dn (R305). -/
def execOrReg (a n : DReg) (s : State) : Res State := .next (writeBits s n (dreg s a ||| dreg s n))

/-- ROL (R306, D28). -/
def execRol (n : DReg) (s : State) : Res State :=
  .next (setC (writeBits s n ((dreg s n <<< 1) ||| BitVec.setWidth 40 (BitVec.ofBool (carry s)))) ((dreg s n).getLsbD 39))

/-- ROR (R307). -/
def execRor (n : DReg) (s : State) : Res State :=
  .next (setC (writeBits s n ((dreg s n >>> 1) ||| (BitVec.setWidth 40 (BitVec.ofBool (carry s)) <<< 39))) ((dreg s n).getLsbD 0))

/-- SXT.B (R308). -/
def execSxtB (a n : DReg) (s : State) : Res State :=
  .next (writeBits s n (((dreg s a).extractLsb' 0 8).signExtend 40))

/-- SXT.L (R309). -/
def execSxtL (n : DReg) (s : State) : Res State := .next (writeBits s n ((dLong s n).signExtend 40))

/-- SXT.W (R310). -/
def execSxtW (a n : DReg) (s : State) : Res State := .next (writeBits s n ((dLow s a).signExtend 40))

/-- ZXT.B (R311). -/
def execZxtB (a n : DReg) (s : State) : Res State :=
  .next (writeBits s n (((dreg s a).extractLsb' 0 8).setWidth 40))

/-- ZXT.L (R312). -/
def execZxtL (n : DReg) (s : State) : Res State := .next (writeBits s n ((dLong s n).setWidth 40))

/-- ZXT.W (R313). -/
def execZxtW (a n : DReg) (s : State) : Res State := .next (writeBits s n ((dLow s a).setWidth 40))

end Sys2Proof.Machine
end

