-- ==== Sys2Proof/Machine/Move.lean ====
section
/-! DEFINITION. The AGU move instructions (spec/44_agu_move.md R350 to R380). -/

namespace Sys2Proof.Machine

/-! ### Multi-register moves -/

/-- MOVE.2F (R355). -/
def execMove2f (ea : EaMode) (rn : RReg) (p : Pair) (s : State) : Res State :=
  withEa (eaMode s ea rn 4) 4 fun e =>
    let r := readWords e 2
    .next (setDs r.2 ((pairRegs p).zip (r.1.map fracVal)))

/-- MOVE.2L (R356). -/
def execMove2l (dir : Dir) (ea : EaMode) (rn : RReg) (p : Pair) (s : State) : Res State :=
  withEa (eaMode s ea rn 8) 8 fun e =>
    match dir with
    | .read =>
      let r := readTwoLongs e
      .next (setDs r.2 [(pairFst p, r.1.1.signExtend 40), (pairSnd p, r.1.2.signExtend 40)])
    | .write => .next (writeTwoLongs e (dLong s (pairFst p)) (dLong s (pairSnd p)))

/-- MOVE.2W (R357). -/
def execMove2w (dir : Dir) (ea : EaMode) (rn : RReg) (p : Pair) (s : State) : Res State :=
  withEa (eaMode s ea rn 4) 4 fun e =>
    match dir with
    | .read =>
      let r := readWords e 2
      .next (setDs r.2 ((pairRegs p).zip (r.1.map (·.signExtend 40))))
    | .write => .next (writeWords e ((pairRegs p).map (dLow s)))

/-- MOVE.4F (R358). -/
def execMove4f (ea : EaMode) (rn : RReg) (q : Quad) (s : State) : Res State :=
  withEa (eaMode s ea rn 8) 8 fun e =>
    let r := readWords e 4
    .next (setDs r.2 ((quadRegs q).zip (r.1.map fracVal)))

/-- MOVE.4W (R359). -/
def execMove4w (dir : Dir) (ea : EaMode) (rn : RReg) (q : Quad) (s : State) : Res State :=
  withEa (eaMode s ea rn 8) 8 fun e =>
    match dir with
    | .read =>
      let r := readWords e 4
      .next (setDs r.2 ((quadRegs q).zip (r.1.map (·.signExtend 40))))
    | .write => .next (writeWords e ((quadRegs q).map (dLow s)))

/-! ### Single-register moves -/

/-- MOVE.B from memory (R360). -/
def execMovebLoad (m : Mem) (dr : DR) (s : State) : Res State :=
  withEa (memEa s m 1) 1 fun e =>
    let r := read8 e
    .next (writeLoaded r.2 m dr (r.1.signExtend 40))

/-- MOVE.B to memory (R360). -/
def execMovebStore (dr : DR) (m : Mem) (s : State) : Res State :=
  withEa (memEa s m 1) 1 fun e => .next (write8 e ((drLong s dr).setWidth 8))

/-- MOVE.F #s16,Db (R361). -/
def execMovefImm (v : BitVec 16) (b : DReg) (s : State) : Res State := .next (setD s b (fracVal v) false)

/-- MOVE.F from memory (R361). -/
def execMovefLoad (m : Mem) (b : DReg) (s : State) : Res State :=
  withEa (memEa s m 2) 2 fun e =>
    let r := read16 e
    .next (setD r.2 b (fracVal r.1) false)

/-- MOVE.F to memory: no scaling or limiting (R361). -/
def execMovefStore (b : DReg) (m : Mem) (s : State) : Res State :=
  withEa (memEa s m 2) 2 fun e => .next (write16 e (dHigh s b))

/-- MOVE.L #s32,C4 (R362). -/
def execMovelImmC4 (v : BitVec 32) (c : C4) (s : State) : Res State := .next (writeC4 s c (v.signExtend 40))

/-- MOVE.L #u32,C1 (R362). -/
def execMovelImmC1 (v : BitVec 32) (c : C1) (s : State) : Res State := .next (setC1 s c v)

/-- MOVE.L between C4 and Db (R362, D23). -/
def execMovelC4 (dir : Dir) (c : C4) (b : DReg) (s : State) : Res State :=
  match dir with
  | .read => .next (setD s b ((c4Long s c).signExtend 40) false)
  | .write => .next (writeC4 s c ((dLong s b).signExtend 40))

/-- MOVE.L between C2 and Db (R362, D23). -/
def execMovelC2 (dir : Dir) (c : C2) (b : DReg) (s : State) : Res State :=
  match dir with
  | .read => .next (setD s b ((c2Val s c).signExtend 40) false)
  | .write => .next (setC2 s c (dLong s b))

/-- MOVE.L to De.E (R363). -/
def execMovelExtEven (m : ExtMem) (e : Pair) (s : State) : Res State :=
  withEa (extEa s m) 4 fun x =>
    let r := read32 x
    .next (setExt r.2 (pairFst e) (r.1.setWidth 9))

/-- MOVE.L from Da.E:Db.E (R363). -/
def execMovelExtStore (p : Pair) (m : ExtMem) (s : State) : Res State :=
  withEa (extEa s m) 4 fun x =>
    .next (write32 x ((extValue s (pairFst p)).setWidth 32 ||| ((extValue s (pairSnd p)).setWidth 32 <<< 16)))

/-- MOVE.L to Do.E (R363). -/
def execMovelExtOdd (m : ExtMem) (o : Pair) (s : State) : Res State :=
  withEa (extEa s m) 4 fun x =>
    let r := read32 x
    .next (setExt r.2 (pairSnd o) ((r.1 >>> 16).setWidth 9))

/-- MOVE.L between memory and DR (R364). -/
def execMovel (dir : Dir) (m : Mem) (dr : DR) (s : State) : Res State :=
  withEa (memEa s m 4) 4 fun e =>
    match dir with
    | .read =>
      let r := read32 e
      .next (writeLoaded r.2 m dr (r.1.signExtend 40))
    | .write => .next (write32 e (drLong s dr))

/-- MOVE.L between memory and C4 (R364). -/
def execMovelC4Mem (dir : Dir) (m : Mem) (c : C4) (s : State) : Res State :=
  withEa (memEa s m 4) 4 fun e =>
    match dir with
    | .read =>
      let r := read32 e
      .next (writeC4 r.2 c (r.1.signExtend 40))
    | .write => .next (write32 e (c4Long s c))

/-- MOVE.L between (Rn) and C3 (R364). -/
def execMovelC3 (dir : Dir) (rn : RReg) (c : C3) (s : State) : Res State :=
  withEa (eaMode s .plain rn 4) 4 fun e =>
    match dir with
    | .read =>
      let r := read32 e
      .next (writeC4 r.2 (c3c4 c) (r.1.signExtend 40))
    | .write => .next (write32 e (c4Long s (c3c4 c)))

/-- MOVE.W #s7,DR (R365). -/
def execMovewImm7 (v : BitVec 7) (dr : DR) (s : State) : Res State := .next (writeDr s dr (v.signExtend 40))

/-- MOVE.W #s16,C4 (R365). -/
def execMovewImm16 (v : BitVec 16) (c : C4) (s : State) : Res State := .next (writeC4 s c (v.signExtend 40))

/-- MOVE.W #s16 to memory (R365). -/
def execMovewImmMem (v : BitVec 16) (ea : BmuMem) (s : State) : Res State :=
  withEa (bmuEa s ea) 2 fun e => .next (write16 e v)

/-- MOVE.W between memory and DR (R366). -/
def execMovew (dir : Dir) (m : Mem) (dr : DR) (s : State) : Res State :=
  withEa (memEa s m 2) 2 fun e =>
    match dir with
    | .read =>
      let r := read16 e
      .next (writeLoaded r.2 m dr (r.1.signExtend 40))
    | .write => .next (write16 e ((drLong s dr).setWidth 16))

/-- MOVE.W between memory and C4 (R366). -/
def execMovewC4Mem (dir : Dir) (m : Mem) (c : C4) (s : State) : Res State :=
  withEa (memEa s m 2) 2 fun e =>
    match dir with
    | .read =>
      let r := read16 e
      .next (writeC4 r.2 c (r.1.signExtend 40))
    | .write => .next (write16 e ((c4Long s c).setWidth 16))

/-- MOVE.W between (Rn) and C3 (R366). -/
def execMovewC3 (dir : Dir) (rn : RReg) (c : C3) (s : State) : Res State :=
  withEa (eaMode s .plain rn 2) 2 fun e =>
    match dir with
    | .read =>
      let r := read16 e
      .next (writeC4 r.2 (c3c4 c) (r.1.signExtend 40))
    | .write => .next (write16 e ((c4Long s (c3c4 c)).setWidth 16))

/-- MOVET (R367). -/
def execMovet (q n : RReg) (s : State) : Res State := .next (if tBit s then setR s n (rreg s q) else s)

/-- MOVEF (R367). -/
def execMovef (q n : RReg) (s : State) : Res State := .next (if tBit s then s else setR s n (rreg s q))

/-! ### Moves with scaling and limiting (R353) -/

/-- The scaling that a MOVES applies: none in saturation mode (R353); 3 is the reserved mode. -/
def movesScaling (s : State) : Nat := if satMode s then 0 else scaling s

/-- `Moves16` (R353); the reserved scaling mode gives a free value (U3). -/
def moves16 (s : State) (n : DReg) (tag : Nat) : Word16 :=
  if ltag s n then (if (dreg s n).getLsbD 39 then 0x8000#16 else 0x7FFF#16)
  else
    match movesScaling s with
    | 0 => dHigh s n
    | 1 => (dreg s n).extractLsb' 17 16
    | 2 => (dreg s n).extractLsb' 15 16
    | _ => free 16 s tag

/-- `Moves32` (R353). -/
def moves32 (s : State) (n : DReg) (tag : Nat) : Word :=
  if ltag s n then (if (dreg s n).getLsbD 39 then 0x80000000#32 else 0x7FFFFFFF#32)
  else
    match movesScaling s with
    | 0 => dLong s n
    | 1 => (dreg s n).extractLsb' 1 32
    | 2 => dLong s n <<< 1
    | _ => free 32 s tag

/-- What a moved 16-bit value adds to S: its bits 14 and 13 differ (R353). -/
def sTerm (m : Word16) : Bool := m.getLsbD 14 != m.getLsbD 13

/-- SR.S after moving registers with their high 16 bits: the sticky OR over the registers that are not limited; in the reserved
scaling mode it is free, tag 10 ("S = Undefined", R40). -/
def movesS (s : State) (xs : List (DReg × Word16)) : Bool :=
  let moved := xs.filter fun x => !ltag s x.1
  if movesScaling s = 3 ∧ moved.isEmpty = false then freeBit s 10
  else srBit s 6 || moved.any fun x => sTerm x.2

/-- The `Moves16` values of registers, with tags from `t` on. -/
def movesVals (s : State) (xs : List DReg) (t : Nat) : List Word16 :=
  match xs with
  | [] => []
  | x :: rest => moves16 s x t :: movesVals s rest (t + 1)

/-- Store registers with scaling and limiting by one access, and update S. -/
def movesStore (s : State) (e : Ea) (xs : List DReg) : State :=
  let vs := movesVals s xs 4
  setSrBit (writeWords e vs) 6 (movesS s (xs.zip vs))

/-- MOVES.2F (R368). -/
def execMoves2f (p : Pair) (ea : EaMode) (rn : RReg) (s : State) : Res State :=
  withEa (eaMode s ea rn 4) 4 fun e => .next (movesStore s e (pairRegs p))

/-- MOVES.4F (R369). -/
def execMoves4f (q : Quad) (ea : EaMode) (rn : RReg) (s : State) : Res State :=
  withEa (eaMode s ea rn 8) 8 fun e => .next (movesStore s e (quadRegs q))

/-- MOVES.F (R370). -/
def execMovesf (b : DReg) (m : Mem) (s : State) : Res State :=
  withEa (memEa s m 2) 2 fun e =>
    let v := moves16 s b 4
    .next (setSrBit (write16 e v) 6 (movesS s [(b, v)]))

/-- MOVES.L (R371): S by the high half of the long moved. -/
def execMoveslEa (b : DReg) (ea : EaMode) (rn : RReg) (s : State) : Res State :=
  withEa (eaMode s ea rn 4) 4 fun e =>
    let v := moves32 s b 4
    .next (setSrBit (write32 e v) 6 (movesS s [(b, (v >>> 16).setWidth 16)]))

/-! ### Unsigned moves -/

/-- MOVEU.B (R373). -/
def execMoveub (m : Mem) (dr : DR) (s : State) : Res State :=
  withEa (memEa s m 1) 1 fun e =>
    let r := read8 e
    .next (writeLoaded r.2 m dr (r.1.setWidth 40))

/-- MOVEU.L #u32,Db (R374). -/
def execMoveulImm (v : BitVec 32) (b : DReg) (s : State) : Res State := .next (setD s b (v.setWidth 40) false)

/-- MOVEU.W #u16,Db.H (R375). -/
def execMoveuwHigh (u : BitVec 16) (b : DReg) (s : State) : Res State := .next (setDrPortion s (.d b) .high u)

/-- MOVEU.W #u16,Db.L (R375). -/
def execMoveuwLow (u : BitVec 16) (b : DReg) (s : State) : Res State := .next (setDrPortion s (.d b) .low u)

/-- MOVEU.W to C4 (R376). -/
def execMoveuwC4 (m : Mem) (c : C4) (s : State) : Res State :=
  withEa (memEa s m 2) 2 fun e =>
    let r := read16 e
    .next (writeC4 r.2 c (r.1.setWidth 40))

/-- MOVEU.W to DR (R376). -/
def execMoveuw (m : Mem) (dr : DR) (s : State) : Res State :=
  withEa (memEa s m 2) 2 fun e =>
    let r := read16 e
    .next (writeLoaded r.2 m dr (r.1.setWidth 40))

/-! ### Viterbi shift-left moves (R377 to R380) -/

/-- Dn, or D(n+8) with the high-bank bit. -/
def vslReg (high : Bool) (n : Fin 8) : DReg := ⟨(if high then 8 else 0) + n.val, by split <;> omega⟩

/-- The high or the low half of a register. -/
def vslHalf (s : State) (fracs high : Bool) (n : Fin 8) : Word16 :=
  if fracs then dHigh s (vslReg high n) else dLow s (vslReg high n)

/-- The half of D3 or D1 that a Viterbi flag selects (R377). -/
def vslPick (s : State) (fracs high : Bool) (flag : Nat) : Word16 :=
  if srBit s flag then vslHalf s fracs high 3 else vslHalf s fracs high 1

/-- The two shifted words as one long, the first in the low half: VF1 and VF3 select for fractions, VF0 and VF2 for words (R377,
R378). -/
def vslLong (s : State) (fracs high : Bool) : Word :=
  let lo : Nat := if fracs then 9 else 8
  ((vslPick s fracs high (lo + 2) <<< 1) ||| 1#16) ++ (vslPick s fracs high lo <<< 1)

/-- VSL.2 (R377, R378). -/
def vsl2 (s : State) (fracs high : Bool) (rn : RReg) : Res State :=
  withEa (eaMode s (.postN 0) rn 4) 4 fun e => .next (write32 e (vslLong s fracs high))

/-- VSL.4 (R379, R380): the halves of D2 and D6 first. -/
def vsl4 (s : State) (fracs high : Bool) (rn : RReg) : Res State :=
  withEa (eaMode s (.postN 0) rn 8) 8 fun e =>
    .next (writeTwoLongs e (vslHalf s fracs high 6 ++ vslHalf s fracs high 2) (vslLong s fracs high))

/-- VSL.2F (R377). -/
def execVsl2f (high : Bool) (rn : RReg) (s : State) : Res State := vsl2 s true high rn

/-- VSL.2W (R378). -/
def execVsl2w (high : Bool) (rn : RReg) (s : State) : Res State := vsl2 s false high rn

/-- VSL.4F (R379). -/
def execVsl4f (high : Bool) (rn : RReg) (s : State) : Res State := vsl4 s true high rn

/-- VSL.4W (R380). -/
def execVsl4w (high : Bool) (rn : RReg) (s : State) : Res State := vsl4 s false high rn

end Sys2Proof.Machine
end

