-- ==== Sys2Proof/Machine/Multiply.lean ====
section
/-! DEFINITION. The DALU multiply and multiply-accumulate instructions (spec/41_dalu_multiply.md R260 to R280). -/

namespace Sys2Proof.Machine

/-- A product, or its negative in the `-Da` forms (R263, R271, R272). -/
def signed (neg : Bool) (p : Int) : Int := if neg then -p else p

/-- `IntProd(s16(Da.l), s16(Db.l))` (R260). -/
def intLowLow (s : State) (a b : DReg) : Int := (dLow s a).toInt * (dLow s b).toInt
/-- `FracProd(s16(Da.h), s16(Db.h))` (R260). -/
def fracHighHigh (s : State) (a b : DReg) : Int := (dHigh s a).toInt * (dHigh s b).toInt * 2
/-- `FracProd(s16(Dc.h), u16(Dd.l))`. -/
def fracSU (s : State) (c d : DReg) : Int := (dHigh s c).toInt * (dLow s d).toNat * 2
/-- `FracProd(u16(Dc.l), s16(Dd.h))`. -/
def fracUS (s : State) (c d : DReg) : Int := (dLow s c).toNat * (dHigh s d).toInt * 2
/-- `FracProd(u16(Dc.l), u16(Dd.l))`. -/
def fracUU (s : State) (c d : DReg) : Int := (dLow s c).toNat * (dLow s d).toNat * 2

/-- IMAC (R263). -/
def execImac (neg : Bool) (a b n : DReg) (s : State) : Res State :=
  .next (writeWrap s n (sD s n + signed neg (intLowLow s a b)))

/-- IMAC of an odd pair (R263). -/
def execImacSame (neg : Bool) (a b n : DReg) (s : State) : Res State :=
  .next (writeWrap s n (sD s n + signed neg (intLowLow s a b)))

/-- IMACLHUU (R264). -/
def execImaclhuu (a b n : DReg) (s : State) : Res State :=
  .next (writeWrap s n (sD s n + (dLow s a).toNat * (dHigh s b).toNat))

/-- IMACUS (R265). -/
def execImacus (a b n : DReg) (s : State) : Res State :=
  .next (writeWrap s n (sD s n + (dLow s a).toNat * (dHigh s b).toInt))

/-- IMPY (R266). -/
def execImpy (a b n : DReg) (s : State) : Res State := .next (writeWrap s n (intLowLow s a b))

/-- IMPY of an odd pair (R266). -/
def execImpySame (a b n : DReg) (s : State) : Res State := .next (writeWrap s n (intLowLow s a b))

/-- IMPY.W (R267). -/
def execImpyW (x : BitVec 16) (n : DReg) (s : State) : Res State := .next (writeWrap s n (x.toInt * (dLow s n).toInt))

/-- IMPYHLUU (R268). -/
def execImpyhluu (a b n : DReg) (s : State) : Res State :=
  .next (writeWrap s n ((dHigh s a).toNat * (dLow s b).toNat))

/-- IMPYSU (R269). -/
def execImpysu (a b n : DReg) (s : State) : Res State :=
  .next (writeWrap s n ((dHigh s a).toInt * (dLow s b).toNat))

/-- IMPYUU (R270). -/
def execImpyuu (a b n : DReg) (s : State) : Res State :=
  .next (writeWrap s n ((dLow s a).toNat * (dLow s b).toNat))

/-- MAC (R271). -/
def execMac (neg : Bool) (a b n : DReg) (s : State) : Res State :=
  .next (writeArith s n (sD s n + signed neg (fracHighHigh s a b)))

/-- MAC of an odd pair (R271). -/
def execMacSame (neg : Bool) (a b n : DReg) (s : State) : Res State :=
  .next (writeArith s n (sD s n + signed neg (fracHighHigh s a b)))

/-- MAC #s16,Da,Dn (R271). -/
def execMacImm (x : BitVec 16) (a n : DReg) (s : State) : Res State :=
  .next (writeArith s n (sD s n + x.toInt * (dHigh s a).toInt * 2))

/-- MACR (R272). -/
def execMacr (neg : Bool) (a b n : DReg) (s : State) : Res State :=
  .next (writeRounded s n (rnd s (sD s n + signed neg (fracHighHigh s a b))))

/-- MACR of an odd pair (R272). -/
def execMacrSame (neg : Bool) (a b n : DReg) (s : State) : Res State :=
  .next (writeRounded s n (rnd s (sD s n + signed neg (fracHighHigh s a b))))

/-- MACSU (R273). -/
def execMacsu (c d n : DReg) (s : State) : Res State := .next (writeWrap s n (sD s n + fracSU s c d))

/-- MACUS (R274). -/
def execMacus (c d n : DReg) (s : State) : Res State := .next (writeWrap s n (sD s n + fracUS s c d))

/-- MACUU (R275). -/
def execMacuu (c d n : DReg) (s : State) : Res State := .next (writeWrap s n (sD s n + fracUU s c d))

/-- MPY (R276). -/
def execMpy (a b n : DReg) (s : State) : Res State := .next (writeArith s n (fracHighHigh s a b))

/-- MPY of an odd pair (R276). -/
def execMpySame (a b n : DReg) (s : State) : Res State := .next (writeArith s n (fracHighHigh s a b))

/-- MPYR (R277). -/
def execMpyr (a b n : DReg) (s : State) : Res State := .next (writeRounded s n (rnd s (fracHighHigh s a b)))

/-- MPYR of an odd pair (R277). -/
def execMpyrSame (a b n : DReg) (s : State) : Res State := .next (writeRounded s n (rnd s (fracHighHigh s a b)))

/-- MPYSU (R278). -/
def execMpysu (c d n : DReg) (s : State) : Res State := .next (writeWrap s n (fracSU s c d))

/-- MPYUS (R279). -/
def execMpyus (c d n : DReg) (s : State) : Res State := .next (writeWrap s n (fracUS s c d))

/-- MPYUU (R280). -/
def execMpyuu (c d n : DReg) (s : State) : Res State := .next (writeWrap s n (fracUU s c d))

end Sys2Proof.Machine
end

