-- ==== Sys2Proof/Machine/Stack.lean ====
section
/-! DEFINITION. The stack support instructions (spec/45_stack_bmu.md R391 to R394). -/

namespace Sys2Proof.Machine

/-- Write one slot of a stack frame. -/
def pushLong (s : State) (a v : Word) : State := note (store32 s a v) ⟨a, 4, true, 4, [v], false, false⟩

/-- Read one slot of a stack frame; the address is pre-calculated unless the pointer's shadow is valid (R113, R544). -/
def popLong (s : State) (a : Word) (shadow : Bool) : Word × State := read32 ⟨a, s, !shadow⟩

/-- The active stack pointer after a PUSH or POP: its shadow is valid (R544). -/
def moveSp (s : State) (v : Word) : State := setSpShadow (setSp s v) true

/-- NSP after a PUSHN or POPN: its shadow is valid (R544). -/
def moveNsp (s : State) (v : Word) : State := setNspShadow (setNsp s v) true

/-- PUSH De (R393). -/
def execPushEven (e : PushEven) (s : State) : Res State :=
  .next (moveSp (pushLong s (spOf s) (evenVal s e)) (spOf s + 8))

/-- PUSH Do (R393). -/
def execPushOdd (o : PushOdd) (s : State) : Res State :=
  .next (moveSp (pushLong s (spOf s + 4) (oddVal s o)) (spOf s + 8))

/-- PUSHN De (R394). -/
def execPushnEven (e : PushEven) (s : State) : Res State :=
  .next (moveNsp (pushLong s s.nsp (evenVal s e)) (s.nsp + 8))

/-- PUSHN Do (R394). -/
def execPushnOdd (o : PushOdd) (s : State) : Res State :=
  .next (moveNsp (pushLong s (s.nsp + 4) (oddVal s o)) (s.nsp + 8))

/-- POP De (R391). -/
def execPopEven (e : PushEven) (s : State) : Res State :=
  let r := popLong s (spOf s - 8) (spShadow s)
  .next (setEven (moveSp r.2 (spOf s - 8)) e r.1)

/-- POP Do (R391). -/
def execPopOdd (o : PushOdd) (s : State) : Res State :=
  let r := popLong s (spOf s - 4) (spShadow s)
  .next (setOdd (moveSp r.2 (spOf s - 8)) o r.1)

/-- POPN De (R392). -/
def execPopnEven (e : PushEven) (s : State) : Res State :=
  let r := popLong s (s.nsp - 8) s.nspShadow
  .next (setEven (moveNsp r.2 (s.nsp - 8)) e r.1)

/-- POPN Do (R392). -/
def execPopnOdd (o : PushOdd) (s : State) : Res State :=
  let r := popLong s (s.nsp - 4) s.nspShadow
  .next (setOdd (moveNsp r.2 (s.nsp - 8)) o r.1)

end Sys2Proof.Machine
end

