-- ==== Sys2Proof/Machine/Dispatch.lean ====
section
/-! DEFINITION. The meaning of every instruction. -/
namespace Sys2Proof.Machine
open Sys2Proof
def exec (i : Instr) (s : State) : Host.Outcome State Fault Refusal :=
  match i with
  | .abs n => Sys2Proof.Machine.execAbs n s
  | .addImm u n => Sys2Proof.Machine.execAddImm u n s
  | .addReg a b n => Sys2Proof.Machine.execAddReg a b n s
  | .addSame a b n => Sys2Proof.Machine.execAddSame a b n s
  | .add2 a n => Sys2Proof.Machine.execAdd2 a n s
  | .addnc v a n => Sys2Proof.Machine.execAddnc v a n s
  | .adr a n => Sys2Proof.Machine.execAdr a n s
  | .asl a n => Sys2Proof.Machine.execAsl a n s
  | .asr a n => Sys2Proof.Machine.execAsr a n s
  | .clr a n => Sys2Proof.Machine.execClr a n s
  | .cmpeq a n => Sys2Proof.Machine.execCmpeq a n s
  | .cmpeqU u n => Sys2Proof.Machine.execCmpeqU u n s
  | .cmpeqS v n => Sys2Proof.Machine.execCmpeqS v n s
  | .cmpgt a n => Sys2Proof.Machine.execCmpgt a n s
  | .cmpgtU u n => Sys2Proof.Machine.execCmpgtU u n s
  | .cmpgtS v n => Sys2Proof.Machine.execCmpgtS v n s
  | .cmphi a n => Sys2Proof.Machine.execCmphi a n s
  | .decge n => Sys2Proof.Machine.execDecge n s
  | .div a n => Sys2Proof.Machine.execDiv a n s
  | .iaddnc v n => Sys2Proof.Machine.execIaddnc v n s
  | .inc n => Sys2Proof.Machine.execInc n s
  | .incListed n => Sys2Proof.Machine.execIncListed n s
  | .incF n => Sys2Proof.Machine.execIncF n s
  | .max g h => Sys2Proof.Machine.execMax g h s
  | .max2vitA a b => Sys2Proof.Machine.execMax2vitA a b s
  | .max2vitB a b => Sys2Proof.Machine.execMax2vitB a b s
  | .min g h => Sys2Proof.Machine.execMin g h s
  | .neg n => Sys2Proof.Machine.execNeg n s
  | .rnd a n => Sys2Proof.Machine.execRnd a n s
  | .satL n => Sys2Proof.Machine.execSatL n s
  | .sbc c d => Sys2Proof.Machine.execSbc c d s
  | .sbr a n => Sys2Proof.Machine.execSbr a n s
  | .subImm u n => Sys2Proof.Machine.execSubImm u n s
  | .subReg a b n => Sys2Proof.Machine.execSubReg a b n s
  | .subRegSwap a b n => Sys2Proof.Machine.execSubRegSwap a b n s
  | .subSame a b n => Sys2Proof.Machine.execSubSame a b n s
  | .sub2 a n => Sys2Proof.Machine.execSub2 a n s
  | .subl a n => Sys2Proof.Machine.execSubl a n s
  | .subnc v n => Sys2Proof.Machine.execSubnc v n s
  | .tfr a n => Sys2Proof.Machine.execTfr a n s
  | .tfrf a n => Sys2Proof.Machine.execTfrf a n s
  | .tfrt a n => Sys2Proof.Machine.execTfrt a n s
  | .tsteq n => Sys2Proof.Machine.execTsteq n s
  | .tstge n => Sys2Proof.Machine.execTstge n s
  | .imac neg a b n => Sys2Proof.Machine.execImac neg a b n s
  | .imacSame neg a b n => Sys2Proof.Machine.execImacSame neg a b n s
  | .imaclhuu a b n => Sys2Proof.Machine.execImaclhuu a b n s
  | .imacus a b n => Sys2Proof.Machine.execImacus a b n s
  | .impy a b n => Sys2Proof.Machine.execImpy a b n s
  | .impySame a b n => Sys2Proof.Machine.execImpySame a b n s
  | .impyW v n => Sys2Proof.Machine.execImpyW v n s
  | .impyhluu a b n => Sys2Proof.Machine.execImpyhluu a b n s
  | .impysu a b n => Sys2Proof.Machine.execImpysu a b n s
  | .impyuu a b n => Sys2Proof.Machine.execImpyuu a b n s
  | .mac neg a b n => Sys2Proof.Machine.execMac neg a b n s
  | .macSame neg a b n => Sys2Proof.Machine.execMacSame neg a b n s
  | .macImm v a n => Sys2Proof.Machine.execMacImm v a n s
  | .macr neg a b n => Sys2Proof.Machine.execMacr neg a b n s
  | .macrSame neg a b n => Sys2Proof.Machine.execMacrSame neg a b n s
  | .macsu c d n => Sys2Proof.Machine.execMacsu c d n s
  | .macus c d n => Sys2Proof.Machine.execMacus c d n s
  | .macuu c d n => Sys2Proof.Machine.execMacuu c d n s
  | .mpy a b n => Sys2Proof.Machine.execMpy a b n s
  | .mpySame a b n => Sys2Proof.Machine.execMpySame a b n s
  | .mpyr a b n => Sys2Proof.Machine.execMpyr a b n s
  | .mpyrSame a b n => Sys2Proof.Machine.execMpyrSame a b n s
  | .mpysu c d n => Sys2Proof.Machine.execMpysu c d n s
  | .mpyus c d n => Sys2Proof.Machine.execMpyus c d n s
  | .mpyuu c d n => Sys2Proof.Machine.execMpyuu c d n s
  | .andImmLow u a n => Sys2Proof.Machine.execAndImmLow u a n s
  | .andImmHigh u a n => Sys2Proof.Machine.execAndImmHigh u a n s
  | .andReg a n => Sys2Proof.Machine.execAndReg a n s
  | .asllImm u n => Sys2Proof.Machine.execAsllImm u n s
  | .asllReg a n => Sys2Proof.Machine.execAsllReg a n s
  | .aslw a n => Sys2Proof.Machine.execAslw a n s
  | .asrrImm u n => Sys2Proof.Machine.execAsrrImm u n s
  | .asrrReg a n => Sys2Proof.Machine.execAsrrReg a n s
  | .asrw a n => Sys2Proof.Machine.execAsrw a n s
  | .clb a n => Sys2Proof.Machine.execClb a n s
  | .eorReg a n => Sys2Proof.Machine.execEorReg a n s
  | .extractImm w o b n => Sys2Proof.Machine.execExtractImm w o b n s
  | .extractReg a b n => Sys2Proof.Machine.execExtractReg a b n s
  | .extractuImm w o b n => Sys2Proof.Machine.execExtractuImm w o b n s
  | .extractuReg a b n => Sys2Proof.Machine.execExtractuReg a b n s
  | .insertImm w o b n => Sys2Proof.Machine.execInsertImm w o b n s
  | .insertReg a b n => Sys2Proof.Machine.execInsertReg a b n s
  | .lsll a n => Sys2Proof.Machine.execLsll a n s
  | .lsr n => Sys2Proof.Machine.execLsr n s
  | .lsrrImm u n => Sys2Proof.Machine.execLsrrImm u n s
  | .lsrrReg a n => Sys2Proof.Machine.execLsrrReg a n s
  | .lsrw a n => Sys2Proof.Machine.execLsrw a n s
  | .notReg a n => Sys2Proof.Machine.execNotReg a n s
  | .orReg a n => Sys2Proof.Machine.execOrReg a n s
  | .rol n => Sys2Proof.Machine.execRol n s
  | .ror n => Sys2Proof.Machine.execRor n s
  | .sxtB a n => Sys2Proof.Machine.execSxtB a n s
  | .sxtL n => Sys2Proof.Machine.execSxtL n s
  | .sxtW a n => Sys2Proof.Machine.execSxtW a n s
  | .zxtB a n => Sys2Proof.Machine.execZxtB a n s
  | .zxtL n => Sys2Proof.Machine.execZxtL n s
  | .zxtW a n => Sys2Proof.Machine.execZxtW a n s
  | .addaImm u x => Sys2Proof.Machine.execAddaImm u x s
  | .addaImm16 v src n => Sys2Proof.Machine.execAddaImm16 v src n s
  | .addaReg src x => Sys2Proof.Machine.execAddaReg src x s
  | .addl1a src x => Sys2Proof.Machine.execAddl1a src x s
  | .addl2a src x => Sys2Proof.Machine.execAddl2a src x s
  | .asl2a x => Sys2Proof.Machine.execAsl2a x s
  | .asla x => Sys2Proof.Machine.execAsla x s
  | .asra x => Sys2Proof.Machine.execAsra x s
  | .cmpeqa src x => Sys2Proof.Machine.execCmpeqa src x s
  | .cmpgta src x => Sys2Proof.Machine.execCmpgta src x s
  | .cmphia src x => Sys2Proof.Machine.execCmphia src x s
  | .deca x => Sys2Proof.Machine.execDeca x s
  | .deceqa x => Sys2Proof.Machine.execDeceqa x s
  | .decgea x => Sys2Proof.Machine.execDecgea x s
  | .inca x => Sys2Proof.Machine.execInca x s
  | .lsra x => Sys2Proof.Machine.execLsra x s
  | .subaImm u x => Sys2Proof.Machine.execSubaImm u x s
  | .subaReg src x => Sys2Proof.Machine.execSubaReg src x s
  | .sxtaB src x => Sys2Proof.Machine.execSxtaB src x s
  | .sxtaW x => Sys2Proof.Machine.execSxtaW x s
  | .tfra src x => Sys2Proof.Machine.execTfra src x s
  | .tfraFromOsp n => Sys2Proof.Machine.execTfraFromOsp n s
  | .tfraToOsp n => Sys2Proof.Machine.execTfraToOsp n s
  | .tsteqaL x => Sys2Proof.Machine.execTsteqaL x s
  | .tsteqaW x => Sys2Proof.Machine.execTsteqaW x s
  | .tstgeaL x => Sys2Proof.Machine.execTstgeaL x s
  | .tstgta x => Sys2Proof.Machine.execTstgta x s
  | .zxtaB src x => Sys2Proof.Machine.execZxtaB src x s
  | .zxtaW x => Sys2Proof.Machine.execZxtaW x s
  | .move2f ea rn p => Sys2Proof.Machine.execMove2f ea rn p s
  | .move2l dir ea rn p => Sys2Proof.Machine.execMove2l dir ea rn p s
  | .move2w dir ea rn p => Sys2Proof.Machine.execMove2w dir ea rn p s
  | .move4f ea rn q => Sys2Proof.Machine.execMove4f ea rn q s
  | .move4w dir ea rn q => Sys2Proof.Machine.execMove4w dir ea rn q s
  | .movebLoad m dr => Sys2Proof.Machine.execMovebLoad m dr s
  | .movebStore dr m => Sys2Proof.Machine.execMovebStore dr m s
  | .movefImm v b => Sys2Proof.Machine.execMovefImm v b s
  | .movefLoad m b => Sys2Proof.Machine.execMovefLoad m b s
  | .movefStore b m => Sys2Proof.Machine.execMovefStore b m s
  | .movelImmC4 v c => Sys2Proof.Machine.execMovelImmC4 v c s
  | .movelImmC1 v c => Sys2Proof.Machine.execMovelImmC1 v c s
  | .movelC4 dir c b => Sys2Proof.Machine.execMovelC4 dir c b s
  | .movelC2 dir c b => Sys2Proof.Machine.execMovelC2 dir c b s
  | .movelExtEven m e => Sys2Proof.Machine.execMovelExtEven m e s
  | .movelExtStore p m => Sys2Proof.Machine.execMovelExtStore p m s
  | .movelExtOdd m o => Sys2Proof.Machine.execMovelExtOdd m o s
  | .movel dir m dr => Sys2Proof.Machine.execMovel dir m dr s
  | .movelC4Mem dir m c => Sys2Proof.Machine.execMovelC4Mem dir m c s
  | .movelC3 dir rn c => Sys2Proof.Machine.execMovelC3 dir rn c s
  | .movewImm7 v dr => Sys2Proof.Machine.execMovewImm7 v dr s
  | .movewImm16 v c => Sys2Proof.Machine.execMovewImm16 v c s
  | .movewImmMem v ea => Sys2Proof.Machine.execMovewImmMem v ea s
  | .movew dir m dr => Sys2Proof.Machine.execMovew dir m dr s
  | .movewC4Mem dir m c => Sys2Proof.Machine.execMovewC4Mem dir m c s
  | .movewC3 dir rn c => Sys2Proof.Machine.execMovewC3 dir rn c s
  | .movet q n => Sys2Proof.Machine.execMovet q n s
  | .movef q n => Sys2Proof.Machine.execMovef q n s
  | .moves2f p ea rn => Sys2Proof.Machine.execMoves2f p ea rn s
  | .moves4f q ea rn => Sys2Proof.Machine.execMoves4f q ea rn s
  | .movesf b m => Sys2Proof.Machine.execMovesf b m s
  | .moveslEa b ea rn => Sys2Proof.Machine.execMoveslEa b ea rn s
  | .moveub m dr => Sys2Proof.Machine.execMoveub m dr s
  | .moveulImm v b => Sys2Proof.Machine.execMoveulImm v b s
  | .moveuwHigh u b => Sys2Proof.Machine.execMoveuwHigh u b s
  | .moveuwLow u b => Sys2Proof.Machine.execMoveuwLow u b s
  | .moveuwC4 m c => Sys2Proof.Machine.execMoveuwC4 m c s
  | .moveuw m dr => Sys2Proof.Machine.execMoveuw m dr s
  | .vsl2f high rn => Sys2Proof.Machine.execVsl2f high rn s
  | .vsl2w high rn => Sys2Proof.Machine.execVsl2w high rn s
  | .vsl4f high rn => Sys2Proof.Machine.execVsl4f high rn s
  | .vsl4w high rn => Sys2Proof.Machine.execVsl4w high rn s
  | .popEven e => Sys2Proof.Machine.execPopEven e s
  | .popOdd o => Sys2Proof.Machine.execPopOdd o s
  | .popnEven e => Sys2Proof.Machine.execPopnEven e s
  | .popnOdd o => Sys2Proof.Machine.execPopnOdd o s
  | .pushEven e => Sys2Proof.Machine.execPushEven e s
  | .pushOdd o => Sys2Proof.Machine.execPushOdd o s
  | .pushnEven e => Sys2Proof.Machine.execPushnEven e s
  | .pushnOdd o => Sys2Proof.Machine.execPushnOdd o s
  | .bmclrDr m half dr => Sys2Proof.Machine.execBmclrDr m half dr s
  | .bmclrC1 m half c => Sys2Proof.Machine.execBmclrC1 m half c s
  | .bmclrMem m ea => Sys2Proof.Machine.execBmclrMem m ea s
  | .bmsetDr m half dr => Sys2Proof.Machine.execBmsetDr m half dr s
  | .bmsetC1 m half c => Sys2Proof.Machine.execBmsetC1 m half c s
  | .bmsetMem m ea => Sys2Proof.Machine.execBmsetMem m ea s
  | .bmchgDr m half dr => Sys2Proof.Machine.execBmchgDr m half dr s
  | .bmchgC1 m half c => Sys2Proof.Machine.execBmchgC1 m half c s
  | .bmchgMem m ea => Sys2Proof.Machine.execBmchgMem m ea s
  | .bmtstcDr m half dr => Sys2Proof.Machine.execBmtstcDr m half dr s
  | .bmtstcC1 m half c => Sys2Proof.Machine.execBmtstcC1 m half c s
  | .bmtstcMem m ea => Sys2Proof.Machine.execBmtstcMem m ea s
  | .bmtstsDr m half dr => Sys2Proof.Machine.execBmtstsDr m half dr s
  | .bmtstsC1 m half c => Sys2Proof.Machine.execBmtstsC1 m half c s
  | .bmtstsMem m ea => Sys2Proof.Machine.execBmtstsMem m ea s
  | .bmtsetDr m half dr => Sys2Proof.Machine.execBmtsetDr m half dr s
  | .bmtsetMem m ea => Sys2Proof.Machine.execBmtsetMem m ea s
  | .andDr m half dr => Sys2Proof.Machine.execAndDr m half dr s
  | .andMem m ea => Sys2Proof.Machine.execAndMem m ea s
  | .eorDr m half dr => Sys2Proof.Machine.execEorDr m half dr s
  | .eorMem m ea => Sys2Proof.Machine.execEorMem m ea s
  | .notDr half dr => Sys2Proof.Machine.execNotDr half dr s
  | .notMem ea => Sys2Proof.Machine.execNotMem ea s
  | .orDr m half dr => Sys2Proof.Machine.execOrDr m half dr s
  | .orMem m ea => Sys2Proof.Machine.execOrMem m ea s
  | .brad d => Sys2Proof.Machine.execBrad d s
  | .bra d => Sys2Proof.Machine.execBra d s
  | .bsrd d => Sys2Proof.Machine.execBsrd d s
  | .bsr d => Sys2Proof.Machine.execBsr d s
  | .btd d => Sys2Proof.Machine.execBtd d s
  | .bt d => Sys2Proof.Machine.execBt d s
  | .bfd d => Sys2Proof.Machine.execBfd d s
  | .bf d => Sys2Proof.Machine.execBf d s
  | .jmpd t => Sys2Proof.Machine.execJmpd t s
  | .jmp t => Sys2Proof.Machine.execJmp t s
  | .jsrd t => Sys2Proof.Machine.execJsrd t s
  | .jsr t => Sys2Proof.Machine.execJsr t s
  | .jtd t => Sys2Proof.Machine.execJtd t s
  | .jt t => Sys2Proof.Machine.execJt t s
  | .jfd t => Sys2Proof.Machine.execJfd t s
  | .jf t => Sys2Proof.Machine.execJf t s
  | .break_ d => Sys2Proof.Machine.execBreak d s
  | .skipls d => Sys2Proof.Machine.execSkipls d s
  | .contd d => Sys2Proof.Machine.execContd d s
  | .cont d => Sys2Proof.Machine.execCont d s
  | .dosetup l d => Sys2Proof.Machine.execDosetup l d s
  | .doen l c => Sys2Proof.Machine.execDoen l c s
  | .doensh l c => Sys2Proof.Machine.execDoensh l c s
  | .illegal c => Sys2Proof.Machine.execIllegal c s
  | .prefix1 aaa p j ccc => Sys2Proof.Machine.execPrefix1 aaa p j ccc s
  | .prefix2 aaa hb p j ccc => Sys2Proof.Machine.execPrefix2 aaa hb p j ccc s
  | .ifa aaa => Sys2Proof.Machine.execIfa aaa s
  | .iff aaa => Sys2Proof.Machine.execIff aaa s
  | .ift aaa => Sys2Proof.Machine.execIft aaa s
  | .lpmarka aaa => Sys2Proof.Machine.execLpmarka aaa s
  | .lpmarkb aaa => Sys2Proof.Machine.execLpmarkb aaa s
  | .rte => Sys2Proof.Machine.execRte s
  | .rted => Sys2Proof.Machine.execRted s
  | .rts => Sys2Proof.Machine.execRts s
  | .rtsd => Sys2Proof.Machine.execRtsd s
  | .rtstk => Sys2Proof.Machine.execRtstk s
  | .rtstkd => Sys2Proof.Machine.execRtstkd s
  | .trap => Sys2Proof.Machine.execTrap s
  | .debug => Sys2Proof.Machine.execDebug s
  | .debugev => Sys2Proof.Machine.execDebugev s
  | .di => Sys2Proof.Machine.execDi s
  | .ei => Sys2Proof.Machine.execEi s
  | .mark => Sys2Proof.Machine.execMark s
  | .stop => Sys2Proof.Machine.execStop s
  | .wait => Sys2Proof.Machine.execWait s
  | .nop => Sys2Proof.Machine.execNop s
end Sys2Proof.Machine
end

