-- ==== Sys2Proof/Machine/Effects.lean ====
section
/-! DEFINITION. What each instruction may write, which execution unit it takes and which grouping rules name it: what the rules on
execution sets need (spec/70_reset_and_hazards.md R610 to R625). -/

namespace Sys2Proof.Machine

/-- A register that an instruction can write, SR and EMR apart. -/
inductive Dest where
  | d (n : DReg) | r (n : RReg) | n (k : Fin 4) | m (k : Fin 4) | mctl | nsp | esp
  | sa (k : LoopIx) | lc (k : LoopIx) | vba
  deriving DecidableEq, Repr

/-- Is it an AGU register, so that a second write is an illegal set (R602, R620)? -/
def Dest.isAgu : Dest → Bool
  | .r _ => true
  | .n _ => true
  | .m _ => true
  | .mctl => true
  | .nsp => true
  | .esp => true
  | .d _ => false
  | .sa _ => false
  | .lc _ => false
  | .vba => false

/-- The effects of an instruction on an execution set. -/
structure Effects where
  /-- a DALU instruction; otherwise it takes an AGU -/
  dalu : Bool
  dests : List Dest
  /-- the bits of SR that it affects -/
  sr : Word
  /-- its line of the mutually exclusive instructions (R623); 0 is none -/
  line : Nat
  /-- a change of flow, STOP or WAIT (R624, R640) -/
  flow : Bool

/-- SR.C. -/
def bitC : Word := 0x1#32
/-- SR.T. -/
def bitT : Word := 0x2#32
/-- SR.S. -/
def bitS : Word := 0x40#32

/-- The active stack pointer as a destination (R30). -/
def spDest (s : State) : Dest := if expMode s then .esp else .nsp
/-- The other stack pointer as a destination. -/
def ospDest (s : State) : Dest := if expMode s then .nsp else .esp

/-- Rx as a destination. -/
def rxDests (s : State) (x : Rx) : List Dest :=
  match x with
  | .n k => [.n k]
  | .sp => [spDest s]
  | .r n => [.r n]

/-- A pair as destinations. -/
def pairDests (p : Pair) : List Dest := [.d (pairFst p), .d (pairSnd p)]
/-- A quad as destinations. -/
def quadDests (q : Quad) : List Dest := [.d (quadReg q 0), .d (quadReg q 1), .d (quadReg q 2), .d (quadReg q 3)]
/-- The pointer that an addressing mode updates. -/
def eaDests (m : EaMode) (rn : RReg) : List Dest := if eaUpdates m then [.r rn] else []
/-- The pointer that a memory operand updates. -/
def memDests (m : Mem) : List Dest :=
  match m with
  | .ea em rn => eaDests em rn
  | _ => []
/-- DR as a destination. -/
def drDests (x : DR) : List Dest :=
  match x with
  | .d n => [.d n]
  | .r n => [.r n]
/-- C4 as a destination. -/
def c4Dests (x : C4) : List Dest :=
  match x with
  | .d n => [.d n]
  | .r n => [.r n]
  | .b k => [.r (breg k)]
  | .n k => [.n k]
  | .m k => [.m k]
/-- C1 as a destination. -/
def c1Dests (x : C1) : List Dest :=
  match x with
  | .emr => []
  | .vba => [.vba]
  | .sr => []
  | .mctl => [.mctl]
/-- C2 as a destination. -/
def c2Dests (x : C2) : List Dest :=
  match x with
  | .emr => []
  | .vba => [.vba]
  | .sr => []
  | .mctl => [.mctl]
  | .sa k => [.sa k]
  | .lc k => [.lc k]
/-- De as a destination of POP. -/
def evenDests (x : PushEven) : List Dest :=
  match x with
  | .d i => [.d (evenReg i)]
  | .r i => [.r (evenReg i)]
  | .b i => [.r (evenB i)]
  | .n i => [.n (even4 i)]
  | .m i => [.m (even4 i)]
  | .sa k => [.sa k]
  | .ext i => [.d (evenReg i)]
  | .extPair i => [.d (evenReg i), .d (oddReg i)]
/-- Do as a destination of POP. -/
def oddDests (x : PushOdd) : List Dest :=
  match x with
  | .d i => [.d (oddReg i)]
  | .r i => [.r (oddReg i)]
  | .b i => [.r (oddB i)]
  | .n i => [.n (odd4 i)]
  | .m i => [.m (odd4 i)]
  | .lc k => [.lc k]
  | .ext i => [.d (oddReg i)]
  | .vba => [.vba]
  | .sr => []
  | .mctl => [.mctl]
/-- The bits of SR that a write of C1 affects: all of SR if it is SR. -/
def c1Sr (x : C1) : Word :=
  match x with
  | .sr => srMask
  | _ => 0#32
/-- The bits of SR that a write of C2 affects. -/
def c2Sr (x : C2) : Word :=
  match x with
  | .sr => srMask
  | _ => 0#32
/-- The bits of SR that POP Do affects. -/
def oddSr (x : PushOdd) : Word :=
  match x with
  | .sr => srMask
  | _ => 0#32
/-- The count that CONT and CONTD write: the active loop's. -/
def loopDests (s : State) : List Dest :=
  match activeLoop s with
  | none => []
  | some n => [.lc n]

/-- The effects of every instruction. -/
def effects (s : State) : Instr → Effects
  | .abs n => ⟨true, [.d n], 0#32, 0, false⟩
  | .addImm _ n => ⟨true, [.d n], bitC, 0, false⟩
  | .addReg _ _ n => ⟨true, [.d n], bitC, 0, false⟩
  | .addSame _ _ n => ⟨true, [.d n], bitC, 0, false⟩
  | .add2 _ n => ⟨true, [.d n], 0#32, 0, false⟩
  | .addnc _ _ n => ⟨true, [.d n], 0#32, 0, false⟩
  | .adr _ n => ⟨true, [.d n], 0#32, 0, false⟩
  | .asl _ n => ⟨true, [.d n], bitC, 0, false⟩
  | .asr _ n => ⟨true, [.d n], bitC, 0, false⟩
  | .clr _ n => ⟨true, [.d n], bitC, 0, false⟩
  | .cmpeq _ _ => ⟨true, [], bitT, 0, false⟩
  | .cmpeqU _ _ => ⟨true, [], bitT, 0, false⟩
  | .cmpeqS _ _ => ⟨true, [], bitT, 0, false⟩
  | .cmpgt _ _ => ⟨true, [], bitT, 0, false⟩
  | .cmpgtU _ _ => ⟨true, [], bitT, 0, false⟩
  | .cmpgtS _ _ => ⟨true, [], bitT, 0, false⟩
  | .cmphi _ _ => ⟨true, [], bitT, 0, false⟩
  | .decge n => ⟨true, [.d n], bitC ||| bitT, 0, false⟩
  | .div _ n => ⟨true, [.d n], bitC, 0, false⟩
  | .iaddnc _ n => ⟨true, [.d n], 0#32, 0, false⟩
  | .inc n => ⟨true, [.d n], bitC, 0, false⟩
  | .incListed n => ⟨true, [.d n], bitC, 0, false⟩
  | .incF n => ⟨true, [.d n], bitC, 0, false⟩
  | .max _ h => ⟨true, [.d h], 0#32, 0, false⟩
  | .max2vitA _ b => ⟨true, [.d b], 0x300#32, 0, false⟩
  | .max2vitB _ b => ⟨true, [.d b], 0xC00#32, 0, false⟩
  | .min _ h => ⟨true, [.d h], 0#32, 0, false⟩
  | .neg n => ⟨true, [.d n], 0#32, 0, false⟩
  | .rnd _ n => ⟨true, [.d n], 0#32, 0, false⟩
  | .satL n => ⟨true, [.d n], 0#32, 0, false⟩
  | .sbc _ d => ⟨true, [.d d], bitC, 0, false⟩
  | .sbr _ n => ⟨true, [.d n], 0#32, 0, false⟩
  | .subImm _ n => ⟨true, [.d n], bitC, 0, false⟩
  | .subReg _ _ n => ⟨true, [.d n], bitC, 0, false⟩
  | .subRegSwap _ _ n => ⟨true, [.d n], bitC, 0, false⟩
  | .subSame _ _ n => ⟨true, [.d n], bitC, 0, false⟩
  | .sub2 _ n => ⟨true, [.d n], 0#32, 0, false⟩
  | .subl _ n => ⟨true, [.d n], bitC, 0, false⟩
  | .subnc _ n => ⟨true, [.d n], 0#32, 0, false⟩
  | .tfr _ n => ⟨true, [.d n], 0#32, 0, false⟩
  | .tfrf _ n => ⟨true, [.d n], 0#32, 0, false⟩
  | .tfrt _ n => ⟨true, [.d n], 0#32, 0, false⟩
  | .tsteq _ => ⟨true, [], bitT, 0, false⟩
  | .tstge _ => ⟨true, [], bitT, 0, false⟩
  | .imac _ _ _ n => ⟨true, [.d n], 0#32, 0, false⟩
  | .imacSame _ _ _ n => ⟨true, [.d n], 0#32, 0, false⟩
  | .imaclhuu _ _ n => ⟨true, [.d n], 0#32, 0, false⟩
  | .imacus _ _ n => ⟨true, [.d n], 0#32, 0, false⟩
  | .impy _ _ n => ⟨true, [.d n], 0#32, 0, false⟩
  | .impySame _ _ n => ⟨true, [.d n], 0#32, 0, false⟩
  | .impyW _ n => ⟨true, [.d n], 0#32, 0, false⟩
  | .impyhluu _ _ n => ⟨true, [.d n], 0#32, 0, false⟩
  | .impysu _ _ n => ⟨true, [.d n], 0#32, 0, false⟩
  | .impyuu _ _ n => ⟨true, [.d n], 0#32, 0, false⟩
  | .mac _ _ _ n => ⟨true, [.d n], 0#32, 0, false⟩
  | .macSame _ _ _ n => ⟨true, [.d n], 0#32, 0, false⟩
  | .macImm _ _ n => ⟨true, [.d n], 0#32, 0, false⟩
  | .macr _ _ _ n => ⟨true, [.d n], 0#32, 0, false⟩
  | .macrSame _ _ _ n => ⟨true, [.d n], 0#32, 0, false⟩
  | .macsu _ _ n => ⟨true, [.d n], 0#32, 0, false⟩
  | .macus _ _ n => ⟨true, [.d n], 0#32, 0, false⟩
  | .macuu _ _ n => ⟨true, [.d n], 0#32, 0, false⟩
  | .mpy _ _ n => ⟨true, [.d n], 0#32, 0, false⟩
  | .mpySame _ _ n => ⟨true, [.d n], 0#32, 0, false⟩
  | .mpyr _ _ n => ⟨true, [.d n], 0#32, 0, false⟩
  | .mpyrSame _ _ n => ⟨true, [.d n], 0#32, 0, false⟩
  | .mpysu _ _ n => ⟨true, [.d n], 0#32, 0, false⟩
  | .mpyus _ _ n => ⟨true, [.d n], 0#32, 0, false⟩
  | .mpyuu _ _ n => ⟨true, [.d n], 0#32, 0, false⟩
  | .andImmLow _ _ n => ⟨true, [.d n], 0#32, 0, false⟩
  | .andImmHigh _ _ n => ⟨true, [.d n], 0#32, 0, false⟩
  | .andReg _ n => ⟨true, [.d n], 0#32, 0, false⟩
  | .asllImm _ n => ⟨true, [.d n], bitC, 0, false⟩
  | .asllReg _ n => ⟨true, [.d n], bitC, 0, false⟩
  | .aslw _ n => ⟨true, [.d n], bitC, 0, false⟩
  | .asrrImm _ n => ⟨true, [.d n], bitC, 0, false⟩
  | .asrrReg _ n => ⟨true, [.d n], bitC, 0, false⟩
  | .asrw _ n => ⟨true, [.d n], bitC, 0, false⟩
  | .clb _ n => ⟨true, [.d n], 0#32, 0, false⟩
  | .eorReg _ n => ⟨true, [.d n], 0#32, 0, false⟩
  | .extractImm _ _ _ n => ⟨true, [.d n], 0#32, 0, false⟩
  | .extractReg _ _ n => ⟨true, [.d n], 0#32, 0, false⟩
  | .extractuImm _ _ _ n => ⟨true, [.d n], 0#32, 0, false⟩
  | .extractuReg _ _ n => ⟨true, [.d n], 0#32, 0, false⟩
  | .insertImm _ _ _ n => ⟨true, [.d n], 0#32, 0, false⟩
  | .insertReg _ _ n => ⟨true, [.d n], 0#32, 0, false⟩
  | .lsll _ n => ⟨true, [.d n], bitC, 0, false⟩
  | .lsr n => ⟨true, [.d n], bitC, 0, false⟩
  | .lsrrImm _ n => ⟨true, [.d n], bitC, 0, false⟩
  | .lsrrReg _ n => ⟨true, [.d n], bitC, 0, false⟩
  | .lsrw _ n => ⟨true, [.d n], bitC, 0, false⟩
  | .notReg _ n => ⟨true, [.d n], 0#32, 0, false⟩
  | .orReg _ n => ⟨true, [.d n], 0#32, 0, false⟩
  | .rol n => ⟨true, [.d n], bitC, 0, false⟩
  | .ror n => ⟨true, [.d n], bitC, 0, false⟩
  | .sxtB _ n => ⟨true, [.d n], 0#32, 0, false⟩
  | .sxtL n => ⟨true, [.d n], 0#32, 0, false⟩
  | .sxtW _ n => ⟨true, [.d n], 0#32, 0, false⟩
  | .zxtB _ n => ⟨true, [.d n], 0#32, 0, false⟩
  | .zxtL n => ⟨true, [.d n], 0#32, 0, false⟩
  | .zxtW _ n => ⟨true, [.d n], 0#32, 0, false⟩
  | .addaImm _ x => ⟨false, rxDests s x, 0#32, 0, false⟩
  | .addaImm16 _ _ n => ⟨false, [.r n], 0#32, 0, false⟩
  | .addaReg _ x => ⟨false, rxDests s x, 0#32, 0, false⟩
  | .addl1a _ x => ⟨false, rxDests s x, 0#32, 0, false⟩
  | .addl2a _ x => ⟨false, rxDests s x, 0#32, 0, false⟩
  | .asl2a x => ⟨false, rxDests s x, 0#32, 0, false⟩
  | .asla x => ⟨false, rxDests s x, 0#32, 0, false⟩
  | .asra x => ⟨false, rxDests s x, 0#32, 0, false⟩
  | .cmpeqa _ _ => ⟨false, [], bitT, 0, false⟩
  | .cmpgta _ _ => ⟨false, [], bitT, 0, false⟩
  | .cmphia _ _ => ⟨false, [], bitT, 0, false⟩
  | .deca x => ⟨false, rxDests s x, 0#32, 0, false⟩
  | .deceqa x => ⟨false, rxDests s x, bitT, 0, false⟩
  | .decgea x => ⟨false, rxDests s x, bitT, 0, false⟩
  | .inca x => ⟨false, rxDests s x, 0#32, 0, false⟩
  | .lsra x => ⟨false, rxDests s x, 0#32, 0, false⟩
  | .subaImm _ x => ⟨false, rxDests s x, 0#32, 0, false⟩
  | .subaReg _ x => ⟨false, rxDests s x, 0#32, 0, false⟩
  | .sxtaB _ x => ⟨false, rxDests s x, 0#32, 0, false⟩
  | .sxtaW x => ⟨false, rxDests s x, 0#32, 0, false⟩
  | .tfra _ x => ⟨false, rxDests s x, 0#32, 0, false⟩
  | .tfraFromOsp n => ⟨false, [.r n], 0#32, 0, false⟩
  | .tfraToOsp _ => ⟨false, [ospDest s], 0#32, 0, false⟩
  | .tsteqaL _ => ⟨false, [], bitT, 0, false⟩
  | .tsteqaW _ => ⟨false, [], bitT, 0, false⟩
  | .tstgeaL _ => ⟨false, [], bitT, 0, false⟩
  | .tstgta _ => ⟨false, [], bitT, 0, false⟩
  | .zxtaB _ x => ⟨false, rxDests s x, 0#32, 0, false⟩
  | .zxtaW x => ⟨false, rxDests s x, 0#32, 0, false⟩
  | .move2f ea rn p => ⟨false, pairDests p ++ eaDests ea rn, 0#32, 0, false⟩
  | .move2l dir ea rn p => ⟨false, (if dir = .read then pairDests p else []) ++ eaDests ea rn, 0#32, 0, false⟩
  | .move2w dir ea rn p => ⟨false, (if dir = .read then pairDests p else []) ++ eaDests ea rn, 0#32, 0, false⟩
  | .move4f ea rn q => ⟨false, quadDests q ++ eaDests ea rn, 0#32, 0, false⟩
  | .move4w dir ea rn q => ⟨false, (if dir = .read then quadDests q else []) ++ eaDests ea rn, 0#32, 0, false⟩
  | .movebLoad m dr => ⟨false, drDests dr ++ memDests m, 0#32, 0, false⟩
  | .movebStore _ m => ⟨false, memDests m, 0#32, 0, false⟩
  | .movefImm _ b => ⟨false, [.d b], 0#32, 0, false⟩
  | .movefLoad m b => ⟨false, .d b :: memDests m, 0#32, 0, false⟩
  | .movefStore _ m => ⟨false, memDests m, 0#32, 0, false⟩
  | .movelImmC4 _ c => ⟨false, c4Dests c, 0#32, 0, false⟩
  | .movelImmC1 _ c => ⟨false, c1Dests c, c1Sr c, 0, false⟩
  | .movelC4 dir c b => ⟨false, if dir = .read then [.d b] else c4Dests c, 0#32, 0, false⟩
  | .movelC2 dir c b => ⟨false, if dir = .read then [.d b] else c2Dests c, if dir = .read then 0#32 else c2Sr c, 0, false⟩
  | .movelExtEven _ e => ⟨false, [.d (pairFst e)], 0#32, 0, false⟩
  | .movelExtStore _ _ => ⟨false, [], 0#32, 0, false⟩
  | .movelExtOdd _ o => ⟨false, [.d (pairSnd o)], 0#32, 0, false⟩
  | .movel dir m dr => ⟨false, (if dir = .read then drDests dr else []) ++ memDests m, 0#32, 0, false⟩
  | .movelC4Mem dir m c => ⟨false, (if dir = .read then c4Dests c else []) ++ memDests m, 0#32, 0, false⟩
  | .movelC3 dir _ c => ⟨false, if dir = .read then c4Dests (c3c4 c) else [], 0#32, 0, false⟩
  | .movewImm7 _ dr => ⟨false, drDests dr, 0#32, 0, false⟩
  | .movewImm16 _ c => ⟨false, c4Dests c, 0#32, 0, false⟩
  | .movewImmMem _ _ => ⟨false, [], 0#32, 0, false⟩
  | .movew dir m dr => ⟨false, (if dir = .read then drDests dr else []) ++ memDests m, 0#32, 0, false⟩
  | .movewC4Mem dir m c => ⟨false, (if dir = .read then c4Dests c else []) ++ memDests m, 0#32, 0, false⟩
  | .movewC3 dir _ c => ⟨false, if dir = .read then c4Dests (c3c4 c) else [], 0#32, 0, false⟩
  | .movet _ n => ⟨false, [.r n], 0#32, 0, false⟩
  | .movef _ n => ⟨false, [.r n], 0#32, 0, false⟩
  | .moves2f _ ea rn => ⟨false, eaDests ea rn, bitS, 0, false⟩
  | .moves4f _ ea rn => ⟨false, eaDests ea rn, bitS, 0, false⟩
  | .movesf _ m => ⟨false, memDests m, bitS, 0, false⟩
  | .moveslEa _ ea rn => ⟨false, eaDests ea rn, bitS, 0, false⟩
  | .moveub m dr => ⟨false, drDests dr ++ memDests m, 0#32, 0, false⟩
  | .moveulImm _ b => ⟨false, [.d b], 0#32, 0, false⟩
  | .moveuwHigh _ b => ⟨false, [.d b], 0#32, 0, false⟩
  | .moveuwLow _ b => ⟨false, [.d b], 0#32, 0, false⟩
  | .moveuwC4 m c => ⟨false, c4Dests c ++ memDests m, 0#32, 0, false⟩
  | .moveuw m dr => ⟨false, drDests dr ++ memDests m, 0#32, 0, false⟩
  | .vsl2f _ rn => ⟨false, [.r rn], 0#32, 0, false⟩
  | .vsl2w _ rn => ⟨false, [.r rn], 0#32, 0, false⟩
  | .vsl4f _ rn => ⟨false, [.r rn], 0#32, 0, false⟩
  | .vsl4w _ rn => ⟨false, [.r rn], 0#32, 0, false⟩
  | .popEven e => ⟨false, spDest s :: evenDests e, 0#32, 0, false⟩
  | .popOdd o => ⟨false, spDest s :: oddDests o, oddSr o, 0, false⟩
  | .popnEven e => ⟨false, .nsp :: evenDests e, 0#32, 0, false⟩
  | .popnOdd o => ⟨false, .nsp :: oddDests o, oddSr o, 0, false⟩
  | .pushEven _ => ⟨false, [spDest s], 0#32, 0, false⟩
  | .pushOdd _ => ⟨false, [spDest s], 0#32, 0, false⟩
  | .pushnEven _ => ⟨false, [.nsp], 0#32, 0, false⟩
  | .pushnOdd _ => ⟨false, [.nsp], 0#32, 0, false⟩
  | .bmclrDr _ _ dr => ⟨false, drDests dr, 0#32, 0, false⟩
  | .bmclrC1 _ _ c => ⟨false, c1Dests c, c1Sr c, 0, false⟩
  | .bmclrMem _ _ => ⟨false, [], 0#32, 0, false⟩
  | .bmsetDr _ _ dr => ⟨false, drDests dr, 0#32, 0, false⟩
  | .bmsetC1 _ _ c => ⟨false, c1Dests c, c1Sr c, 0, false⟩
  | .bmsetMem _ _ => ⟨false, [], 0#32, 0, false⟩
  | .bmchgDr _ _ dr => ⟨false, drDests dr, 0#32, 0, false⟩
  | .bmchgC1 _ _ c => ⟨false, c1Dests c, c1Sr c, 0, false⟩
  | .bmchgMem _ _ => ⟨false, [], 0#32, 0, false⟩
  | .bmtstcDr _ _ _ => ⟨false, [], bitT, 0, false⟩
  | .bmtstcC1 _ _ _ => ⟨false, [], bitT, 0, false⟩
  | .bmtstcMem _ _ => ⟨false, [], bitT, 0, false⟩
  | .bmtstsDr _ _ _ => ⟨false, [], bitT, 0, false⟩
  | .bmtstsC1 _ _ _ => ⟨false, [], bitT, 0, false⟩
  | .bmtstsMem _ _ => ⟨false, [], bitT, 0, false⟩
  | .bmtsetDr _ _ dr => ⟨false, drDests dr, bitT, 0, false⟩
  | .bmtsetMem _ _ => ⟨false, [], bitT, 0, false⟩
  | .andDr _ _ dr => ⟨false, drDests dr, 0#32, 0, false⟩
  | .andMem _ _ => ⟨false, [], 0#32, 0, false⟩
  | .eorDr _ _ dr => ⟨false, drDests dr, 0#32, 0, false⟩
  | .eorMem _ _ => ⟨false, [], 0#32, 0, false⟩
  | .notDr _ dr => ⟨false, drDests dr, 0#32, 0, false⟩
  | .notMem _ => ⟨false, [], 0#32, 0, false⟩
  | .orDr _ _ dr => ⟨false, drDests dr, 0#32, 0, false⟩
  | .orMem _ _ => ⟨false, [], 0#32, 0, false⟩
  | .brad _ => ⟨false, [], 0#32, 0, true⟩
  | .bra _ => ⟨false, [], 0#32, 0, true⟩
  | .bsrd _ => ⟨false, [], 0#32, 0, true⟩
  | .bsr _ => ⟨false, [spDest s], 0#32, 0, true⟩
  | .btd _ => ⟨false, [], 0#32, 0, true⟩
  | .bt _ => ⟨false, [], 0#32, 0, true⟩
  | .bfd _ => ⟨false, [], 0#32, 0, true⟩
  | .bf _ => ⟨false, [], 0#32, 0, true⟩
  | .jmpd _ => ⟨false, [], 0#32, 0, true⟩
  | .jmp _ => ⟨false, [], 0#32, 0, true⟩
  | .jsrd _ => ⟨false, [], 0#32, 0, true⟩
  | .jsr _ => ⟨false, [spDest s], 0#32, 0, true⟩
  | .jtd _ => ⟨false, [], 0#32, 0, true⟩
  | .jt _ => ⟨false, [], 0#32, 0, true⟩
  | .jfd _ => ⟨false, [], 0#32, 0, true⟩
  | .jf _ => ⟨false, [], 0#32, 0, true⟩
  | .break_ _ => ⟨false, [], 0x78000000#32, 4, true⟩
  | .skipls _ => ⟨false, [], 0x78000000#32, 4, true⟩
  | .contd _ => ⟨false, loopDests s, 0x78000000#32, 4, true⟩
  | .cont _ => ⟨false, loopDests s, 0x78000000#32, 4, true⟩
  | .dosetup l _ => ⟨false, [.sa l], 0#32, 0, false⟩
  | .doen l _ => ⟨false, [.lc l], (0x08000000#32 <<< l.val), 4, false⟩
  | .doensh l _ => ⟨false, [.lc l], (0x80000000#32 ||| (0x08000000#32 <<< l.val)), 4, false⟩
  | .illegal _ => ⟨false, [], 0#32, 0, false⟩
  | .prefix1 _ _ _ _ => ⟨false, [], 0#32, 0, false⟩
  | .prefix2 _ _ _ _ _ => ⟨false, [], 0#32, 0, false⟩
  | .ifa _ => ⟨false, [], 0#32, 0, false⟩
  | .iff _ => ⟨false, [], 0#32, 0, false⟩
  | .ift _ => ⟨false, [], 0#32, 0, false⟩
  | .lpmarka _ => ⟨false, [], 0#32, 0, false⟩
  | .lpmarkb _ => ⟨false, [], 0#32, 0, false⟩
  | .rte => ⟨false, [spDest s], srMask, 0, true⟩
  | .rted => ⟨false, [spDest s], 0#32, 0, true⟩
  | .rts => ⟨false, [spDest s], 0#32, 0, true⟩
  | .rtsd => ⟨false, [spDest s], 0#32, 0, true⟩
  | .rtstk => ⟨false, [spDest s], 0#32, 0, true⟩
  | .rtstkd => ⟨false, [spDest s], 0#32, 0, true⟩
  | .trap => ⟨false, [.esp], 0#32, 0, true⟩
  | .debug => ⟨false, [], 0#32, 2, false⟩
  | .debugev => ⟨false, [], 0#32, 2, false⟩
  | .di => ⟨false, [], 0x00080000#32, 3, false⟩
  | .ei => ⟨false, [], 0x00080000#32, 3, false⟩
  | .mark => ⟨false, [], 0#32, 1, false⟩
  | .stop => ⟨false, [], 0#32, 0, true⟩
  | .wait => ⟨false, [], 0#32, 0, true⟩
  | .nop => ⟨false, [], 0#32, 0, false⟩

end Sys2Proof.Machine
end

