-- ==== Sys2Proof/Machine/Group.lean ====
section
/-! DEFINITION. Execution sets: their words, their instructions, the grouping errors that are detected, and how the results of the
instructions of one set are put together (spec/30_encoding.md R151 to R158, R178 to R180; spec/70_reset_and_hazards.md R602, R610
to R625). -/

namespace Sys2Proof.Machine

/-! ### Decoding a set (R178) -/

/-- One instruction of a set: its position, its words. -/
structure Slot where
  pos : Nat
  instr : Instr
  words : Nat
  /-- its first word, for its type (R152) -/
  first : Nat

/-- A decoded set. -/
structure ExecSet where
  /-- its length in words -/
  len : Nat
  /-- its prefix instruction -/
  pre : Option Instr
  slots : List Slot
  /-- an illegal instruction word or field in it (EMR.ILIN) -/
  ilin : Bool
  /-- a grouping error in it (EMR.ILST) -/
  ilst : Bool

/-- The words from PC on: the eight that a set can take (R151), and the two into which its last instruction could run (R178 step 5).  They
come from memory, in the EOnCE window from that beneath it (R100, R701; log 28, DESIGN CHOICE). -/
def fetchWords (s : State) : List Nat := (List.range 10).map fun i => (mem16 s (s.pc + BitVec.ofNat 32 (2 * i))).toNat

/-- The length of a serially grouped set: up to the first word whose two top bits are not 00 (R152). -/
def serialLen (ws : List Nat) (k : Nat) : Option Nat :=
  match ws with
  | [] => none
  | w :: rest => if top2 w = 0 then serialLen rest (k + 1) else some (k + 1)

/-- An ISAP opcode inside a prefix-grouped set: two words `0011` and `101` that are no two-word instruction (R157 (c), R178). -/
def isapWord (ws : List Nat) : Bool :=
  match ws with
  | w :: x :: _ => w / 2 ^ 12 % 16 == 3 && top3 x == 5 && (findTwo ws).isNone
  | _ => false

/-- How many words an illegal instruction takes: those that the tags of the words after it give it (log 18). -/
def illegalWords (ws : List Nat) : Nat :=
  match ws with
  | w :: x :: rest =>
    if top2 w = 0 ∧ top2 x = 2 then 2
    else if top2 w = 0 ∧ top3 x = 1 ∧ rest.head?.map top2 = some 2 then 3
    else 1
  | _ => 1

/-- What the words of a set are: its instructions, whether one of them is illegal, and whether it breaks a rule on the set's length
or types. -/
structure Walked where
  slots : List Slot
  ilin : Bool
  ilst : Bool

/-- The instructions of a set from position `pos` on (R178 step 4). `n` bounds the words left, `ws` are the words that follow,
those past the end of the set included, and `left` is how many of them are in the set.  An illegal word does not end the walk, so
that both kinds of error are found (R511).  One that runs past the end is told from an illegal word by the words there: it is an
instruction with them (log 18; DESIGN CHOICE). -/
def walk (n : Nat) (hb : BitVec 16) (prefixed : Bool) (ws : List Nat) (left pos : Nat) : Walked :=
  match n, left with
  | 0, _ => ⟨[], false, false⟩
  | _, 0 => ⟨[], false, false⟩
  | n + 1, left + 1 =>
    match ws with
    | [] => ⟨[], false, true⟩
    | w :: rest =>
      let inside := (w :: rest).take (left + 1)
      let go (k : Nat) : Walked := walk n hb prefixed ((w :: rest).drop k) (left + 1 - k) (pos + k)
      let illegal (k : Nat) : Walked := { go k with ilin := true }
      if prefixed && (w &&& 0xFFE0 == 0x90C0) then go 1
      else if isPrefix1 w then
        { go 1 with ilin := (go 1).ilin || w / 2 ^ 9 % 8 != 0, ilst := (go 1).ilst || !prefixed }
      else if prefixed && isapWord inside then illegal 2
      else
        match decodeAt (bankAt hb pos) inside with
        | some (i, k) => { go k with slots := ⟨pos, i, k, w⟩ :: (go k).slots }
        | none =>
          match decodeAt (bankAt hb pos) (w :: rest) with
          | some (_, k) => if left + 1 < k then ⟨[], false, true⟩ else illegal (illegalWords inside)
          | none => illegal (illegalWords inside)

/-- A Type 4 instruction (R152). -/
def Slot.type4 (x : Slot) : Bool := (x.words == 1 && top2 x.first == 2) || (x.words == 2 && top3 x.first == 1)

/-- A Type 1 instruction that is grouped with the next word (R152). -/
def Slot.grouped (x : Slot) : Bool := x.words == 1 && top2 x.first == 0

/-- Is a serially grouped set of `len` words one of the four options of R152: a Type 4 instruction alone, or Type 1 instructions
before its last one? -/
def serialOk (len : Nat) (xs : List Slot) : Bool :=
  decide (xs.length ≤ 6)
    && xs.all fun x => if x.pos + x.words < len then x.grouped else !x.type4 || x.pos == 0

/-- The set at PC (R178).  After a prefix with a reserved field value the other words are walked all the same; a two-word prefix
with aaa = 0 has a length of one word, so nothing is decoded of it but that word (D43, log 18). -/
def decodeSet (s : State) (ws : List Nat) : ExecSet :=
  match ws with
  | w0 :: w1 :: rest =>
    if isPrefix1 w0 then
      let len := w0 / 2 ^ 9 % 8 + 1
      let p := prefix1Instr w0
      let r := walk 8 0#16 true (w1 :: rest) (len - 1) 1
      ⟨len, p, r.slots, r.ilin || p.isNone, r.ilst⟩
    else if isPrefix2 w0 w1 then
      let len := w0 / 2 ^ 9 % 8 + 1
      let p := prefix2Instr w0 w1
      let r := walk 8 (highBits w0 w1) true rest (len - 2) s.params.prefix2First
      ⟨len, p, r.slots, r.ilin || p.isNone, r.ilst⟩
    else
      match serialLen (ws.take 8) 0 with
      | none => ⟨1, none, [], false, true⟩
      | some len =>
        let r := walk 8 0#16 false ws len 0
        ⟨len, none, r.slots, r.ilin, r.ilst || !serialOk len r.slots⟩
  | _ => ⟨1, none, [], false, true⟩

/-! ### Which instructions of a set execute (R155, R613) -/

/-- Does the condition field enable a position when T is `t` (R155)? -/
def ifcEnables (ccc : BitVec 3) (t : Bool) (pos : Nat) : Bool :=
  let even := pos % 2 == 0
  match ccc.toNat with
  | 1 => if even then t else !t
  | 2 => t
  | 3 => !t
  | 6 => if even then t else true
  | 7 => if even then !t else true
  | _ => true

/-- Does the instruction's own condition hold when T is `t` (R245, R244, R367)? -/
def ownCondition (i : Instr) (t : Bool) : Bool :=
  match i with
  | .tfrt _ _ => t
  | .movet _ _ => t
  | .tfrf _ _ => !t
  | .movef _ _ => !t
  | _ => true

/-- Does an instruction of the set execute when T is `t`? -/
def Slot.runs (x : Slot) (ccc : BitVec 3) (t : Bool) : Bool := ifcEnables ccc t x.pos && ownCondition x.instr t

/-! ### Grouping errors (R158, R511, R602, R620 to R624) -/

/-- Are the numbers all different? -/
def distinct (xs : List Nat) : Bool :=
  match xs with
  | [] => true
  | x :: rest => !rest.contains x && distinct rest

/-- The positions of the extension words of an instruction. -/
def extPositions (x : Slot) : List Nat := (List.range (x.words - 1)).map fun i => (x.pos + 1 + i) % 2

/-- The positions let every instruction and every extension word have a unit of its own (R158, R511). -/
def unitsOk (s : State) (xs : List Slot) : Bool :=
  let dalu := xs.filter fun x => (effects s x.instr).dalu
  let agu := xs.filter fun x => !(effects s x.instr).dalu
  distinct (dalu.map fun x => x.pos % 4) && distinct (agu.map fun x => x.pos % 2)
    && distinct (xs.flatMap extPositions)

/-- Is it a PUSH, PUSHN, POP or POPN: its kind and its slot (0 even, 1 odd)? -/
def stackKind (i : Instr) : Option (Nat × Nat) :=
  match i with
  | .pushEven _ => some (1, 0)
  | .pushOdd _ => some (1, 1)
  | .pushnEven _ => some (2, 0)
  | .pushnOdd _ => some (2, 1)
  | .popEven _ => some (3, 0)
  | .popOdd _ => some (3, 1)
  | .popnEven _ => some (4, 0)
  | .popnOdd _ => some (4, 1)
  | _ => none

/-- May two instructions both write a stack pointer, as an even and an odd PUSH or POP (R620 exception (i))? -/
def stackPair (i j : Instr) : Bool :=
  match stackKind i, stackKind j with
  | some a, some b => a.1 == b.1 && a.2 != b.2
  | _, _ => false

/-- Do two instructions that both execute write one AGU register (R602 condition 3)?  A load into a pointer that the set also updates is
such a pair (R620 (2); log 25). -/
def aguClash (i j : Instr) (a b : Effects) : Bool :=
  a.dests.any fun x => x.isAgu && b.dests.contains x && !(stackPair i j && (x == .nsp || x == .esp))

/-- Do two instructions that both execute update one bit of SR, C and S apart, or all of SR and some bit (R602 condition 4, R620
(5), (6))? -/
def srClash (a b : Effects) : Bool :=
  (a.sr &&& b.sr &&& ~~~(bitC ||| bitS)) != 0#32 || (a.sr == srMask && b.sr != 0#32) || (b.sr == srMask && a.sr != 0#32)

/-- The stack pointer that BSRD and JSRD write at the end of their delay slot (R422). -/
def laterDests (s : State) (i : Instr) : List Dest :=
  match i with
  | .bsrd _ => [spDest s]
  | .jsrd _ => [spDest s]
  | _ => []

/-- The bits of SR that RTED writes at the end of its delay slot (R441). -/
def laterSr (i : Instr) : Word :=
  match i with
  | .rted => srMask
  | _ => 0#32

/-- All that an instruction writes, what it writes after its delay slot included. -/
def allEffects (s : State) (i : Instr) : Effects :=
  let e := effects s i
  { e with dests := e.dests ++ laterDests s i, sr := e.sr ||| laterSr i }

/-- A grouping error between two instructions of a set that both execute (R602, R620, R623).  That two write one stack pointer
counts for either value of EXP: each writes NSP or ESP as SP or as OSP (R620 (3)). -/
def pairClash (s : State) (x y : Slot) : Bool :=
  let clash (t : State) : Bool :=
    let a := allEffects t x.instr
    let b := allEffects t y.instr
    aguClash x.instr y.instr a b || srClash a b || (a.line == b.line && a.line != 0)
  clash (setSrBit s 18 false) || clash (setSrBit s 18 true)

/-- Does some pair of a list satisfy `f`? -/
def anyPair (f : Slot → Slot → Bool) (xs : List Slot) : Bool :=
  match xs with
  | [] => false
  | x :: rest => rest.any (f x) || anyPair f rest

/-- The grouping errors of the set that are detected (R511, R602): units, extension words, and for either value of T no clash between
two instructions that execute then.  Two changes of flow are not detected (R179; log 25). -/
def groupOk (s : State) (ccc : BitVec 3) (xs : List Slot) : Bool :=
  let clean (t : Bool) : Bool := !anyPair (pairClash s) (xs.filter fun x => x.runs ccc t)
  unitsOk s xs && clean true && clean false

/-! ### Changes of flow -/

/-- Is a change of flow of this kind taken (R420, R421)?  TRAP, STOP and WAIT are none. -/
def cofTaken (s : State) (i : Instr) : Bool :=
  match i with
  | .bt _ => tBit s
  | .btd _ => tBit s
  | .jt _ => tBit s
  | .jtd _ => tBit s
  | .bf _ => !tBit s
  | .bfd _ => !tBit s
  | .jf _ => !tBit s
  | .jfd _ => !tBit s
  | .skipls _ =>
    match activeLoop s with
    | some n => decide ((lcReg s n).toInt ≤ 0)
    | none => false
  | .trap => false
  | .stop => false
  | .wait => false
  | i => (effects s i).flow

/-! ### Putting the results of a set together (R610 to R612, R620) -/

/-- The result of one executed instruction. -/
structure Done where
  instr : Instr
  eff : Effects
  st : State

/-- The new one of two values, if it changed. -/
def newer {α : Type} [DecidableEq α] (base old new : α) : α := if new = base then old else new

/-- A register of the merged state: its one writer's value, the old value without a writer, a free value with two (D53, U34). -/
def owned {α : Type} (ds : List Done) (x : Dest) (old fresh : α) (get : State → α) : α :=
  match ds.filter fun d => d.eff.dests.contains x with
  | [] => old
  | [d] => get d.st
  | d :: _ => if x.isAgu then get d.st else fresh

/-- SR of the merged state: every instruction's own bits; of several writers of C the last; S is the OR (R612, R620 (iv)): but for a
write of SR an instruction only ever sets S, except a MOVES in the reserved scaling mode, whose free S counts also where S was 1
(R40, R353: "S = Undefined"; log 17). -/
def mergeSr (base : Word) (ds : List Done) : Word :=
  ds.foldl (fun sr d =>
    let m := d.eff.sr &&& ~~~bitS
    let s' := (sr &&& ~~~m) ||| (d.st.sr &&& m)
    let x := if d.eff.sr == srMask then bitS else (base ^^^ d.st.sr) &&& d.eff.sr &&& bitS
    (s' &&& ~~~x) ||| (d.st.sr &&& x)) base

/-- Does an instruction write EMR (R47)? -/
def writesEmr (i : Instr) : Bool :=
  match i with
  | .movelImmC1 _ c => c == .emr
  | .movelC2 dir c _ => dir == .write && c == .emr
  | .bmclrC1 _ _ c => c == .emr
  | .bmsetC1 _ _ c => c == .emr
  | .bmchgC1 _ _ c => c == .emr
  | _ => false

/-- The bits of EMR that an instruction writes, those apart that an event sets: the sticky ones, or NMID alone, which a return clears
(R47, R440, R444). -/
def emrWritten (i : Instr) : Word :=
  match i with
  | .rte => 8#32
  | .rtstk => 8#32
  | .rtstkd => 8#32
  | i => if writesEmr i then 0xF#32 else 0#32

/-- EMR of the merged state: the bits that no instruction cleared, then those that an event of the set set (D33).  A bit with two
writers is unspecified: if it is 1 it may be cleared or not (D53), by the bits of `fresh`. -/
def mergeEmr (base fresh : Word) (ds : List Done) : Word :=
  let kept := ds.foldl (fun x d => x &&& d.st.emr) base
  let loose := (ds.foldl (fun (x : Word × Word) d => (x.1 ||| emrWritten d.instr, x.2 ||| (x.1 &&& emrWritten d.instr))) (0#32, 0#32)).2
  let kept' := if loose = 0#32 then kept else (kept &&& ~~~loose) ||| (base &&& fresh &&& loose)
  ds.foldl (fun x d => x ||| d.st.emrEv) kept'

/-- How much is due at the end of a delay slot, so that of two delayed changes of flow the larger is kept. -/
def Delay.rank (d : Delay) : Nat :=
  match d with
  | .none => 0
  | .fallthrough => 1
  | .jump _ => 2
  | .sub _ _ => 3
  | .call _ => 4
  | .ret _ _ _ => 5

/-- The same with another target. -/
def Delay.withTarget (d : Delay) (a : Word) : Delay :=
  match d with
  | .none => .none
  | .fallthrough => .fallthrough
  | .jump _ => .jump a
  | .sub _ f => .sub a f
  | .call _ => .call a
  | .ret _ v f => .ret a v f

/-- The results whose change of flow is taken. -/
def takenFlows (s : State) (ds : List Done) : List Done := ds.filter fun d => cofTaken s d.instr

/-- The address of the next set: that of the one change of flow; two that are taken leave an unspecified one (D53, log 25). -/
def mergeNpc (s : State) (ds : List Done) (fresh : Word) : Word :=
  match takenFlows s ds with
  | [] => s.npc
  | [d] => d.st.npc
  | xs => if xs.all fun d => d.st.delay != .none then s.npc else fresh &&& pcMask

/-- What is due at the end of the delay slot; with two changes of flow taken its target is unspecified (D53, log 25). -/
def mergeDelay (s : State) (ds : List Done) (fresh : Word) : Delay :=
  let d := ds.foldl (fun (x : Delay) d => if x.rank < d.st.delay.rank then d.st.delay else x) s.delay
  if 2 ≤ (takenFlows s ds).length then d.withTarget fresh else d

/-- The processing state after the set: debug state before Stop and Wait (log 62), and of STOP and WAIT together either (D53). -/
def mergeProc (s : State) (ds : List Done) (fresh : Bool) : Proc :=
  let goesTo (p : Proc) : Bool := ds.any fun d => d.st.proc == p
  if goesTo .debug then .debug
  else if goesTo .stop && goesTo .wait then (if fresh then .stop else .wait)
  else if goesTo .stop then .stop
  else if goesTo .wait then .wait
  else s.proc

/-- The accesses of a set: an even and an odd PUSH, or POP, together are one access of two longs (R101). -/
def mergeAcc (ds : List Done) : List Access :=
  let pair (x y : Done) : List Access :=
    match x.st.acc, y.st.acc with
    | [a], [b] =>
      if a.addr + 4 = b.addr then [{ a with width := 8, data := a.data ++ b.data }]
      else if b.addr + 4 = a.addr then [{ b with width := 8, data := b.data ++ a.data }]
      else [a, b]
    | as, bs => as ++ bs
  match ds.filter fun d => (stackKind d.instr).isSome with
  | [x, y] =>
    (ds.filter fun d => (stackKind d.instr).isNone).flatMap (·.st.acc)
      ++ if stackPair x.instr y.instr then pair x y else x.st.acc ++ y.st.acc
  | _ => ds.flatMap fun d => d.st.acc

/-- The bytes of an access. -/
def Access.bytes (x : Access) : List Word := (List.range x.width).map fun i => x.addr + BitVec.ofNat 32 i

/-- The bytes that an instruction wrote. -/
def writtenBytes (d : Done) : List Word := (d.st.acc.filter (·.write)).flatMap Access.bytes

/-- Copy bytes of a memory into another. -/
def copyBytes (src dst : Memory) (xs : List Word) : Memory := xs.foldl (fun m a => m.put a.toNat (src.byte a.toNat)) dst

/-- What stands in two of some lists. -/
def twice {α : Type} [BEq α] (xs : List (List α)) : List α :=
  match xs with
  | [] => []
  | x :: rest => (x.filter fun a => rest.any fun y => y.contains a) ++ twice rest

/-- Bytes of memory with free values, tags from `t` on; the EOnCE window is no memory (R701). -/
def freeBytes (s : State) (m : Memory) (t : Nat) (xs : List Word) : Memory :=
  match xs with
  | [] => m
  | a :: rest => freeBytes s (if (eonceOffset s a).isSome then m else m.put a.toNat (free 8 s t)) (t + 1) rest

/-- Memory of the merged state: every instruction's own bytes; a byte written twice is free (U16). -/
def mergeMem (s : State) (ds : List Done) : Memory :=
  let m := ds.foldl (fun m d => copyBytes d.st.mem m (writtenBytes d)) s.mem
  freeBytes s m 200 (twice (ds.map writtenBytes)).eraseDups

/-- The new bits of two values, where they changed. -/
def newerBits {w : Nat} (base old new : BitVec w) : BitVec w := (old &&& ~~~(base ^^^ new)) ||| (new &&& (base ^^^ new))

/-- The new elements of two vectors, where they changed. -/
def newerEach {α : Type} [DecidableEq α] {n : Nat} (base old new : Vector α n) : Vector α n :=
  Vector.ofFn fun i => newer base[i] old[i] new[i]

/-- The EOnCE of the merged state: every field, register of a channel, and bit of ESR, EMCR, ERCV, ETRSMT and the pins from the
instruction that changed it (R702, log 28). -/
def mergeEonce (b x y : Eonce) : Eonce :=
  { enabled := newer b.enabled x.enabled y.enabled, esr := newerBits b.esr x.esr y.esr, emcr := newerBits b.emcr x.emcr y.emcr
    ercv := newerBits b.ercv x.ercv y.ercv, etrsmt := newerBits b.etrsmt x.etrsmt y.etrsmt
    eeCtrl := newer b.eeCtrl x.eeCtrl y.eeCtrl, eeIn := newer b.eeIn x.eeIn y.eeIn, eeOut := newerBits b.eeOut x.eeOut y.eeOut
    pcExcp := newer b.pcExcp x.pcExcp y.pcExcp, excpType := newer b.excpType x.excpType y.excpType
    pcNext := newer b.pcNext x.pcNext y.pcNext, pcLast := newer b.pcLast x.pcLast y.pcLast
    pcDetect := newer b.pcDetect x.pcDetect y.pcDetect, pcDetectHeld := newer b.pcDetectHeld x.pcDetectHeld y.pcDetectHeld
    dbgReq := newer b.dbgReq x.dbgReq y.dbgReq, edcaCtrl := newerEach b.edcaCtrl x.edcaCtrl y.edcaCtrl
    edcaLive := b.edcaLive &&& x.edcaLive &&& y.edcaLive
    edcaRefA := newerEach b.edcaRefA x.edcaRefA y.edcaRefA, edcaRefB := newerEach b.edcaRefB x.edcaRefB y.edcaRefB
    edcaMask := newerEach b.edcaMask x.edcaMask y.edcaMask, edcdCtrl := newer b.edcdCtrl x.edcdCtrl y.edcdCtrl
    edcdRef := newer b.edcdRef x.edcdRef y.edcdRef, edcdMask := newer b.edcdMask x.edcdMask y.edcdMask
    ecntCtrl := newer b.ecntCtrl x.ecntCtrl y.ecntCtrl, ecntVal := newer b.ecntVal x.ecntVal y.ecntVal
    ecntExt := newer b.ecntExt x.ecntExt y.ecntExt, eselCtrl := newer b.eselCtrl x.eselCtrl y.eselCtrl
    eselDm := newer b.eselDm x.eselDm y.eselDm, eselDi := newer b.eselDi x.eselDi y.eselDi
    eselEtb := newer b.eselEtb x.eselEtb y.eselEtb, eselDtb := newer b.eselDtb x.eselDtb y.eselDtb
    tbCtrl := newer b.tbCtrl x.tbCtrl y.tbCtrl, tbRd := newer b.tbRd x.tbRd y.tbRd, tbWr := newer b.tbWr x.tbWr y.tbWr
    tb := newer b.tb x.tb y.tb, picint := newer b.picint x.picint y.picint
    ecr := newer b.ecr x.ecr y.ecr, coreCmd := newer b.coreCmd x.coreCmd y.coreCmd, evs := x.evs ||| y.evs }

/-- The debug-reason bits of ESR and the bit DIS of EMCR that DEBUG, or a trace entry of MARK, sets (R709, R710, R720). -/
def requestBits (s : State) (i : Instr) : Word × Word :=
  let z := { s with eonce := { s.eonce with
    esr := s.eonce.esr &&& ~~~0x1FFFF#32, emcr := s.eonce.emcr &&& ~~~0x8000#32 } }
  let r : State :=
    match i with
    | .debug => debugRequest z
    | .mark => markTrace z
    | _ => z
  (r.eonce.esr &&& 0x1FFFF#32, r.eonce.emcr &&& 0x8000#32)

/-- The registers of the EOnCE that an access reaches: one of 16 bits a control register, a wider one a register for every long (R701,
R702). -/
def accessRegs (s : State) (x : Access) : List Nat :=
  if x.width = 2 then
    match eonceOffset s x.addr with
    | some off => if eonceHalf (off / 4) && (off % 4 == 0 || off == 6) then [off / 4] else []
    | none => []
  else
    let offs := (List.range (x.width / 4)).filterMap fun i => eonceOffset s (x.addr + BitVec.ofNat 32 (4 * i))
    (offs.filter fun off => off % 4 == 0).map (· / 4)

/-- The registers of the EOnCE that an access changes: those it writes, and TB_RD where it reads TB_BUFF (R702, R742). -/
def changedRegs (s : State) (x : Access) : List Nat :=
  let ks := accessRegs s x
  if x.write then ks.filter (eonceWrites s.eonce)
  else if ks.contains 0x53 && !s.eonce.emcr.getLsbD 17 then [0x51] else []

/-- The registers of the EOnCE that an instruction changes by its accesses. -/
def regsOf (s : State) (d : Done) : List Nat := d.st.acc.flatMap (changedRegs s)

/-- The pointers of the trace buffer that some accesses, which led from the EOnCE `b` to `e`, clear by setting TEN (R740). -/
def clearedRegs (b e : Eonce) : List Nat := if e.tbCtrl.getLsbD 4 && !b.tbCtrl.getLsbD 4 then [0x51, 0x52] else []

/-- The registers that an instruction changes besides: the pointers that setting TEN clears, TB_WR by a trace entry of MARK (R740). -/
def sideRegs (s : State) (d : Done) : List Nat :=
  let traced : Bool :=
    match d.instr with
    | .mark => tracing s.eonce 3 && decide (s.eonce.tbWr.toNat < s.params.tbSize)
    | _ => false
  clearedRegs s.eonce d.st.eonce ++ if traced then [0x52] else []

/-- Registers of the EOnCE that two instructions of one set write hold free values, tags from 500 on (R602, R702, D53; log 28). -/
def looseRegs (f : State) (e : Eonce) (ks : List Nat) : Eonce := ks.eraseDups.foldl (fun e k => eonceSet e k (free 32 f (500 + k))) e

/-- The EOnCE after a set: what its instructions changed, where a bit that a debug request sets wins over a write of the same set that
clears it.  A store to a register that another instruction of the set changes too leaves all it writes free (log 28).  In debug state
no request of it is open (R707). -/
def mergedEonce (s f : State) (ds : List Done) : Eonce :=
  let bad := twice (ds.map fun d => regsOf s d ++ sideRegs s d)
  let loose (d : Done) : Bool := (d.st.acc.any (·.write)) && (regsOf s d).any bad.contains
  let own (d : Done) : Eonce := if loose d then { s.eonce with enabled := d.st.eonce.enabled } else d.st.eonce
  let e := ds.foldl (fun e d => mergeEonce s.eonce e (own d)) s.eonce
  let r := looseRegs f e (bad ++ (ds.filter loose).flatMap (regsOf s))
  { r with
    dbgReq := r.dbgReq && !(ds.any fun d => d.st.proc == .debug)
    esr := ds.foldl (fun x d => x ||| (requestBits s d.instr).1) r.esr
    emcr := ds.foldl (fun x d => x ||| (requestBits s d.instr).2) r.emcr }

/-- RAS's valid bit after a set.  A call that sets it beside a TFRA to OSP that clears it leaves it free (R422, R442, R620 (3); log 32). -/
def mergeRasValid (s : State) (fresh : Bool) (ds : List Done) : Bool :=
  let calls (i : Instr) : Bool :=
    match i with
    | .bsr _ => true
    | .jsr _ => true
    | _ => false
  let clears (i : Instr) : Bool :=
    match i with
    | .tfraToOsp _ => true
    | _ => false
  if (ds.any fun d => calls d.instr) && (ds.any fun d => clears d.instr) then fresh
  else ds.foldl (fun x d => newer s.rasValid x d.st.rasValid) s.rasValid

/-- The limit tags of the merged state. -/
def mergeTags (s : State) (ds : List Done) : BitVec 16 :=
  (List.finRange 16).foldl
    (fun l n => setTag l n (owned ds (.d n) (ltag s n) (freeBit s (120 + n.val)) fun t => ltag t n)) s.l

/-- The state that the merged results of a set draw their free values from. -/
def mergeBase (s : State) : State := { s with fresh := s.fresh + 6 }

/-- The merged state of a set: all reads see `s`, all writes come together (R610). -/
def merge (s : State) (ds : List Done) : State :=
  let f := mergeBase s
  let last {α : Type} [DecidableEq α] (get : State → α) : α := ds.foldl (fun x d => newer (get s) x (get d.st)) (get s)
  { s with
    d := Vector.ofFn fun n => owned ds (.d n) (dreg s n) (free 40 f (100 + n.val)) fun t => dreg t n
    l := mergeTags f ds
    r := Vector.ofFn fun n => owned ds (.r n) (rreg s n) 0#32 fun t => rreg t n
    n := Vector.ofFn fun k => owned ds (.n k) (nreg s k) 0#32 fun t => nreg t k
    m := Vector.ofFn fun k => owned ds (.m k) (mreg s k) 0#32 fun t => mreg t k
    mctl := owned ds .mctl s.mctl 0#32 (·.mctl)
    nsp := owned ds .nsp s.nsp 0#32 (·.nsp)
    esp := owned ds .esp s.esp 0#32 (·.esp)
    sa := Vector.ofFn fun k => owned ds (.sa k) (saReg s k) (free 32 f (140 + k.val)) fun t => saReg t k
    lc := Vector.ofFn fun k => owned ds (.lc k) (lcReg s k) (free 32 f (144 + k.val)) fun t => lcReg t k
    vba := owned ds .vba s.vba (free 32 f 148 &&& vbaMask) (·.vba)
    npc := mergeNpc s ds (free 32 f 149)
    sr := mergeSr s.sr ds
    emr := mergeEmr s.emr (free 32 f 150) ds
    mem := mergeMem f ds
    proc := mergeProc s ds (freeBit f 151)
    ras := last (·.ras)
    rasValid := mergeRasValid s (freeBit f 154) ds
    nspShadow := last (·.nspShadow)
    espShadow := last (·.espShadow)
    reqIllegal := s.reqIllegal || ds.any fun d => d.st.reqIllegal
    reqOverflow := s.reqOverflow || ds.any fun d => d.st.reqOverflow
    reqDebug := s.reqDebug || ds.any fun d => d.st.reqDebug
    window := last (·.window)
    delay := mergeDelay s ds (free 32 f 149)
    eonce := mergedEonce s f ds
    flowed := s.flowed || ds.any fun d => d.st.flowed
    acc := s.acc ++ mergeAcc ds
    emrEv := ds.foldl (fun x d => x ||| d.st.emrEv) s.emrEv }

/-! ### A pre-calculated read and a write of the same bytes (R113, R635, U17) -/

/-- The bytes that were read at a pre-calculated address. -/
def earlyBytes (s : State) : List Word := (s.acc.filter fun a => a.pre && !a.write).flatMap Access.bytes

/-- The bytes that one instruction read at a pre-calculated address and another wrote at an address that was not. -/
def raceBytes (xs ys : State) : List Word :=
  let writes := (ys.acc.filter fun a => a.write && !a.pre).flatMap Access.bytes
  (earlyBytes xs).filter writes.contains

/-! ### The marks of the prefix (R652) -/

/-- The address of the next set and the target of a delayed change of flow are unspecified: the set has two writers of PC, and is not
an ordinary pair of changes of flow (R602, D53; log 26). -/
def looseNext (base : State) (tag : Nat) (s : State) : State :=
  { s with npc := free 32 base tag &&& pcMask, delay := s.delay.withTarget (free 32 base (tag + 1)) }

/-- Does what is due at the end of a delay slot write PC? -/
def Delay.jumps (d : Delay) : Bool := d != .none && d != .fallthrough

/-- Is PC written, now or after the delay slot? -/
def hasFlow (s : State) : Bool := s.flowed || s.delay.jumps

/-- Did the marks write LCk: is it changed, or LFk cleared (R652)? -/
def marksLc (base marked : State) (k : LoopIx) : Bool :=
  lcReg base k != lcReg marked k || loopFlag base k != loopFlag marked k

/-- The effects of the marks, decided on the state before the set, over the results `s` of its instructions `is` (log 58).  An LCn, a
bit of SR or a next address that a mark and an instruction both write is unspecified (R602, D53). -/
def overlayMarks (base marked : State) (is : List Instr) (s : State) : State :=
  let x := base.sr ^^^ marked.sr
  let w := is.foldl (fun m i => m ||| (effects base i).sr) 0#32
  let both (k : LoopIx) : Bool := marksLc base marked k && is.any fun i => (effects base i).dests.contains (.lc k)
  let r := if marked.flowed && hasFlow s then looseNext base 166 s
    else { s with npc := if marked.flowed then marked.npc else s.npc }
  { r with
    lc := Vector.ofFn fun k =>
      if both k then free 32 base (160 + k.val) else newer (lcReg base k) (lcReg s k) (lcReg marked k)
    sr := (s.sr &&& ~~~x) ||| (if x &&& w = 0#32 then marked.sr &&& x else (marked.sr &&& ~~~w ||| free 32 base 164 &&& w) &&& x)
    flowed := s.flowed || marked.flowed
    window := if marked.window = base.window then s.window else max s.window marked.window
    loopJump := newer base.loopJump s.loopJump marked.loopJump
    ignoreA := newer base.ignoreA s.ignoreA marked.ignoreA
    ignoreB := newer base.ignoreB s.ignoreB marked.ignoreB }

end Sys2Proof.Machine
end

