-- ==== Sys2Proof/Machine/Run.lean ====
section
/-! DEFINITION. Executing one execution set: fetch, decode, run its enabled instructions together, and what happens at its end
(spec/30_encoding.md R178; spec/70_reset_and_hazards.md R609 to R613; spec/60_exceptions.md R565 step 6). -/

namespace Sys2Proof.Machine

/-- Go on with a next state. -/
def andThen {α β : Type} (r : Res α) (k : α → Res β) : Res β :=
  match r with
  | .next x => k x
  | .fault f => .fault f
  | .refused f => .refused f

/-- The state that the instructions of a set of `len` words start from: the next set follows in memory (R151). -/
def begin (s : State) (len : Nat) : State :=
  { s with delay := .none, npc := s.pc + BitVec.ofNat 32 (2 * len), flowed := false, acc := [], emrEv := 0#32, ifc := 0#3 }

/-! ### The instructions of a set -/

/-- The AGU unit of an instruction's accesses (R158). -/
def tagUnit (pos : Nat) (s : State) : State := { s with acc := s.acc.map fun a => { a with unit := pos % 2 == 1 } }

/-- Run the `k`-th instruction of several, with free values of its own. -/
def runOne (s : State) (k : Nat) (x : Slot) : Res Done :=
  andThen (exec x.instr { s with fresh := s.fresh + k }) fun t => .next ⟨x.instr, effects s x.instr, tagUnit x.pos t⟩

/-- Run instructions one by one, all on the same state (R610). -/
def runEach (s : State) (k : Nat) (xs : List Slot) : Res (List Done) :=
  match xs with
  | [] => .next []
  | x :: rest => andThen (runOne s k x) fun d => andThen (runEach s (k + 1) rest) fun ds => .next (d :: ds)

/-- The bytes that one of the results read with pre-calculation and another wrote without, or TRAP, whose frame is `frame` (R113). -/
def racing (ds : List Done) (frame : List Word) (k : Nat) : List Word :=
  match ds[k]? with
  | none => []
  | some d =>
    ((ds.zipIdx.filter fun x => x.2 != k).flatMap fun x => raceBytes d.st x.1.st) ++ (earlyBytes d.st).filter frame.contains

/-- Is it a return, whose read of the stack frame comes after all other accesses of its set (R691)? -/
def readsLate (i : Instr) : Bool :=
  match i with
  | .rts => true
  | .rtsd => true
  | .rtstk => true
  | .rtstkd => true
  | .rte => true
  | .rted => true
  | _ => false

/-- Run again the instructions that do not read memory as it was before the set: a return reads it as the others leave it (R691),
and one that reads racing bytes finds them free (U17). -/
def rerun (s : State) (all : List Done) (frame : List Word) (k : Nat) (xs : List Slot) (ds : List Done) : Res (List Done) :=
  match xs, ds with
  | x :: xs, d :: ds =>
    let bad := (racing all frame k).eraseDups
    let m := if readsLate x.instr then mergeMem (mergeBase s) all else s.mem
    let one : Res Done :=
      if bad.isEmpty && !readsLate x.instr then .next d else runOne { s with mem := freeBytes s m 300 bad } k x
    andThen one fun e => andThen (rerun s all frame (k + 1) xs ds) fun es => .next (e :: es)
  | _, _ => .next []

/-- Run several instructions and merge their results; the racing bytes of memory are free (U17), those of TRAP's frame `frame` too. -/
def runSeveral (s : State) (xs : List Slot) (frame : List Word) : Res State :=
  andThen (runEach s 0 xs) fun ds =>
    let bad := ((List.range xs.length).flatMap (racing ds frame)).eraseDups
    if bad.isEmpty && !xs.any (readsLate ·.instr) then .next (merge s ds)
    else andThen (rerun s ds frame 0 xs ds) fun es =>
      let m := merge s es
      .next { m with mem := freeBytes s m.mem 260 bad }

/-- Is it TRAP, which is taken at the end of its set (R446)? -/
def isTrap (i : Instr) : Bool :=
  match i with
  | .trap => true
  | _ => false

/-- A set whose other instructions left `m`, after its TRAP left `t`: a byte or an EOnCE register that both wrote is free, and so is a
byte of the frame that another read at a pre-calculated address (R113, U16, U17, D53), and the next address if the set has another
change of flow (R602, D53). -/
def overTrap (s m t : State) (traps : Nat) : State :=
  let bytes (xs : List Access) : List Word := (xs.filter (·.write)).flatMap Access.bytes
  let later := t.acc.drop m.acc.length
  let bad := (twice [bytes m.acc ++ earlyBytes m, bytes later]).eraseDups
  let marked := if m.eonce.tbWr != s.eonce.tbWr then [0x52] else []
  let regs := twice [m.acc.flatMap (changedRegs s) ++ clearedRegs s.eonce m.eonce ++ marked,
    later.flatMap (changedRegs s) ++ clearedRegs m.eonce t.eonce]
  let r := { t with mem := freeBytes s t.mem 320 bad, eonce := looseRegs s t.eonce regs }
  if hasFlow m || 1 < traps then looseNext s 152 r else r

/-- Run the enabled instructions of a set.  One instruction runs on the state itself; TRAP runs after the others (R446). -/
def runSlots (s : State) (xs : List Slot) : Res State :=
  match xs with
  | [] => .next s
  | [x] => andThen (exec x.instr s) fun t => .next (tagUnit x.pos t)
  | _ =>
    let traps := xs.filter fun x => isTrap x.instr
    let frame := if traps.isEmpty then [] else (List.range 8).map fun i => s.esp + BitVec.ofNat 32 i
    andThen (runSeveral s (xs.filter fun x => !isTrap x.instr) frame) fun m =>
      if traps.isEmpty then .next m
      else andThen (exec .trap { m with npc := s.npc }) fun t => .next (overTrap s m t traps.length)

/-! ### Traced changes of flow (R740) -/

/-- The target that a result goes to, now or after the delay slot. -/
def flowTarget (r : State) : Word :=
  match r.delay with
  | .jump t => t
  | .call t => t
  | .sub t _ => t
  | .ret t _ _ => t
  | _ => r.npc

/-- Trace the taken change of flow, the TRAP and the repeated loop of a set; `b` is the state before it.  TB_CTRL is taken as the set
leaves it (log 69; DESIGN CHOICE). -/
def traceFlow (b : State) (pre : Option Instr) (xs : List Slot) (r : State) : State :=
  let s1 := if xs.any fun x => cofTaken b x.instr then traceCof r (flowTarget r) else r
  let s2 := if xs.any fun x => isTrap x.instr then traceInt s1 s1.pc s1.npc else s1
  let marked := match pre with
    | some (.lpmarka _) => true
    | some (.prefix1 _ _ j _) => j
    | some (.prefix2 _ _ _ j _) => j
    | _ => false
  if marked && b.ignoreA == 0 && markARepeats b then
    (if tracing s2.eonce 5 then (if shortLoop b then tracePush s2 (s2.pc ||| 1#32) else traceJump s2 s2.pc s2.npc) else s2)
  else s2

/-! ### The end of a set -/

/-- The bytes of a delayed return's stack frame that the set in its delay slot wrote (R113, rule D.7). -/
def frameWrites (frame : Word) (s : State) : List Word :=
  ((s.acc.filter (·.write)).flatMap Access.bytes).eraseDups.filter fun a => decide ((a - frame).toNat < 8)

/-- A delayed return: what was read from its frame goes to PC and SR by `k`.  Writing the frame in the delay slot leaves the bytes
written and what was read free, tags from 400 on (U17, log 27). -/
def endReturn (s : State) (frame target sr : Word) (k : State → Word → Word → State) : State :=
  match frameWrites frame s with
  | [] => k s target sr
  | ws => k { s with mem := freeBytes s s.mem 400 ws } (free 32 s 408) (free 32 s 409)

/-- What was due at the end of a delay slot (R421, R422, R441, R443, R445). -/
def endDelay (d : Delay) (s : State) : State :=
  match d with
  | .none => s
  | .fallthrough => s
  | .jump t => goTo s t
  | .call t => callTo s s.npc t
  | .sub t f => endReturn s f t 0#32 fun x a _ => goTo x a
  | .ret t sr f => endReturn s f t sr fun x a v => goTo (clearNmid (writeSr x v)) a

/-- Does the loop jump happen at the end of this set (R652)? -/
def loopDue (s : State) : Bool :=
  match s.loopJump with
  | none => false
  | some j => decide (j.left ≤ 1)

/-- PC has two writers at the end of a set: a change of flow of the set itself, the delayed one before it, a loop jump.  The rules on
delay slots and on loops forbid it (R642, R659). -/
def pcClash (d : Delay) (s : State) : Bool :=
  if d.jumps then s.flowed || loopDue s else s.flowed && loopDue s

/-- With two writers PC is unspecified after the set (R602, D53; log 26): the targets, and the address after the set, which a delayed
call pushes, are free. -/
def looseEnd (d : Delay) (s : State) : Delay × State :=
  if pcClash d s then
    (d.withTarget (free 32 s 420),
      { s with
        npc := free 32 s 421 &&& pcMask
        loopJump := if loopDue s then s.loopJump.map fun j => ⟨j.left, free 32 s 422⟩ else s.loopJump })
  else (d, s)

/-- The countdown of a loop jump, which happens with its last set (R652). -/
def endLoopJump (s : State) : State :=
  match s.loopJump with
  | none => s
  | some j =>
    if j.left ≤ 1 then goTo (traceLoop { s with loopJump := none } j.target) j.target
    else { s with loopJump := some ⟨j.left - 1, j.target⟩ }

/-- One more set is executed: the windows that count sets get shorter (R530, R652), and it is the last one (R740). -/
def countSets (s : State) : State :=
  { s with window := s.window - 1, ignoreA := s.ignoreA - 1, ignoreB := s.ignoreB - 1, lastPc := s.pc }

/-- PC_LAST and PC_NEXT sample if the EOnCE is enabled (R713). -/
def samplePcs (last : Word) (s : State) : State :=
  if s.eonce.enabled then { s with eonce := { s.eonce with pcLast := last, pcNext := s.npc &&& pcMask } } else s

/-- Go to the next set: PC moves, and what belongs to one set only is cleared. -/
def advance (s : State) : State :=
  mirrorPins { s with pc := s.npc &&& pcMask, fresh := s.fresh + 8, flowed := false, acc := [], emrEv := 0#32, ifc := 0#3 }

/-- The channels that detect the PC of the next set (R726); `b` is the EOnCE before this one. -/
def keepLive (b : Eonce) (s : State) : State := { s with eonce := { s.eonce with edcaLive := liveChannels b s.eonce } }

/-- The end of a set that started from `b` (R565 step 6): the delayed change of flow, the loop jump, the windows, the EOnCE, and
the next PC.  A set that was illegal counts as an executed one here (log 18; DESIGN CHOICE). -/
def finish (b : State) (s : State) : State :=
  let x := looseEnd b.delay s
  let s1 := countSets (endLoopJump (endDelay x.1 x.2))
  let s2 := traceExec b.eonce (tBit b) s1
  let s3 := eonceEvents b.eonce (detect b.eonce s2) true s2
  advance (samplePcs s3.pc (keepLive b.eonce s3))

/-! ### One set -/

/-- The illegal set: nothing executes; ILIN, ILST or both and the request are set, and PC moves past it (R179, R511, D43). -/
def illegalEffect (ilin ilst : Bool) (s : State) : State :=
  let s1 := if ilin then illegalInstruction s else s
  if ilst then illegalSet s1 else s1

/-- Run a legal set whose prefix has been decided: `m` is the state with the prefix's own effects. -/
def runLegal (b m : State) (xs : List Slot) : Res State :=
  match xs with
  | [] => .next m
  | _ => andThen (runSlots { b with ifc := m.ifc } xs) fun r => .next (overlayMarks b m (xs.map (·.instr)) r)

/-- The state after the prefix instruction of a set: its condition field and its marks (R155, R652). -/
def prefixEffect (b : State) (p : Option Instr) : Res State :=
  match p with
  | none => .next b
  | some i => exec i b

/-- The effects of a decoded set on the state `b` it begins from (R178 step 6).  An illegal word does not hide a grouping error
(R511). -/
def runDecoded (b : State) (x : ExecSet) : Res State :=
  andThen (prefixEffect b x.pre) fun m =>
    let ilst := x.ilst || !groupOk b m.ifc x.slots
    if x.ilin || ilst then .next (illegalEffect x.ilin ilst b)
    else
      let xs := x.slots.filter fun y => y.runs m.ifc (tBit b)
      andThen (runLegal b m xs) fun r => .next (traceFlow b x.pre xs r)

/-- Fetch, decode and execute the set at PC (R565 step 6). -/
def runSet (s : State) : Res State :=
  let x := decodeSet s (fetchWords s)
  andThen (runDecoded (begin s x.len) x) fun r => .next (finish s r)

end Sys2Proof.Machine
end

