-- ==== Sys2Proof/Machine/Service.lean ====
section
/-! DEFINITION. Which exception is taken between two sets, and its entry (spec/60_exceptions.md R500 to R545). -/

namespace Sys2Proof.Machine

/-- An exception that is not TRAP (R500). -/
inductive Pending where
  | illegal | debug | overflow | nmi | maskable
  deriving DecidableEq, Repr

/-- Is the boundary outside the uninterruptible sequences (R530 (a), (b), (c))?  No exception comes between a mark and LA, whether the
loop jumps or ends (R659, log 34). -/
def interruptible (s : State) : Bool := s.delay == .none && s.loopJump == none && s.window == 0 && s.ignoreA == 0

/-- Is a maskable interrupt's level above the mask (R520)? -/
def aboveMask (s : State) : Bool := s.inputs.ireq && decide (intMask s < s.inputs.ipl.toNat)

/-- The first request that is present and enabled, in the order of priority (R502). -/
def pending (s : State) : Option Pending :=
  if s.reqIllegal then some .illegal
  else if s.reqDebug then some .debug
  else if s.reqOverflow then some .overflow
  else if s.inputs.nmiReq && !s.emr.getLsbD 3 then some .nmi
  else if aboveMask s && !disInt s then some .maskable
  else none

/-- The offset on the bus, or the default one with AUTO_VEC (R501). -/
def externalOffset (s : State) (default : BitVec 12) : BitVec 12 :=
  if s.inputs.autoVec then default else s.inputs.offset ++ 0#6

/-- The vector offset of an exception (R500, R501). -/
def offsetOf (s : State) (k : Pending) : BitVec 12 :=
  match k with
  | .illegal => 0x080#12
  | .debug => 0x0C0#12
  | .overflow => 0x100#12
  | .nmi => externalOffset s 0x180#12
  | .maskable => externalOffset s 0x1C0#12

/-- The new interrupt mask (R540, D48). -/
def levelOf (s : State) (k : Pending) : BitVec 3 :=
  match k with
  | .maskable => s.inputs.ipl
  | _ => 7#3

/-- The latch of the exception entered is cleared, PC_EXCP can sample its type again (D46), and an NMI sets NMID (R540). -/
def acknowledge (s : State) (k : Pending) : State :=
  let reopen (t : ExcpType) (e : Eonce) : Eonce := if e.excpType = t then { e with excpType := .none } else e
  match k with
  | .illegal => { s with reqIllegal := false, eonce := reopen .illegal s.eonce }
  | .debug => { s with reqDebug := false }
  | .overflow => { s with reqOverflow := false, eonce := reopen .overflow s.eonce }
  | .nmi => { s with emr := withBit s.emr 3 true }
  | .maskable => s

/-- Entering an exception between two sets (R532, R540): the return address is the next set's; the next three sets cannot be
interrupted (R530 (b)).  Events of the outside that are pending when the debug exception is entered take their effects first, so
that one event asks for it once (R720, log 24).  A data event of the frame's write belongs to no set: PC_DETECT takes the address of the
next one (R713; log 72, DESIGN CHOICE). -/
def enter (b : State) (k : Pending) : State :=
  let s := if k = .debug then settle b else b
  let off := offsetOf s k
  let s1 := acknowledge (takeException { s with acc := [] } off (levelOf s k) s.pc) k
  let s2 := traceInt { s1 with window := 3 } s.lastPc (vectorAddr s off)
  let s3 := eonceEvents s.eonce { detect s.eonce s2 with pcs := 0#18 } false s2
  advance (samplePcs s.eonce.pcLast s3)

/-- One step of the execution state: an exception if one can be taken, else the set at PC (R565 steps 5 and 6). -/
def coreStep (s : State) : Res State :=
  match pending s with
  | some k => if interruptible s then .next (enter s k) else runSet s
  | none => runSet s

/-- Does a request end the Wait state (R562)? -/
def wakes (s : State) : Bool :=
  s.reqIllegal || s.reqDebug || s.reqOverflow || s.inputs.nmiReq || aboveMask s

/-- Leaving Wait: the interrupt is taken at once if it can be (R562). -/
def leaveWait (s : State) : State :=
  let s1 := { s with proc := .execution }
  match pending s1 with
  | some k => if interruptible s1 then enter s1 k else s1
  | none => s1

end Sys2Proof.Machine
end

