-- ==== Sys2Proof/Machine/HostEvents.lean ====
section
/-! DEFINITION. What the outside does to the core between two sets (spec/00_scope.md R4; spec/49_eonce_debug.md R704 to R714,
R720; spec/70_reset_and_hazards.md R600). -/

namespace Sys2Proof.Machine

/-- Let the outside's EOnCE events take effect: at once unless the core executes, then at the end of the next set (R721). -/
def settleEvents (s : State) : State :=
  if s.proc = .execution then s else settle s

/-- Raise EOnCE events; a disabled EOnCE sees none (R705). -/
def raise (s : State) (x : BitVec 18) : State :=
  if s.eonce.enabled then settleEvents { s with eonce := { s.eonce with evs := s.eonce.evs ||| x } } else s

/-! ### Reset (R600, R603) -/

/-- Reset is asserted: the reset values, the Reset state; memory, the trace buffer (an off-core memory), inputs, pins and what the
model itself holds stay (log 55). -/
def assertReset (s : State) : State :=
  let z := State.resetWith s.params
  { z with
    proc := .reset, mem := s.mem, inputs := s.inputs, events := s.events, fresh := s.fresh
    eonce := { z.eonce with eeIn := s.eonce.eeIn, tb := s.eonce.tb } }

/-- Reset is de-asserted: Debug if EE0 or a debug request is held, else Execution (R560, R600); EE0 is then a debug reason (R709).  EE0
counts whatever EE_CTRL and IME hold by a JTAG write during reset, which stays (log 55; DESIGN CHOICE). -/
def releaseReset (s : State) : State :=
  if s.proc = .reset then
    (if s.eonce.eeIn.getLsbD 0 then enterDebug { s with eonce := { s.eonce with esr := s.eonce.esr ||| 0x400#32 } }
     else if s.eonce.dbgReq then enterDebug s
     else { s with proc := .execution })
  else s

/-! ### The EE pins (R714, R726, R728, R731) -/

/-- Is pin i programmed as an input: EE0..EE5, and 6 for EED? -/
def eeIsInput (e : Eonce) (i : Nat) : Bool :=
  match i with
  | 0 => e.eeCtrl.getLsbD 1
  | 5 => e.eeCtrl.getLsbD 10
  | 6 => e.eeCtrl.getLsbD 15
  | i => e.eeCtrl.getLsbD (2 * i) && e.eeCtrl.getLsbD (2 * i + 1)

/-- EDCAEN when the channel's pin is asserted (1011 to 1100) or negated: 1100 is disabled then, in the model by 0000, and does not wait
for the pin again (R726; log 64, DESIGN CHOICE). -/
def edcaPin (up down : Bool) (c : BitVec 16) : BitVec 16 :=
  let k := (c.toNat >>> 10) % 16
  let rest := c &&& 0xC3FF#16
  if up && k == 11 then rest ||| 0x3000#16 else if down && k == 12 then rest else c

/-- EDCDEN when EED is asserted (1010 to 1011) or negated (1011 to 0000).  R714 says that EED cannot disable EDCD, R728 that it does in
the state 1011; the model follows R728, which gives the code (log 64; DESIGN CHOICE). -/
def edcdPin (up down : Bool) (c : BitVec 16) : BitVec 16 :=
  let k := (c.toNat >>> 3) % 16
  let rest := c &&& 0xFF87#16
  if up && k == 10 then rest ||| 0x0058#16 else if down && k == 11 then rest else c

/-- New levels of the EE pins: an assertion is an event, enables what waits for it (if the EOnCE is enabled, R705), and on EE0 can ask
for debug state; in the Reset state its level counts when reset ends (R600).  A pin is asserted when it is 1 (log 65), and a channel that
is made to wait for a pin already asserted waits for its next rise (R726, R728; log 68, DESIGN CHOICE). -/
def setEePins (s : State) (x : BitVec 7) : State :=
  let e := s.eonce
  let up (i : Nat) : Bool := eeIsInput e i && x.getLsbD i && !e.eeIn.getLsbD i
  let down (i : Nat) : Bool := eeIsInput e i && !x.getLsbD i && e.eeIn.getLsbD i
  let evs : BitVec 18 := (List.range 7).foldl (fun v i => if up i then v ||| (1#18 <<< (11 + i)) else v) 0#18
  let e1 := { e with
    eeIn := x
    edcaCtrl := Vector.ofFn fun i => edcaPin (up i.val) (down i.val) (e.edcaCtrl.get i)
    edcaLive := (List.finRange 6).foldl (fun v i => edcaKeep v i.val (edcaPin (up i.val) (down i.val) (e.edcaCtrl.get i))) e.edcaLive
    edcdCtrl := edcdPin (up 6) (down 6) e.edcdCtrl }
  let s1 := { s with eonce := if e.enabled then e1 else { e with eeIn := x } }
  let s2 := if up 0 && e.eeCtrl.getLsbD 0 && s.proc != .reset then debugStateRequest s1 0x400#32 else s1
  raise s2 evs

/-! ### JTAG (R704 to R711) -/

/-- A JTAG write of a register: ERCV sets RCV and, with RCVINT, asks for the debug exception; ESR, ETRSMT and the PC registers are
not written (R702, R711). -/
def jtagSet (s : State) (k : Nat) (v : BitVec 64) : State :=
  if k = 0x02 ∨ k = 0x03 then
    let s1 := { s with eonce := { s.eonce with ercv := v, esr := s.eonce.esr ||| 0x08000000#32 } }
    if s.eonce.emcr.getLsbD 22 then debugException s1 0#32 else s1
  else if k = 0x04 ∨ k = 0x05 then s
  else { s with eonce := eonceSet s.eonce k (v.setWidth 32) }

/-- A JTAG read of a register: reading ETRSMT clears TRSMT and, with TRSINT, asks for the debug exception; reading TB_BUFF
advances its pointer (R711, R742). -/
def jtagGet (s : State) (k : Nat) : State :=
  if k = 0x04 ∨ k = 0x05 then
    let s1 := { s with eonce := { s.eonce with esr := s.eonce.esr &&& ~~~0x04000000#32 } }
    if s.eonce.emcr.getLsbD 24 then debugException s1 0#32 else s1
  else if k = 0x53 then tbAdvance s
  else s

/-- One single step from debug state: the core leaves debug state, which resets the debug reasons, for one set, and without EX comes
back to it (R706, R707, R709).  PCKILL says that an exception was entered in place of the set (R709). -/
def singleStep (s : State) (ex : Bool) : Res State :=
  let s1 := exitDebug s
  if ex then coreStep s1
  else
    let killed := (pending s1).isSome && interruptible s1
    andThen (coreStep s1) fun r =>
      let e := { r.eonce with esr := if killed then r.eonce.esr ||| 0x10000000#32 else r.eonce.esr }
      .next (enterDebug { r with eonce := e })

/-- GO and EX of a JTAG command, in debug state (R706). -/
def goExit (s : State) (go ex : Bool) : Res State :=
  if s.proc = .debug then
    (if go then singleStep s ex else if ex then .next (exitDebug s) else .next s)
  else .next s

/-- The instructions that CORE_CMD takes: moves, jumps and branches that are not delayed, AGU arithmetic (R708). -/
def injectable (i : Instr) : Bool :=
  match i with
  | .bra _ => true
  | .bsr _ => true
  | .bt _ => true
  | .bf _ => true
  | .jmp _ => true
  | .jsr _ => true
  | .jt _ => true
  | .jf _ => true
  | .move2f _ _ _ => true
  | .move2l _ _ _ _ => true
  | .move2w _ _ _ _ => true
  | .move4f _ _ _ => true
  | .move4w _ _ _ _ => true
  | .movebLoad _ _ => true
  | .movebStore _ _ => true
  | .movefImm _ _ => true
  | .movefLoad _ _ => true
  | .movefStore _ _ => true
  | .movelImmC4 _ _ => true
  | .movelImmC1 _ _ => true
  | .movelC4 _ _ _ => true
  | .movelC2 _ _ _ => true
  | .movelExtEven _ _ => true
  | .movelExtStore _ _ => true
  | .movelExtOdd _ _ => true
  | .movel _ _ _ => true
  | .movelC4Mem _ _ _ => true
  | .movelC3 _ _ _ => true
  | .movewImm7 _ _ => true
  | .movewImm16 _ _ => true
  | .movewImmMem _ _ => true
  | .movew _ _ _ => true
  | .movewC4Mem _ _ _ => true
  | .movewC3 _ _ _ => true
  | .movet _ _ => true
  | .movef _ _ => true
  | .moves2f _ _ _ => true
  | .moves4f _ _ _ => true
  | .movesf _ _ => true
  | .moveslEa _ _ _ => true
  | .moveub _ _ => true
  | .moveulImm _ _ => true
  | .moveuwHigh _ _ => true
  | .moveuwLow _ _ => true
  | .moveuwC4 _ _ => true
  | .moveuw _ _ => true
  | .vsl2f _ _ => true
  | .vsl2w _ _ => true
  | .vsl4f _ _ => true
  | .vsl4w _ _ => true
  | .addaImm _ _ => true
  | .addaImm16 _ _ _ => true
  | .addaReg _ _ => true
  | .addl1a _ _ => true
  | .addl2a _ _ => true
  | .asl2a _ => true
  | .asla _ => true
  | .asra _ => true
  | .cmpeqa _ _ => true
  | .cmpgta _ _ => true
  | .cmphia _ _ => true
  | .deca _ => true
  | .deceqa _ => true
  | .decgea _ => true
  | .inca _ => true
  | .lsra _ => true
  | .subaImm _ _ => true
  | .subaReg _ _ => true
  | .sxtaB _ _ => true
  | .sxtaW _ => true
  | .tfra _ _ => true
  | .tfraFromOsp _ => true
  | .tfraToOsp _ => true
  | .tsteqaL _ => true
  | .tsteqaW _ => true
  | .tstgeaL _ => true
  | .tstgta _ => true
  | .zxtaB _ _ => true
  | .zxtaW _ => true
  | _ => false

/-- Run an injected instruction: it changes what it changes from software, PC only if it is a change of flow (R708).  A relative
target and a return address count from PC, the address of the next set, and the debug unit neither sees its accesses nor traces its
change of flow (log 11; DESIGN CHOICE). -/
def inject (s : State) (i : Instr) : Res State :=
  andThen (exec i { s with npc := s.pc, acc := [], emrEv := 0#32, ifc := 0#3 }) fun r => .next (advance r)

/-- Execute what CORE_CMD holds (R708): words that are no instruction raise the illegal-instruction request; an instruction outside
the subgroup, or of another length than the command says, does nothing (log 11).  A change of flow executes also while NOCHOF is set
(R709; log 11, DESIGN CHOICE). -/
def runCoreCmd (s : State) : Res State :=
  let c := s.eonce.coreCmd
  match decodeAt { Bank.zero with hi := c.hi, lo := c.lo } (c.words.map BitVec.toNat) with
  | none => .next { illegalInstruction s with emrEv := 0#32 }
  | some (i, k) => if k = c.words.length ∧ injectable i then inject s i else .next s

/-- CORE_CMD is written and executed, in debug state only; with EX debug state is left after it (R706, R708). -/
def coreCommand (s : State) (c : CoreCmd) (ex : Bool) : Res State :=
  if s.proc = .debug then
    let done := runCoreCmd { s with eonce := { s.eonce with coreCmd := c } }
    if ex then andThen done fun r => .next (exitDebug r) else done
  else .next s

/-- What 48 bits written to CORE_CMD stand for: the layout is a free function (N68, log 11). -/
def coreCmdOf (v : BitVec 48) : CoreCmd :=
  let x := Config.coreCmdLayout v
  let w (k : Nat) : Word16 := x.extractLsb' (16 * k) 16
  ⟨[w 0, w 1, w 2].take (x.extractLsb' 50 2).toNat, x.getLsbD 49, x.getLsbD 48⟩

/-- ECR holds the command: R/W in bit 9, GO, EX and REGSEL (R706). -/
def setEcr (s : State) (read go ex : Bool) (reg : BitVec 7) : State :=
  { s with eonce := { s.eonce with ecr := 0#6 ++ BitVec.ofBool read ++ BitVec.ofBool go ++ BitVec.ofBool ex ++ reg } }

/-- A JTAG write command (R706): the register is written, then GO and EX take effect; with CORE_CMD, GO executes the instruction
written. -/
def jtagWrite (s : State) (reg : BitVec 7) (v : BitVec 64) (go ex : Bool) : Res State :=
  if reg = 0x7E#7 then
    let c := coreCmdOf (v.setWidth 48)
    if s.proc = .debug then
      (if go then coreCommand s c ex else goExit { s with eonce := { s.eonce with coreCmd := c } } false ex)
    else .next s
  else goExit (mirrorPins (jtagSet s reg.toNat v)) go ex

/-- A JTAG read command (R706); GO with a read of CORE_CMD, which is write-only, executes nothing (log 11). -/
def jtagRead (s : State) (reg : BitVec 7) (go ex : Bool) : Res State :=
  goExit (mirrorPins (jtagGet s reg.toNat)) (go && reg != 0x7E#7) ex

/-- Apply one event (R4, R565 step 1).  Another master's write in the EOnCE window goes to the memory beneath it (log 28; DESIGN
CHOICE). -/
def applyEvent (s : State) (v : HostEvent) : Res State :=
  match v with
  | .reset true => .next (assertReset s)
  | .reset false => .next (releaseReset s)
  | .inputs x => .next { s with inputs := x }
  | .wakeFromStop => .next (if s.proc = .stop then { s with proc := .execution } else s)
  | .memWrite a b => .next (putByte s a b)
  | .eePins x => .next (setEePins s x)
  | .ecPulse i =>
    .next (if s.eonce.enabled then settleEvents { s with eonce := countIf s.eonce (13 + i.val) s.eonce } else s)
  | .extEdca i => .next (if i.val < s.params.edcaExt then raise s (1#18 <<< (6 + i.val)) else s)
  | .sysDebug => .next (debugStateRequest s 0#32)
  | .jtagEnable => .next { s with eonce := { s.eonce with enabled := true } }
  | .jtagDebugRequest => .next (debugStateRequest { s with eonce := { s.eonce with enabled := true } } 0#32)
  | .jtagWrite k x go ex => jtagWrite (setEcr s false go ex k) k x go ex
  | .jtagRead k go ex => jtagRead (setEcr s true go ex k) k go ex
  | .coreCommand ws hi lo ex => coreCommand (setEcr s false true ex 0x7E#7) ⟨ws, hi, lo⟩ ex

end Sys2Proof.Machine
end

