-- ==== Sys2Proof/Machine/Step.lean ====
section
/-! DEFINITION. One step of the machine (spec/60_exceptions.md R565), and the loading of one instruction at PC. -/

namespace Sys2Proof.Machine

/-- One step: one event of the outside if there is one, else what the processing state does (R560 to R565). -/
def step (s : State) : Host.Outcome State Fault Refusal :=
  match s.events with
  | v :: rest => applyEvent { s with events := rest } v
  | [] =>
    match s.proc with
    | .debug => .next s
    | .reset => .next s
    | .wait => .next (if s.eonce.dbgReq then enterDebug s else if wakes s then leaveWait s else s)
    | .stop => .next (if s.eonce.dbgReq then enterDebug s else if s.reqDebug then { s with proc := .execution } else s)
    | .execution => if s.eonce.dbgReq && interruptible s then .next (enterDebug s) else coreStep s

/-- Store words at rising addresses. -/
def storeCode (s : State) (a : Word) (ws : List Nat) : State :=
  match ws with
  | [] => s
  | w :: rest => storeCode (put16 s a (BitVec.ofNat 16 w)) (a + 2) rest

/-- The words of the set that holds just the instruction whose bits are `w`: a prefix is followed by the NOP words that its length
takes; a one-word instruction whose top bits are 00 stands after a one-word prefix; any other is a set by itself (R152, R158). -/
def fetchSet (nbits w : Nat) : List Nat :=
  let ws := tableWords nbits w
  let w0 := ws.headD 0
  let n := match decodeWords Bank.zero ws with
    | some (_, k) => k
    | none => (nbits + 15) / 16
  let own := ws.take n
  if isPrefix1 w0 || isPrefix2 w0 ((ws.drop 1).headD 0) then own ++ List.replicate (w0 / 2 ^ 9 % 8 + 1 - n) 0x90C0
  else if n = 1 ∧ top2 w0 = 0 then 0x92C0 :: own
  else own

/-- The state with an instruction where the next step fetches it (log 8). -/
def State.withFetchWord (s : State) (nbits w : Nat) : State := storeCode s s.pc (fetchSet nbits w)

end Sys2Proof.Machine
end

