-- ==== Sys2Proof/Safety.lean ====
section
/-! DEFINITION. What claims say: runs, what an instruction leaves alone, the invariant between two steps. -/

namespace Sys2Proof.Machine

/-- Bits of EMR that are not reserved: GP6..GP0, BEM and the four sticky bits (R46). -/
def emrMask : Word := 0x00FF000F#32

/-- The invariant between two steps: memory is canonical (R100), the stack pointers are multiples of 8 (R31), PC is even (R32),
the reserved bits of SR, EMR and VBA read as zero (R34, R38, R46), and nothing of a set is left over. -/
structure Invariant (s : State) : Prop where
  mem : s.mem.wf = true
  nsp : s.nsp &&& spMask = s.nsp
  esp : s.esp &&& spMask = s.esp
  pc : s.pc &&& pcMask = s.pc
  sr : s.sr &&& srMask = s.sr
  emr : s.emr &&& emrMask = s.emr
  vba : s.vba &&& vbaMask = s.vba
  acc : s.acc = []
  ifc : s.ifc = 0#3

/-- A run of `n` steps that ends in a state, with no fault and no refusal on the way. -/
def Reaches (n : Nat) (s t : State) : Prop := Sys2Proof.core.run n s = .next t

/-- No run of any length faults or refuses. -/
def Safe (s : State) : Prop := ∀ n, ∃ t, Reaches n s t

/-! ### What an instruction leaves alone -/

/-- Running `i` on `s` completes, and `P` holds of the state after it. -/
def Runs (i : Instr) (s : State) (P : State → Prop) : Prop := ∃ t, exec i s = .next t ∧ P t

/-- Every register outside `ds` keeps its value (a data register its limit tag too), and so do the bits of SR outside `srBits` and
those of EMR outside `emrBits`. -/
structure Untouched (ds : List Dest) (srBits emrBits : Word) (s t : State) : Prop where
  d : ∀ n, Dest.d n ∉ ds → dreg t n = dreg s n ∧ ltag t n = ltag s n
  r : ∀ n, Dest.r n ∉ ds → rreg t n = rreg s n
  n : ∀ k, Dest.n k ∉ ds → nreg t k = nreg s k
  m : ∀ k, Dest.m k ∉ ds → mreg t k = mreg s k
  mctl : Dest.mctl ∉ ds → t.mctl = s.mctl
  nsp : Dest.nsp ∉ ds → t.nsp = s.nsp
  esp : Dest.esp ∉ ds → t.esp = s.esp
  sa : ∀ k, Dest.sa k ∉ ds → saReg t k = saReg s k
  lc : ∀ k, Dest.lc k ∉ ds → lcReg t k = lcReg s k
  vba : Dest.vba ∉ ds → t.vba = s.vba
  sr : t.sr &&& ~~~srBits = s.sr &&& ~~~srBits
  emr : t.emr &&& ~~~emrBits = s.emr &&& ~~~emrBits

/-- PC, the last set's address, the processing state, the requests of the ILLEGAL and DEBUG exceptions, the windows, the loop mark's pending jump, the
inputs and the parameters are as before. -/
structure SameCore (s t : State) : Prop where
  pc : t.pc = s.pc
  proc : t.proc = s.proc
  reqIllegal : t.reqIllegal = s.reqIllegal
  reqDebug : t.reqDebug = s.reqDebug
  window : t.window = s.window
  loopJump : t.loopJump = s.loopJump
  ignoreA : t.ignoreA = s.ignoreA
  ignoreB : t.ignoreB = s.ignoreB
  inputs : t.inputs = s.inputs
  events : t.events = s.events
  params : t.params = s.params
  lastPc : t.lastPc = s.lastPc

/-- No change of flow: the next set is the one it was, no delay slot is opened. -/
def SameFlow (s t : State) : Prop := t.npc = s.npc ∧ t.delay = s.delay

/-- The valid bits of the shadow stack pointers are as before. -/
def SameShadow (s t : State) : Prop := t.nspShadow = s.nspShadow ∧ t.espShadow = s.espShadow

/-- RAS, its valid bit and the valid bits of the shadow stack pointers are as before. -/
def SameRas (s t : State) : Prop := t.ras = s.ras ∧ t.rasValid = s.rasValid ∧ SameShadow s t

/-- The valid bit of the shadow of the stack pointer that is active in `s` is `b`, the other's is as before (R544). -/
def ShadowIs (b : Bool) (s t : State) : Prop :=
  if expMode s then t.espShadow = b ∧ t.nspShadow = s.nspShadow else t.nspShadow = b ∧ t.espShadow = s.espShadow

/-- A state with the valid bits of the shadow stack pointers as another has them. -/
def shadowsOf (s t : State) : State := { s with nspShadow := t.nspShadow, espShadow := t.espShadow }

/-- The overflow request and the EOnCE are as before. -/
def SameDebug (s t : State) : Prop := t.reqOverflow = s.reqOverflow ∧ t.eonce = s.eonce

/-- Every byte of memory reads as before. -/
def SameMem (s t : State) : Prop := ∀ a, byteAt t a = byteAt s a

/-- Every byte of memory but the `w` from `a` on reads as before. -/
def SameMemBut (a : Word) (w : Nat) (s t : State) : Prop :=
  ∀ x : Word, (∀ k, k < w → x ≠ a + BitVec.ofNat 32 k) → byteAt t x = byteAt s x

/-- None of the `w` bytes from `a` on is a byte of the EOnCE window (R701). -/
def OutsideEonce (s : State) (a : Word) (w : Nat) : Prop :=
  ∀ k, k < w → eonceOffset s (a + BitVec.ofNat 32 k) = none

/-- Only the registers `ds` and the bits `srBits` of SR may have changed: no flow, no memory, no exception. -/
def Plain (ds : List Dest) (srBits : Word) (s t : State) : Prop :=
  Untouched ds srBits 0#32 s t ∧ SameCore s t ∧ SameFlow s t ∧ SameRas s t ∧ SameDebug s t ∧ SameMem s t

/-- EMR.DOVF (R46). -/
def dovf (s : State) : Bool := s.emr.getLsbD 2

/-- What an overflow event may do (R512): DOVF is only ever set; it requests the exception exactly when DOVF goes from 0 to 1 with
OVE set, and then only PC_EXCP and its type change in the EOnCE. -/
structure OverflowRule (s t : State) : Prop where
  sticky : dovf s = true → dovf t = true
  request : t.reqOverflow = (s.reqOverflow || (dovf t && !dovf s && ovEnable s))
  eonce : t.eonce = { s.eonce with pcExcp := t.eonce.pcExcp, excpType := t.eonce.excpType }
  quiet : (dovf t && !dovf s && ovEnable s) = false → t.eonce = s.eonce

/-- As `Plain`, but DOVF may be set, by the rule of R512. -/
def Arith (ds : List Dest) (srBits : Word) (s t : State) : Prop :=
  Untouched ds srBits 4#32 s t ∧ SameCore s t ∧ SameFlow s t ∧ SameRas s t ∧ OverflowRule s t ∧ SameMem s t

/-- A data access of `w` bytes at `a` leaves all but `ds`, the bits `srBits` of SR and, if it is a store, the bytes stored to as
they were; the EOnCE changes only if the access touches its window. -/
structure AccessFrame (ds : List Dest) (srBits : Word) (a : Word) (w : Nat) (store : Bool) (s t : State) : Prop where
  regs : Untouched ds srBits 0#32 s t
  core : SameCore s t
  flow : SameFlow s t
  ras : SameRas s t
  overflow : t.reqOverflow = s.reqOverflow
  eonce : OutsideEonce s a w → t.eonce = s.eonce
  mem : if store then SameMemBut a w s t else SameMem s t

/-! ### Results -/

/-- The range of a signed number that the examined bits of a limit tag leave room for (R201): 31, 32 or 30 bits below the sign. -/
def limitBits (s : State) : Nat :=
  match scaling s with
  | 1 => 32
  | 2 => 30
  | _ => 31

/-- Is a value outside `-2^k .. 2^k - 1`? -/
def beyond (k : Nat) (x : Int) : Bool := decide (x < -2 ^ k) || decide (2 ^ k ≤ x)

/-- `WriteArith` of the exact result `x` (R202, D14): without saturation the value modulo 2^40 with its limit tag, and DOVF beyond
40 bits; with saturation the value clamped to 32 bits, no limit tag, and DOVF when it was clamped. -/
structure Written (n : DReg) (x top : Int) (s t : State) : Prop where
  wrapped : satMode s = false → (dreg t n).toInt = x.bmod (2 ^ 40)
  tagged : satMode s = false → scaling s ≠ 3 → ltag t n = beyond (limitBits s) (x.bmod (2 ^ 40))
  overflow : satMode s = false → dovf t = (dovf s || beyond 39 x)
  clamped : satMode s = true → (dreg t n).toInt = if 2 ^ 31 ≤ x then top else if x < -2 ^ 31 then -2 ^ 31 else x
  untagged : satMode s = true → ltag t n = false
  saturated : satMode s = true → dovf t = (dovf s || beyond 31 x)

/-- A saturable instruction writes the exact result `x` to Dn and affects the bits `srBits` of SR. -/
def Saturable (n : DReg) (x : Int) (srBits : Word) (s t : State) : Prop :=
  Arith [.d n] srBits s t ∧ Written n x (2 ^ 31 - 1) s t

/-- A rounding instruction: saturation gives the rounded constant (R204). -/
def SaturableRounded (n : DReg) (x : Int) (s t : State) : Prop :=
  Arith [.d n] 0#32 s t ∧ Written n x 0x7FFF0000 s t

/-- An instruction that never saturates and clears the limit tag (R260). -/
def Wrapping (n : DReg) (x : Int) (srBits : Word) (s t : State) : Prop :=
  Arith [.d n] srBits s t ∧ (dreg t n).toInt = x.bmod (2 ^ 40) ∧ ltag t n = false ∧ dovf t = (dovf s || beyond 39 x)

/-- An instruction that writes the bits `v` to Dn, clears its limit tag and affects the bits `srBits` of SR. -/
def Bits (n : DReg) (v : DWord) (srBits : Word) (s t : State) : Prop :=
  Plain [.d n] srBits s t ∧ dreg t n = v ∧ ltag t n = false

/-- The limit tag that the instructions which ignore SM calculate (R203). -/
def specialTag (s : State) (x : Int) : Bool := beyond (if satMode s then 31 else limitBits s) x

/-- An instruction that never saturates and calculates its limit tag (R203); its DOVF is stated apart. -/
def Special (n : DReg) (x : Int) (srBits : Word) (s t : State) : Prop :=
  Arith [.d n] srBits s t ∧ (dreg t n).toInt = x.bmod (2 ^ 40)
    ∧ ((satMode s = true ∨ scaling s ≠ 3) → ltag t n = specialTag s (x.bmod (2 ^ 40)))

/-- Dn is shifted by `k`, left if positive, and the last bit shifted out goes to C; only an arithmetic shift left can overflow
(R291, R293, R300, R302).  A shift by 0 clears C (D15). -/
structure Shifted (n : DReg) (k : Int) (arith : Bool) (s t : State) : Prop where
  frame : Arith [.d n] bitC s t
  tag : ltag t n = false
  none : k = 0 → dreg t n = dreg s n ∧ carry t = false ∧ dovf t = dovf s
  left : 0 < k → dreg t n = dreg s n <<< k.toNat ∧ carry t = (dreg s n).getLsbD (40 - k.toNat)
    ∧ dovf t = (dovf s || (arith && beyond 39 (sD s n * 2 ^ k.toNat)))
  right : k < 0 → carry t = (dreg s n).getLsbD ((-k).toNat - 1) ∧ dovf t = dovf s
    ∧ (arith = true → (dreg t n).toInt = sD s n / 2 ^ (-k).toNat)
    ∧ (arith = false → (dreg t n).toNat = uD s n / 2 ^ (-k).toNat)

/-- A comparison or a test: T becomes `b`, and nothing else changes (R206). -/
def Tests (b : Bool) (s t : State) : Prop := Plain [] bitT s t ∧ tBit t = b

/-- Rx holds `v`; only a multiple of 8 fits a stack pointer (R31). -/
def rxIs (s t : State) (x : Rx) (v : Word) : Prop :=
  match x with
  | .n k => nreg t k = v
  | .sp => spOf t = v &&& spMask ∧ expMode t = expMode s
  | .r n => rreg t n = v

/-- An AGU instruction writes `v` to Rx and affects the bits `srBits` of SR; a write of SP invalidates RAS (R442) and SP's shadow
(R690), and no other write does. -/
def Agu (x : Rx) (v : Word) (srBits : Word) (s t : State) : Prop :=
  Untouched (rxDests s x) srBits 0#32 s t ∧ SameCore s t ∧ SameFlow s t ∧ SameDebug s t ∧ SameMem s t ∧ t.ras = s.ras
    ∧ t.rasValid = (s.rasValid && x != .sp) ∧ (if x = .sp then ShadowIs false s t else SameShadow s t) ∧ rxIs s t x v

/-- Rx's modifier mode is linear (R121, R321). -/
def rxLinear (s : State) (x : Rx) : Prop :=
  match x with
  | .r n => 8 ≤ n.val ∨ amOf s n = 0
  | _ => True

/-- rx's modifier mode is linear (R121, R321). -/
def srcLinear (s : State) (x : RxSrc) : Prop :=
  match x with
  | .r n => 8 ≤ n.val ∨ amOf s n = 0
  | _ => True

/-- Rx plus `o` in the modifier mode of Rx (R321): for R0..R7 what AguAdd gives for an access width of 1 (R124, R126), `reg` saying
that the offset is held in a register; else the plain sum. -/
def rxSum (s : State) (x : Rx) (o : Word) (reg : Bool) : Word :=
  match x with
  | .n k => nreg s k + o
  | .sp => spOf s + o
  | .r n => if n.val < 8 then aguAdd s n (rreg s n) o 1 reg 0 else rreg s n + o

/-- rx plus an immediate offset in the modifier mode of rx (R321, R322). -/
def srcSum (s : State) (x : RxSrc) (o : Word) : Word :=
  match x with
  | .n k => nreg s k + o
  | .sp => spOf s + o
  | .pc => s.pc + o
  | .r n => if n.val < 8 then aguAdd s n (rreg s n) o 1 false 0 else rreg s n + o

/-- An AGU addition of `o` to Rx: the sum in Rx's modifier mode, in linear mode the plain one (R321). -/
def AguSum (x : Rx) (o : Word) (reg : Bool) (s t : State) : Prop :=
  Agu x (rxSum s x o reg) 0#32 s t ∧ (rxLinear s x → rxSum s x o reg = rxVal s x + o)

/-- The one-word encodings `w` with Rx in bits 11:8 (R320): N0..N3, SP and R0..R7. -/
def RxWords (w : Nat) (f : Rx → Instr) : Prop :=
  (∀ k : Fin 4, decodeAt Bank.zero [w + 256 * k.val] = some (f (.n k), 1))
    ∧ decodeAt Bank.zero [w + 256 * 7] = some (f .sp, 1)
    ∧ ∀ n : Fin 8, decodeAt Bank.zero [w + 256 * (8 + n.val)] = some (f (.r (regOf false n.val)), 1)

/-- The one-word encodings `w` of Type 2 with a data register in bits 9:7 and one in bits 2:0 (R160, R161). -/
def DaDnWords (w : Nat) (f : DReg → DReg → Instr) : Prop :=
  ∀ a n : Fin 8, decodeAt Bank.zero [w + 128 * n.val + a.val] = some (f (regOf false a.val) (regOf false n.val), 1)

/-- The one-word encodings `w` with a data register in bits 9:7. -/
def DnWords (w : Nat) (f : DReg → Instr) : Prop :=
  ∀ n : Fin 8, decodeAt Bank.zero [w + 128 * n.val] = some (f (regOf false n.val), 1)

/-- A DR register holds a moved value; a data register has no limit tag after it (R350). -/
def drIs (t : State) (x : DR) (v : DWord) : Prop :=
  match x with
  | .d n => dreg t n = v ∧ ltag t n = false
  | .r n => rreg t n = v.setWidth 32

/-- A C4 register holds a moved value (R350). -/
def c4Is (t : State) (x : C4) (v : DWord) : Prop :=
  match x with
  | .d n => dreg t n = v ∧ ltag t n = false
  | .r n => rreg t n = v.setWidth 32
  | .b k => rreg t (breg k) = v.setWidth 32
  | .n k => nreg t k = v.setWidth 32
  | .m k => mreg t k = v.setWidth 32

/-- A data register holds the extension of a saved long: its byte at bit `lo`, its limit tag above, the other bits as before
(R363). -/
def extIs (s t : State) (n : DReg) (v : Word) (lo : Nat) : Prop :=
  dreg t n = v.extractLsb' lo 8 ++ dLong s n ∧ ltag t n = v.getLsbD (lo + 8)

/-- De holds a popped long (R391). -/
def evenIs (s t : State) (x : PushEven) (v : Word) : Prop :=
  match x with
  | .d i => dreg t (evenReg i) = v.signExtend 40 ∧ ltag t (evenReg i) = false
  | .r i => rreg t (evenReg i) = v
  | .b i => rreg t (evenB i) = v
  | .n i => nreg t (even4 i) = v
  | .m i => mreg t (even4 i) = v
  | .sa k => saReg t k = v
  | .ext i => extIs s t (evenReg i) v 0
  | .extPair i => extIs s t (evenReg i) v 0 ∧ extIs s t (oddReg i) v 16

/-- Do holds a popped long (R391). -/
def oddIs (s t : State) (x : PushOdd) (v : Word) : Prop :=
  match x with
  | .d i => dreg t (oddReg i) = v.signExtend 40 ∧ ltag t (oddReg i) = false
  | .r i => rreg t (oddReg i) = v
  | .b i => rreg t (oddB i) = v
  | .n i => nreg t (odd4 i) = v
  | .m i => mreg t (odd4 i) = v
  | .lc k => lcReg t k = v
  | .ext i => extIs s t (oddReg i) v 16
  | .vba => t.vba = v &&& 0xFFFFF000#32
  | .sr => t.sr = v &&& srMask
  | .mctl => t.mctl = v

/-- The value that MOVES.F, MOVES.2F and MOVES.4F store for Dn (R353): limited if Ln is set, else the 16 bits at the place that
the scaling mode gives, the mode being none with SM set. -/
def limited16 (s : State) (n : DReg) : Word16 :=
  if ltag s n then (if (dreg s n).getLsbD 39 then 0x8000#16 else 0x7FFF#16)
  else if satMode s then (dreg s n).extractLsb' 16 16
  else if scaling s = 1 then (dreg s n).extractLsb' 17 16
  else if scaling s = 2 then (dreg s n).extractLsb' 15 16
  else (dreg s n).extractLsb' 16 16

/-- The value that MOVES.L stores for Dn (R353). -/
def limited32 (s : State) (n : DReg) : Word :=
  if ltag s n then (if (dreg s n).getLsbD 39 then 0x80000000#32 else 0x7FFFFFFF#32)
  else if satMode s then (dreg s n).extractLsb' 0 32
  else if scaling s = 1 then (dreg s n).extractLsb' 1 32
  else if scaling s = 2 then (dreg s n).extractLsb' 0 31 ++ 0#1
  else (dreg s n).extractLsb' 0 32

/-- What moving the 16 bits `m` of Dn adds to SR.S: nothing if the value was limited (R353). -/
def addsToS (s : State) (n : DReg) (m : Word16) : Bool := !ltag s n && (m.getLsbD 14 != m.getLsbD 13)

/-- The scaling bits are not the reserved code 11, or saturation mode disables scaling (R353). -/
def scalingDefined (s : State) : Prop := satMode s = true ∨ scaling s ≠ 3

/-- The rounding boundary (R204, Table 2-13). -/
def roundAt (s : State) : Nat :=
  if satMode s then 16
  else
    match scaling s with
    | 1 => 17
    | 2 => 15
    | _ => 16

/-- Are the bits 39..k of a value all equal (R201)? -/
def TopEqual (k : Nat) (v : DWord) : Prop := ∀ i, k ≤ i → i ≤ 39 → v.getLsbD i = v.getLsbD 39

/-- MOVES moves a defined value of Dn: it is limited, or the scaling mode is not the reserved one (R353). -/
def movesKnown (s : State) (n : DReg) : Prop := scalingDefined s ∨ ltag s n = true

/-! ### Accesses -/

/-- The address registers outside `ds` hold what the effective address left in them. -/
def Pointers (e : Ea) (ds : List Dest) (t : State) : Prop := ∀ n, Dest.r n ∉ ds → rreg t n = rreg e.st n

/-- A load of `w` bytes at the effective address `e` into the registers `ds`: it completes, moves the pointer, leaves the rest
alone, and outside the EOnCE window `P` holds of the state after it. -/
def Loads (i : Instr) (s : State) (e : Ea) (w : Nat) (ds ptr : List Dest) (srBits : Word) (P : State → Prop) : Prop :=
  aligned e.addr w = true → Runs i s fun t =>
    AccessFrame (ds ++ ptr) srBits e.addr w false s t ∧ Pointers e ds t ∧ (OutsideEonce s e.addr w → P t)

/-- A store of `w` bytes at the effective address `e`: it completes, moves the pointer, leaves all bytes but the `w` stored to
alone, and outside the EOnCE window `P` holds of the state after it. -/
def Stores (i : Instr) (s : State) (e : Ea) (w : Nat) (ptr : List Dest) (srBits : Word) (P : State → Prop) : Prop :=
  s.mem.wf = true → aligned e.addr w = true → Runs i s fun t =>
    AccessFrame ptr srBits e.addr w true s t ∧ Pointers e [] t ∧ (OutsideEonce s e.addr w → P t)

/-! ### Portions and control registers -/

/-- The other half. -/
def otherHalf (h : Half) : Half :=
  match h with
  | .low => .high
  | .high => .low

/-- A portion of a DR register becomes `p`; the other bits stay, and a data register loses its limit tag (R415). -/
def PortionIs (s t : State) (x : DR) (h : Half) (p : Word16) : Prop :=
  portion (drLong t x) h = p ∧ portion (drLong t x) (otherHalf h) = portion (drLong s x) (otherHalf h) ∧
    match x with
    | .d n => dExt t n = dExt s n ∧ ltag t n = false
    | .r _ => True

/-- The bits of EMR that a write of C1 can clear (R47). -/
def c1Emr (x : C1) : Word :=
  match x with
  | .emr => 0xF#32
  | _ => 0#32

/-- The bits of EMR that a write of C2 can clear. -/
def c2Emr (x : C2) : Word :=
  match x with
  | .emr => 0xF#32
  | _ => 0#32

/-- Only the registers `ds`, the bits `srBits` of SR and the bits `emrBits` of EMR may have changed. -/
def Control (ds : List Dest) (srBits emrBits : Word) (s t : State) : Prop :=
  Untouched ds srBits emrBits s t ∧ SameCore s t ∧ SameFlow s t ∧ SameRas s t ∧ SameDebug s t ∧ SameMem s t

/-- A C1 register is written with `v` by its own rule (R46 to R49). -/
def c1Is (s t : State) (x : C1) (v : Word) : Prop :=
  match x with
  | .emr => t.emr = s.emr &&& ~~~(v &&& 0xF#32)
  | .vba => t.vba = v &&& 0xFFFFF000#32
  | .sr => t.sr = v &&& srMask
  | .mctl => t.mctl = v

/-- A C2 register is written with `v` by its own rule. -/
def c2Is (s t : State) (x : C2) (v : Word) : Prop :=
  match x with
  | .emr => t.emr = s.emr &&& ~~~(v &&& 0xF#32)
  | .vba => t.vba = v &&& 0xFFFFF000#32
  | .sr => t.sr = v &&& srMask
  | .mctl => t.mctl = v
  | .sa k => saReg t k = v
  | .lc k => lcReg t k = v

/-- A portion of a C1 register is written with `p` by the register's own rule; the other portion of EMR is not written (R415). -/
def c1PortionIs (s t : State) (x : C1) (h : Half) (p : Word16) : Prop :=
  match x, h with
  | .emr, .low => t.emr = s.emr &&& ~~~(p.setWidth 32 &&& 0xF#32)
  | .emr, .high => t.emr = s.emr
  | .vba, .low => t.vba = ((s.vba.extractLsb' 16 16 ++ p) &&& 0xFFFFF000#32)
  | .vba, .high => t.vba = ((p ++ s.vba.extractLsb' 0 16) &&& 0xFFFFF000#32)
  | .sr, .low => t.sr = ((s.sr.extractLsb' 16 16 ++ p) &&& srMask)
  | .sr, .high => t.sr = ((p ++ s.sr.extractLsb' 0 16) &&& srMask)
  | .mctl, .low => t.mctl = s.mctl.extractLsb' 16 16 ++ p
  | .mctl, .high => t.mctl = p ++ s.mctl.extractLsb' 0 16

/-! ### Changes of flow -/

/-- The signed displacement of `2 * x` bytes (R423, R424). -/
def offsetOf2 {w : Nat} (x : BitVec w) : Word := BitVec.ofInt 32 (2 * x.toInt)

/-- Where a branch with a displacement of 10 or 20 bits goes (R426). -/
def goal10 (s : State) (d : Disp10) : Word :=
  match d with
  | .short x => s.pc + offsetOf2 x
  | .long x => s.pc + offsetOf2 x

/-- Where a branch with a displacement of 8 or 20 bits goes (R424). -/
def goal8 (s : State) (d : Disp8) : Word :=
  match d with
  | .short x => s.pc + offsetOf2 x
  | .long x => s.pc + offsetOf2 x

/-- The next set is at `a` (an even address, R32), `d` is due at the end of the set after this one, and only `ds`, `srBits` and
`emrBits` may have changed besides. -/
def Flows (a : Word) (d : Delay) (ds : List Dest) (srBits emrBits : Word) (s t : State) : Prop :=
  Untouched ds srBits emrBits s t ∧ SameCore s t ∧ SameDebug s t ∧ t.npc = a ∧ t.delay = d

/-- Only the flow changes: neither memory nor RAS nor any register. -/
def FlowsOnly (a : Word) (d : Delay) (s t : State) : Prop := Flows a d [] 0#32 0#32 s t ∧ SameRas s t ∧ SameMem s t

/-- A subroutine call (R422): the return address and SR go on the active stack, RAS holds the return address, the next set is
the target. -/
structure Calls (ret target : Word) (s t : State) : Prop where
  regs : Untouched [spDest s] 0#32 0#32 s t
  core : SameCore s t
  npc : t.npc = target &&& 0xFFFFFFFE#32
  delay : t.delay = s.delay
  sp : spOf t = spOf s + 8
  ras : t.ras = ret ∧ t.rasValid = true
  shadow : SameShadow s t
  overflow : t.reqOverflow = s.reqOverflow
  eonce : OutsideEonce s (spOf s) 8 → t.eonce = s.eonce
  frame : OutsideEonce s (spOf s) 8 → mem32 t (spOf s) = ret ∧ mem32 t (spOf s + 4) = s.sr
  mem : SameMemBut (spOf s) 8 s t

/-- SR at the entry of an exception (R540, R541): the mask is `lvl`, EXP is set, SLF, LF3..LF0, S1, S0, T and C are clear, every
other bit is as it was. -/
def EntrySr (s t : State) (lvl : Nat) : Prop :=
  intMask t = lvl ∧ ∀ i, i < 32 → i ∉ [21, 22, 23] → t.sr.getLsbD i =
    if i = 18 then true else if i ∈ [0, 1, 4, 5, 27, 28, 29, 30, 31] then false else s.sr.getLsbD i

/-- The stack frame and the stack pointer of an exception that returns to `ret` (R540). -/
structure EntryFrame (ret : Word) (s t : State) : Prop where
  esp : t.esp = s.esp + 8
  nsp : t.nsp = s.nsp
  frame : OutsideEonce s s.esp 8 → mem32 t s.esp = ret ∧ mem32 t (s.esp + 4) = s.sr
  mem : SameMemBut s.esp 8 s t

/-- What no exception entry changes (R541). -/
structure EntryKeeps (s t : State) : Prop where
  d : ∀ n, dreg t n = dreg s n ∧ ltag t n = ltag s n
  r : ∀ n, rreg t n = rreg s n
  n : ∀ k, nreg t k = nreg s k ∧ mreg t k = mreg s k
  mctl : t.mctl = s.mctl
  loops : ∀ k, saReg t k = saReg s k ∧ lcReg t k = lcReg s k
  vba : t.vba = s.vba
  ras : SameRas s t

/-- The entry of an exception is no event that the EOnCE could request the debug exception for: the frame is outside its window, and it
is disabled or no source is selected and a full trace buffer asks for nothing (R705, R721, R740). -/
def EntryUnwatched (s : State) : Prop :=
  OutsideEonce s s.esp 8 ∧ (s.eonce.enabled = false
    ∨ s.eonce.eselDm = 0#16 ∧ s.eonce.eselDi = 0#16 ∧ s.eonce.emcr.getLsbD 23 = false)

/-- The state, with nothing of the outside pending, goes on executing: no event, no request, no exception to take. -/
structure Quiet (s : State) : Prop where
  events : s.events = []
  proc : s.proc = .execution
  dbgReq : s.eonce.dbgReq = false
  pending : pending s = none

/-- The stack pointers are multiples of 8, as R31 says they always are (part of `Invariant`). -/
def StacksAligned (s : State) : Prop := s.nsp &&& spMask = s.nsp ∧ s.esp &&& spMask = s.esp

/-- The reserved bits of SR are zero, as R38 says they always are (part of `Invariant`). -/
def SrLegal (s : State) : Prop := s.sr &&& srMask = s.sr

/-- Is a number the active loop: enabled, and no loop of a higher number is (R651)? -/
def ActiveLoop (s : State) (n : LoopIx) : Prop := loopFlag s n = true ∧ ∀ m : LoopIx, n < m → loopFlag s m = false

/-- LFn. -/
def bitLf (n : LoopIx) : Word := 0x08000000#32 <<< n.val
/-- SLF. -/
def bitSlf : Word := 0x80000000#32

/-- No access of the set that `s` ends wrote one of the eight bytes from `f` on: the frame of a delayed return is as it was (R113,
rule D.7). -/
def FrameKept (f : Word) (s : State) : Prop :=
  ∀ x, x ∈ s.acc → x.write = true → ∀ i, i < x.width → 8 ≤ (x.addr + BitVec.ofNat 32 i - f).toNat

/-- The stack pointer that was active in `s`, as it is in `t`. -/
def sameSp (s t : State) : Word := if expMode s then t.esp else t.nsp

/-- A return through the frame below the active stack pointer: the pointer goes down by 8, memory stays. -/
structure Returns (srBits emrBits : Word) (s t : State) : Prop where
  regs : Untouched [spDest s] srBits emrBits s t
  core : SameCore s t
  sp : sameSp s t = spOf s - 8
  shadow : SameShadow s t
  overflow : t.reqOverflow = s.reqOverflow
  mem : SameMem s t

end Sys2Proof.Machine
end

