-- ==== Sys2Proof/Certificates/Slice0/Obligations.lean ====
section
/-! DEFINITION. The statements for the provers, in the order of OBLIGATIONS.json. -/

open Sys2Proof Sys2Proof.Machine

/-- O1. At a state with nothing of the outside and no exception to handle, when the words at PC are one execution set of one
instruction without a prefix, and its words decode to i, the step is exec of i on the state that the set begins from, followed
by the end of the set (traced change of flow, delay slot, loop jump, windows, EOnCE, next PC). -/
def Obligations.StepRunsTheDecodedInstruction : Prop :=
  ∀ s i k, Quiet s →
    isPrefix1 ((fetchWords s).headD 0) = false →
    isPrefix2 ((fetchWords s).headD 0) (((fetchWords s).drop 1).headD 0) = false →
    serialLen (fetchWords s) 0 = some k →
    decodeAt Bank.zero ((fetchWords s).take k) = some (i, k) →
    step s = andThen (exec i (begin s k)) fun t =>
      .next (finish s (traceFlow (begin s k) none [⟨0, i, k, (fetchWords s).headD 0⟩] (tagUnit 0 t)))

/-- O2. At a state with nothing of the outside and no exception to handle, when the words at PC are a one-word prefix p, or a two-
word prefix p, and one instruction i, the step first takes the prefix's own effect (its condition field, its marks); then i runs
if the condition enables it, on the state before the prefix, and the marks' effect is laid over its result; then the set ends. A
one-word prefix that says the set is one word long is a set by itself. After a two-word prefix the instruction stands at the
position that the parameter says (D39) and is decoded with the high-bank bits of that position: at position q the bits E1 and E3
of unit q take NOT's source and destination from D8..D15, and the bits of AGU q mod 2 take TFRA's registers from R8..R15. (That
the marks are decided on the state before the set and their effect is laid over the instruction's results is log 58, that a
register or a PC which a mark and the instruction both write is unspecified is the spec's decision D53, log 26, and that the
prefix bits of a bit-field instruction such as NOT are those of a MAC-unit instruction is the decision D40, log 42: the model's
choice.) -/
def Obligations.StepRunsThePrefixedInstruction : Prop :=
  (∀ s w rest p i k, Quiet s → fetchWords s = w :: rest → isPrefix1 w = true → w / 2 ^ 9 % 8 = k →
      prefix1Instr w = some p → isPrefix1 (rest.headD 0) = false →
      isapWord (rest.take k) = false →
      decodeAt Bank.zero (rest.take k) = some (i, k) →
      step s = andThen (exec p (begin s (k + 1))) fun m =>
        if ifcEnables m.ifc (tBit s) 1 && ownCondition i (tBit s) then
          andThen (exec i { begin s (k + 1) with ifc := m.ifc }) fun t =>
            .next (finish s (traceFlow (begin s (k + 1)) (some p) [⟨1, i, k, rest.headD 0⟩]
              (overlayMarks (begin s (k + 1)) m [i] (tagUnit 1 t))))
        else .next (finish s (traceFlow (begin s (k + 1)) (some p) [] m)))
    ∧ (∀ s w rest p, Quiet s → fetchWords s = w :: rest → isPrefix1 w = true → w / 2 ^ 9 % 8 = 0 →
      prefix1Instr w = some p →
      step s = andThen (exec p (begin s 1)) fun m => .next (finish s (traceFlow (begin s 1) (some p) [] m)))
    ∧ (∀ s w v rest p i k q, Quiet s → fetchWords s = w :: v :: rest → isPrefix2 w v = true → w / 2 ^ 9 % 8 = k + 1 →
      prefix2Instr w v = some p → q = s.params.prefix2First → isPrefix1 (rest.headD 0) = false →
      isapWord (rest.take k) = false → decodeAt (bankAt (highBits w v) q) (rest.take k) = some (i, k) →
      step s = andThen (exec p (begin s (k + 2))) fun m =>
        if ifcEnables m.ifc (tBit s) q && ownCondition i (tBit s) then
          andThen (exec i { begin s (k + 2) with ifc := m.ifc }) fun t =>
            .next (finish s (traceFlow (begin s (k + 2)) (some p) [⟨q, i, k, rest.headD 0⟩]
              (overlayMarks (begin s (k + 2)) m [i] (tagUnit q t))))
        else .next (finish s (traceFlow (begin s (k + 2)) (some p) [] m)))
    ∧ ∀ (w v q : Nat) (a n : Fin 8), q < 4 →
      decodeAt (bankAt (highBits w v) q) [0xD800 + 128 * n.val + a.val]
          = some (.notReg (regOf (v.testBit (9 + q)) a.val) (regOf (v.testBit q) n.val), 1)
        ∧ decodeAt (bankAt (highBits w v) q) [0xE8E8 + 256 * n.val + a.val]
          = some (.tfra (.r (regOf (if q % 2 = 0 then w.testBit 5 else w.testBit 6) a.val))
              (.r (regOf (if q % 2 = 0 then w.testBit 7 else v.testBit 8) n.val)), 1)

/-- O3. Words of every family, written out bit by bit from the encoding patterns of spec/, decode to the instructions that they
stand for; and any two rows of the opcode table of one length differ in a bit that both of them fix, so no word (or group of
words) matches two of them. (That $67EF too is INC is the spec's decision D56, the bit order of PUSH's field and of JSR's 32-bit
target is D21, both in log 56; that $3344 is read as the first of three words is D55, log 42: the model's choice.) -/
def Obligations.DecodeReadsTheWordsOfTheSpec : Prop :=
  decodeWords Bank.zero [0x2E5A] = some (.addReg 5 6 4, 1)
    ∧ decodeWords Bank.zero [0x6E35] = decodeWords Bank.zero [0x2E35]
    ∧ decodeWords Bank.zero [0x2111] = some (.mac false 0 1 2, 1)
    ∧ decodeWords Bank.zero [0x67EF] = some (.incListed 7, 1)
    ∧ decodeWords Bank.zero [0xD490] = some (.asllReg 0 1, 1)
    ∧ decodeWords Bank.zero [0xE819] = some (.addaReg (.r 1) (.r 0), 1)
    ∧ decodeWords Bank.zero [0x511B] = some (.movew .read (.ea .postInc 3) (.d 1), 1)
    ∧ decodeWords Bank.zero [0x9620] = some (.pushEven (.d 3), 1)
    ∧ decodeWords Bank.zero [0x0991, 0xA000] = some (.bmsetDr 0x8000#16 .high (.d 1), 2)
    ∧ decodeWords Bank.zero [0x3344, 0x3678, 0x9234] = some (.jsr (.abs 0x12345678#32), 3)
    ∧ decodeWords Bank.zero [0x2803, 0x800C] = some (.dosetup 0 6#16, 2)
    ∧ decodeWords Bank.zero [0x2103, 0x801A] = some (.skipls 13#16, 2)
    ∧ decodeWords Bank.zero [0x9E7E] = some (.trap, 1)
    ∧ decodeWords Bank.zero [0x94D0] = some (.lpmarkb 2#3, 1)
    ∧ decodeWords Bank.zero [0x90C0] = some (.nop, 1)
    ∧ decodeWords Bank.zero [0x9E7F] = none
    ∧ [rows1, rows2, rows3].all (fun rows =>
      decide (rows.Pairwise fun r q => (r.mat ^^^ q.mat) &&& r.mask &&& q.mask ≠ 0)) = true

/-- O4. For every well-formed instruction i, with every operand at every value that the encoding admits, decoding the words that
encode gives for i, with the high-bank bits that a prefix must supply, gives i (in the spelling the decoder uses where one word
has two names) and the number of words encoded. -/
def Obligations.DecodingUndoesEncoding : Prop :=
  ∀ i : Instr, i.WF = true → decodeWords (bankOf i) (encode i) = some (i.canon, (encode i).length)

/-- O5. Right after reset, with any parameters: SR is $00E40000; EMR holds the byte-order pin in BEM, the pins in GP6..GP0 and zeros
elsewhere; MCTL is 0; VBA is the parameter with bits 11:0 zero; PC is the parameter (an even address); no internal exception is
pending, no delay slot or loop jump is open, RAS is not valid and the core executes. (That no exception is pending and RAS is
not valid is the spec's decision D35, that no delay slot or loop jump is open is log 5: both are the model's choice. The
registers with no stated reset value are the model's choice, log 1, and are not in this statement.) -/
def Obligations.ResetLeavesTheStatedValues : Prop :=
  ∀ p : Params, ∀ s, s = State.resetWith p →
    s.sr = 0x00E40000#32 ∧ s.emr.getLsbD 16 = p.bigEndian ∧ s.emr.extractLsb' 17 7 = p.emrGp
      ∧ s.emr &&& ~~~0x00FF0000#32 = 0#32 ∧ s.mctl = 0#32 ∧ s.vba = p.vbaReset &&& 0xFFFFF000#32
      ∧ s.pc = p.resetPc &&& 0xFFFFFFFE#32 ∧ s.reqIllegal = false ∧ s.reqOverflow = false ∧ s.reqDebug = false
      ∧ s.delay = .none ∧ s.loopJump = none ∧ s.rasValid = false ∧ s.proc = .execution

/-- O6. When reset is asserted at any state, the step enters the Reset state with SR, EMR, VBA, MCTL, PC and the latches at their
reset values, and memory unchanged; while it stays asserted a step changes nothing; when it is released and neither EE0 nor a
debug request is held, the core executes, and nothing else changes. (That RAS is not valid and no exception pending is the
spec's decision D35; that memory keeps its contents, and how reset is released, is log 55: the model's choice.) -/
def Obligations.ResetEventRestoresTheStatedValues : Prop :=
  (∀ s rest, s.events = .reset true :: rest → ∃ t, step s = .next t ∧ t.proc = .reset ∧ t.events = rest
      ∧ t.sr = 0x00E40000#32 ∧ t.emr = emrReset s.params ∧ t.vba = s.params.vbaReset &&& 0xFFFFF000#32 ∧ t.mctl = 0#32
      ∧ t.pc = s.params.resetPc &&& 0xFFFFFFFE#32 ∧ t.reqIllegal = false ∧ t.reqOverflow = false ∧ t.reqDebug = false
      ∧ t.delay = .none ∧ t.loopJump = none ∧ t.rasValid = false ∧ SameMem s t)
    ∧ (∀ s, s.events = [] → s.proc = .reset → step s = .next s)
    ∧ ∀ s rest, s.events = .reset false :: rest → s.proc = .reset → s.eonce.dbgReq = false → s.eonce.eeIn.getLsbD 0 = false →
      step s = .next { s with events := rest, proc := .execution }

/-- O7. The state after reset meets the invariant: canonical memory, stack pointers that are multiples of 8, an even PC, zero in the
reserved bits of SR, EMR and VBA. -/
def Obligations.InvariantHoldsAtReset : Prop :=
  Invariant State.reset ∧ ∀ p, Invariant (State.resetWith p)

/-- O8. From every state that meets the invariant (memory in canonical form, NSP and ESP multiples of 8, PC even, the reserved bits
of SR, EMR and VBA zero, nothing of an execution set left over), whatever instructions, exceptions, loop ends, debug events or
outside events the step handles, the next state meets it. (That the reserved bits of SR are not written and stay zero is the
spec's decision D31, log 30: the model's choice.) -/
def Obligations.StepKeepsTheInvariant : Prop :=
  ∀ s t, Invariant s → step s = .next t → Invariant t

/-- O9. For every instruction but TRAP and the prefix words, and every state with legal SR: if exec answers a next state, then every
register outside the instruction's listed destinations, every bit of SR outside its listed bits and every bit of EMR but the
four sticky ones is unchanged, whatever its operands (the lists are those that the grouping rules and the merging of a set's
results use). (That a write of EMR leaves GP6..GP0 and BEM is the spec's decision D32, log 47: the model's choice.) -/
def Obligations.ExecWritesOnlyItsEffects : Prop :=
  ∀ i s t, SrLegal s → i ≠ .trap → prefixWords i = none ∨ i = .nop → exec i s = .next t →
    Untouched (effects s i).dests (effects s i).sr 0xF#32 s t

/-- O10. Whatever a step does (instructions of any kind, exceptions, loop ends, debug and outside events): if NMID is set after it
and was clear before it, then NMI_REQ was asserted; and unless it handles an assertion of reset, the byte-order bit and the
seven general-purpose pin bits of EMR are as they were. (That a write does not change the pin bits GP6..GP0 is the spec's
decision D32, log 47: the model's choice.) -/
def Obligations.EmrBitsChangeAtTheirEventsOnly : Prop :=
  ∀ s t, step s = .next t →
    (t.emr.getLsbD 3 = true → s.emr.getLsbD 3 = false → s.inputs.nmiReq = true)
      ∧ (s.events.head? ≠ some (.reset true) → t.emr &&& 0x00FF0000#32 = s.emr &&& 0x00FF0000#32)

/-- O11. LnCalc of a 40-bit value is 0 if bits 39..31 (no scaling), 39..32 (scale down) or 39..30 (scale up) are all equal, else 1;
LnCalcNoScale always examines bits 39..31. (R201) -/
def Obligations.LimitTagOfAValue : Prop :=
  ∀ s v,
    (scaling s = 0 → (lnCalc s v = false ↔ TopEqual 31 v)) ∧ (scaling s = 1 → (lnCalc s v = false ↔ TopEqual 32 v))
      ∧ (scaling s = 2 → (lnCalc s v = false ↔ TopEqual 30 v)) ∧ (lnCalcNoScale v = false ↔ TopEqual 31 v)

/-- O12. ABS, ADD, ADDNC.W, ASL, ASR, INC, INC.F, NEG, SUB and SUBNC.W, in every form and at every state, complete with the exact
result written as WriteArith says: without saturation modulo 2^40 with its limit tag and DOVF set beyond 40 bits, with
saturation clamped to 32 bits with no limit tag and DOVF set if clamped; C is the carry or borrow of bit 39 (or the bit shifted
out); every other register, flag and memory byte is unchanged. Where a result beyond 40 bits is saturated, the constant is
chosen by the sign of the exact result, which is the spec's decision D14 (log 45). -/
def Obligations.SaturableArithmetic : Prop :=
  (∀ n s, Runs (.abs n) s fun t => Saturable n (if sD s n < 0 then -sD s n else sD s n) 0#32 s t)
    ∧ (∀ u n s, Runs (.addImm u n) s fun t =>
        Saturable n (sD s n + u.toNat) bitC s t ∧ carry t = decide (2 ^ 40 ≤ uD s n + u.toNat))
    ∧ (∀ a b n s, Runs (.addReg a b n) s fun t =>
        Saturable n (sD s a + sD s b) bitC s t ∧ carry t = decide (2 ^ 40 ≤ uD s a + uD s b))
    ∧ (∀ a b n s, Runs (.addSame a b n) s fun t =>
        Saturable n (sD s a + sD s b) bitC s t ∧ carry t = decide (2 ^ 40 ≤ uD s a + uD s b))
    ∧ (∀ v a n s, Runs (.addnc v a n) s fun t => Saturable n (sD s a + v.toInt) 0#32 s t)
    ∧ (∀ a n s, Runs (.asl a n) s fun t => Saturable n (2 * sD s a) bitC s t ∧ carry t = (dreg s a).getLsbD 39)
    ∧ (∀ a n s, Runs (.asr a n) s fun t => Saturable n (sD s a / 2) bitC s t ∧ carry t = (dreg s a).getLsbD 0)
    ∧ (∀ n s, Runs (.inc n) s fun t => Saturable n (sD s n + 1) bitC s t ∧ carry t = decide (2 ^ 40 ≤ uD s n + 1))
    ∧ (∀ n s, Runs (.incListed n) s fun t => Saturable n (sD s n + 1) bitC s t ∧ carry t = decide (2 ^ 40 ≤ uD s n + 1))
    ∧ (∀ n s, Runs (.incF n) s fun t =>
        Saturable n (sD s n + 65536) bitC s t ∧ carry t = decide (2 ^ 40 ≤ uD s n + 65536))
    ∧ (∀ n s, Runs (.neg n) s fun t => Saturable n (-sD s n) 0#32 s t)
    ∧ (∀ u n s, Runs (.subImm u n) s fun t =>
        Saturable n (sD s n - u.toNat) bitC s t ∧ carry t = decide (uD s n < u.toNat))
    ∧ (∀ a b n s, Runs (.subReg a b n) s fun t =>
        Saturable n (sD s b - sD s a) bitC s t ∧ carry t = decide (uD s b < uD s a))
    ∧ (∀ a b n s, Runs (.subRegSwap a b n) s fun t =>
        Saturable n (sD s a - sD s b) bitC s t ∧ carry t = decide (uD s a < uD s b))
    ∧ (∀ a b n s, Runs (.subSame a b n) s fun t =>
        Saturable n (sD s b - sD s a) bitC s t ∧ carry t = decide (uD s b < uD s a))
    ∧ ∀ v n s, Runs (.subnc v n) s fun t => Saturable n (sD s n - v.toInt) 0#32 s t

/-- O13. SUBL writes 2 Dn - Da as WriteArith says, with DOVF set also when the shift changes the sign of Dn; SBC and DIV ignore SM
and calculate their limit tag; DIV's C is 1 if the new remainder is not negative, and its DOVF is set also when bits 39 and 38
of Dn differ; DECGE and IADDNC.W never saturate and clear the limit tag, and DECGE's T is that of the exact result; CLR, and SUB
of a register from itself in each of its words, writes 0 and clears the limit tag and C, whatever SR says. Each completes at
every state and leaves the rest as it was. (That DIV and SUBL test the exact result and the sign change both is log 46, and that
a result beyond 40 bits saturates by the sign of the exact result is the spec's decision D14, log 45: the model's choice.) -/
def Obligations.SpecialArithmetic : Prop :=
  (∀ a n s, Runs (.subl a n) s fun t =>
        Arith [.d n] bitC s t ∧ carry t = decide (2 * uD s n % 2 ^ 40 < uD s a)
          ∧ (satMode s = false →
              (dreg t n).toInt = (2 * sD s n - sD s a).bmod (2 ^ 40)
                ∧ (scaling s ≠ 3 → ltag t n = beyond (limitBits s) ((2 * sD s n - sD s a).bmod (2 ^ 40)))
                ∧ dovf t = (dovf s || beyond 39 (2 * sD s n - sD s a) || beyond 38 (sD s n)))
          ∧ (satMode s = true →
              (dreg t n).toInt = (if 2 ^ 31 ≤ 2 * sD s n - sD s a then 2 ^ 31 - 1
                  else if 2 * sD s n - sD s a < -2 ^ 31 then -2 ^ 31 else 2 * sD s n - sD s a)
                ∧ ltag t n = false ∧ dovf t = (dovf s || beyond 31 (2 * sD s n - sD s a) || beyond 38 (sD s n))))
    ∧ (∀ c d s, Runs (.sbc c d) s fun t =>
        Special d (sD s d - sD s c - (carry s).toNat) bitC s t
          ∧ dovf t = (dovf s || beyond 39 (sD s d - sD s c - (carry s).toNat))
          ∧ carry t = decide (uD s d < uD s c + (carry s).toNat))
    ∧ (∀ a n s, ∀ x, x = (if (sD s n < 0) = (sD s a < 0) then 2 * sD s n + (carry s).toNat - sD s a / 65536 * 65536
          else 2 * sD s n + (carry s).toNat + sD s a / 65536 * 65536) →
        Runs (.div a n) s fun t =>
          Special n x bitC s t ∧ dovf t = (dovf s || beyond 39 x || beyond 38 (sD s n))
            ∧ carry t = decide (0 ≤ x.bmod (2 ^ 40)))
    ∧ (∀ n s, Runs (.decge n) s fun t =>
        Wrapping n (sD s n - 1) (bitC ||| bitT) s t ∧ carry t = decide (uD s n = 0) ∧ tBit t = decide (1 ≤ sD s n))
    ∧ (∀ v n s, Runs (.iaddnc v n) s fun t => Wrapping n (sD s n + v.toInt) 0#32 s t)
    ∧ ∀ a n s, ∀ i, i ∈ ([.clr a n, .subReg a a n, .subRegSwap a a n, .subSame a a n] : List Instr) →
        Runs i s fun t => Plain [.d n] bitC s t ∧ dreg t n = 0#40 ∧ ltag t n = false ∧ carry t = false

/-- O14. ADR, SBR, RND, MPYR and MACR (also of one register, also with a negated product) complete at every state; their exact
result is rounded at bit 16, 17 (scale down) or 15 (scale up), always at bit 16 with SM set, by the mode RM, and then written as
WriteArith says; RND, MPYR and MACR saturate to $00 7FFF 0000. In the reserved scaling mode the rounded value is not
constrained. Rounding at a bit k gives a multiple of 2^k that is nearest to the value; a tie goes up in two's-complement
rounding and to the multiple whose quotient is even in convergent rounding. (That a result beyond 40 bits saturates by the sign
of the exact result is the spec's decision D14, log 45: the model's choice.) -/
def Obligations.RoundedResults : Prop :=
  (∀ k twos x, 1 ≤ k → rndAt k twos x % 2 ^ k = 0 ∧ 2 * (rndAt k twos x - x) ≤ 2 ^ k ∧ -(2 ^ k) ≤ 2 * (rndAt k twos x - x)
        ∧ (2 * (x % 2 ^ k) = 2 ^ k →
          rndAt k twos x = (if twos || decide (x / 2 ^ k % 2 = 1) then x + 2 ^ (k - 1) else x - 2 ^ (k - 1))))
    ∧ (∀ a n s, Runs (.adr a n) s fun t =>
        ∃ x, Saturable n x 0#32 s t ∧ (scalingDefined s → x = rndAt (roundAt s) (roundMode s) (sD s a + sD s n)))
    ∧ (∀ a n s, Runs (.sbr a n) s fun t =>
        ∃ x, Saturable n x 0#32 s t ∧ (scalingDefined s → x = rndAt (roundAt s) (roundMode s) (sD s n - sD s a)))
    ∧ (∀ a n s, Runs (.rnd a n) s fun t =>
        ∃ x, SaturableRounded n x s t ∧ (scalingDefined s → x = rndAt (roundAt s) (roundMode s) (sD s a)))
    ∧ ∀ a b n s, ∀ p : Int, p = (dHigh s a).toInt * (dHigh s b).toInt * 2 →
        (Runs (.mpyr a b n) s fun t =>
          ∃ x, SaturableRounded n x s t ∧ (scalingDefined s → x = rndAt (roundAt s) (roundMode s) p))
        ∧ (Runs (.mpyrSame a b n) s fun t =>
          ∃ x, SaturableRounded n x s t ∧ (scalingDefined s → x = rndAt (roundAt s) (roundMode s) p))
        ∧ ∀ neg : Bool,
          (Runs (.macr neg a b n) s fun t => ∃ x, SaturableRounded n x s t ∧
            (scalingDefined s → x = rndAt (roundAt s) (roundMode s) (if neg then sD s n - p else sD s n + p)))
          ∧ Runs (.macrSame neg a b n) s fun t => ∃ x, SaturableRounded n x s t ∧
            (scalingDefined s → x = rndAt (roundAt s) (roundMode s) (if neg then sD s n - p else sD s n + p))

/-- O15. CMPEQ (40 bits), CMPGT (signed; Dn is the left side), CMPHI (bits 31:0, unsigned), their immediate forms (the 5-bit one
zero-extended, the 16-bit one sign-extended), TSTEQ and TSTGE complete at every state with T the outcome and everything else
unchanged. (That CMPHI leaves the limit tag, as its page says, is the model's choice, log 61.) -/
def Obligations.DaluComparesAndTests : Prop :=
  (∀ a n s, Runs (.cmpeq a n) s fun t => Tests (decide (sD s a = sD s n)) s t)
    ∧ (∀ u n s, Runs (.cmpeqU u n) s fun t => Tests (decide (sD s n = u.toNat)) s t)
    ∧ (∀ v n s, Runs (.cmpeqS v n) s fun t => Tests (decide (sD s n = v.toInt)) s t)
    ∧ (∀ a n s, Runs (.cmpgt a n) s fun t => Tests (decide (sD s a < sD s n)) s t)
    ∧ (∀ u n s, Runs (.cmpgtU u n) s fun t => Tests (decide ((u.toNat : Int) < sD s n)) s t)
    ∧ (∀ v n s, Runs (.cmpgtS v n) s fun t => Tests (decide (v.toInt < sD s n)) s t)
    ∧ (∀ a n s, Runs (.cmphi a n) s fun t => Tests (decide (uD s a % 2 ^ 32 < uD s n % 2 ^ 32)) s t)
    ∧ (∀ n s, Runs (.tsteq n) s fun t => Tests (decide (sD s n = 0)) s t)
    ∧ ∀ n s, Runs (.tstge n) s fun t => Tests (decide (0 ≤ sD s n)) s t

/-- O16. MAX and MIN keep the greater or lesser 40-bit signed value; MAX2VIT keeps the greater of each half of Da and Db, with the
Viterbi flag set where Db's half is kept, and leaves Db's extension byte; TFR copies with the limit tag calculated again, TFRT
and TFRF only if T is set or clear (else nothing at all changes); ADD2 and SUB2 work on each half by itself (their extension
byte is not constrained: the spec calls it undefined, log 7; that MAX2VIT leaves Db's is the spec's decision D26, log 43: the
model's choice); SAT.L clamps to 32 bits and sets DOVF if it does. All complete at every state and leave the rest as it was. -/
def Obligations.TransfersAndSelections : Prop :=
  (∀ g h s, Runs (.max g h) s fun t => Bits h (if sD s h < sD s g then dreg s g else dreg s h) 0#32 s t)
    ∧ (∀ g h s, Runs (.min g h) s fun t => Bits h (if sD s g < sD s h then dreg s g else dreg s h) 0#32 s t)
    ∧ (∀ a b s, ∀ lo hi : Bool, lo = decide ((dLow s a).toInt ≤ (dLow s b).toInt) →
        hi = decide ((dHigh s a).toInt ≤ (dHigh s b).toInt) →
        (Runs (.max2vitA a b) s fun t => Plain [.d b] 0x300#32 s t ∧ dExt t b = dExt s b ∧ ltag t b = false
          ∧ dLow t b = (if lo then dLow s b else dLow s a) ∧ dHigh t b = (if hi then dHigh s b else dHigh s a)
          ∧ srBit t 8 = lo ∧ srBit t 9 = hi)
        ∧ Runs (.max2vitB a b) s fun t => Plain [.d b] 0xC00#32 s t ∧ dExt t b = dExt s b ∧ ltag t b = false
          ∧ dLow t b = (if lo then dLow s b else dLow s a) ∧ dHigh t b = (if hi then dHigh s b else dHigh s a)
          ∧ srBit t 10 = lo ∧ srBit t 11 = hi)
    ∧ (∀ a n s, ∀ P : State → Prop,
        P = (fun t => Plain [.d n] 0#32 s t ∧ dreg t n = dreg s a ∧
          (scalingDefined s → ltag t n = specialTag s (sD s a))) →
        Runs (.tfr a n) s P
        ∧ (tBit s = true → Runs (.tfrt a n) s P ∧ exec (.tfrf a n) s = .next s)
        ∧ (tBit s = false → Runs (.tfrf a n) s P ∧ exec (.tfrt a n) s = .next s))
    ∧ (∀ a n s, Runs (.add2 a n) s fun t => Plain [.d n] 0#32 s t ∧ ltag t n = false
        ∧ dLow t n = dLow s a + dLow s n ∧ dHigh t n = dHigh s a + dHigh s n)
    ∧ (∀ a n s, Runs (.sub2 a n) s fun t => Plain [.d n] 0#32 s t ∧ ltag t n = false
        ∧ dLow t n = dLow s n - dLow s a ∧ dHigh t n = dHigh s n - dHigh s a)
    ∧ ∀ n s, Runs (.satL n) s fun t => Arith [.d n] 0#32 s t ∧ ltag t n = false ∧ dovf t = (dovf s || beyond 31 (sD s n))
        ∧ (dreg t n).toInt = (if 2 ^ 31 ≤ sD s n then 2 ^ 31 - 1 else if sD s n < -2 ^ 31 then -2 ^ 31 else sD s n)

/-- O17. IMAC, IMACLHUU, IMACUS, IMPY, IMPY.W, IMPYHLUU, IMPYSU and IMPYUU, in every form, complete at every state with the exact
product (or the accumulator plus or minus it) of the halves that each names, signed or unsigned as its name says, modulo 2^40,
with no saturation, the limit tag clear and DOVF set beyond 40 bits; everything else is unchanged. -/
def Obligations.IntegerMultiplies : Prop :=
  (∀ neg a b n s, ∀ p : Int, p = (dLow s a).toInt * (dLow s b).toInt →
        (Runs (.imac neg a b n) s fun t => Wrapping n (if neg then sD s n - p else sD s n + p) 0#32 s t)
        ∧ (Runs (.imacSame neg a b n) s fun t => Wrapping n (if neg then sD s n - p else sD s n + p) 0#32 s t)
        ∧ (Runs (.impy a b n) s fun t => Wrapping n p 0#32 s t) ∧ Runs (.impySame a b n) s fun t => Wrapping n p 0#32 s t)
    ∧ (∀ a b n s, Runs (.imaclhuu a b n) s fun t =>
        Wrapping n (sD s n + ((dLow s a).toNat * (dHigh s b).toNat : Nat)) 0#32 s t)
    ∧ (∀ a b n s, Runs (.imacus a b n) s fun t => Wrapping n (sD s n + (dLow s a).toNat * (dHigh s b).toInt) 0#32 s t)
    ∧ (∀ v n s, Runs (.impyW v n) s fun t => Wrapping n (v.toInt * (dLow s n).toInt) 0#32 s t)
    ∧ (∀ a b n s, Runs (.impyhluu a b n) s fun t => Wrapping n ((dHigh s a).toNat * (dLow s b).toNat : Nat) 0#32 s t)
    ∧ (∀ a b n s, Runs (.impysu a b n) s fun t => Wrapping n ((dHigh s a).toInt * (dLow s b).toNat) 0#32 s t)
    ∧ ∀ a b n s, Runs (.impyuu a b n) s fun t => Wrapping n ((dLow s a).toNat * (dLow s b).toNat : Nat) 0#32 s t

/-- O18. MAC and MPY, in every form, complete at every state with the exact fractional product (twice the product) of the signed
high halves, or the accumulator plus or minus it, written as WriteArith says; MACSU, MACUS, MACUU, MPYSU, MPYUS and MPYUU take
the halves and signs that they name and never saturate; everything else is unchanged. (That a result beyond 40 bits saturates by
the sign of the exact result is the spec's decision D14, log 45: the model's choice.) -/
def Obligations.FractionalMultiplies : Prop :=
  (∀ neg a b n s, ∀ p : Int, p = (dHigh s a).toInt * (dHigh s b).toInt * 2 →
        (Runs (.mac neg a b n) s fun t => Saturable n (if neg then sD s n - p else sD s n + p) 0#32 s t)
        ∧ (Runs (.macSame neg a b n) s fun t => Saturable n (if neg then sD s n - p else sD s n + p) 0#32 s t)
        ∧ (Runs (.mpy a b n) s fun t => Saturable n p 0#32 s t) ∧ Runs (.mpySame a b n) s fun t => Saturable n p 0#32 s t)
    ∧ (∀ v a n s, Runs (.macImm v a n) s fun t => Saturable n (sD s n + v.toInt * (dHigh s a).toInt * 2) 0#32 s t)
    ∧ ∀ c d n s,
        (Runs (.macsu c d n) s fun t => Wrapping n (sD s n + (dHigh s c).toInt * (dLow s d).toNat * 2) 0#32 s t)
        ∧ (Runs (.macus c d n) s fun t => Wrapping n (sD s n + (dLow s c).toNat * (dHigh s d).toInt * 2) 0#32 s t)
        ∧ (Runs (.macuu c d n) s fun t => Wrapping n (sD s n + (dLow s c).toNat * (dLow s d).toNat * 2) 0#32 s t)
        ∧ (Runs (.mpysu c d n) s fun t => Wrapping n ((dHigh s c).toInt * (dLow s d).toNat * 2) 0#32 s t)
        ∧ (Runs (.mpyus c d n) s fun t => Wrapping n ((dLow s c).toNat * (dHigh s d).toInt * 2) 0#32 s t)
        ∧ Runs (.mpyuu c d n) s fun t => Wrapping n ((dLow s c).toNat * (dLow s d).toNat * 2) 0#32 s t

/-- O19. The words 1101 10FF F000 0JJJ, 1101 11FF F001 1JJJ and 1101 11FF F001 0JJJ are NOT, OR and EOR Da,Dn; each completes at
every state with the bitwise result on all 40 bits in Dn, its limit tag cleared, no flag and nothing else changed. (R304, R305,
R296) -/
def Obligations.NotOrEor : Prop :=
  (DaDnWords 0xD800 fun a n => .notReg a n) ∧ (DaDnWords 0xDC18 fun a n => .orReg a n)
    ∧ (DaDnWords 0xDC10 fun a n => .eorReg a n)
    ∧ (∀ a n s, Runs (.notReg a n) s fun t => Bits n (~~~(dreg s a)) 0#32 s t)
    ∧ (∀ a n s, Runs (.orReg a n) s fun t => Bits n (dreg s a ||| dreg s n) 0#32 s t)
    ∧ (∀ a n s, Runs (.eorReg a n) s fun t => Bits n (dreg s a ^^^ dreg s n) 0#32 s t)
    ∧ ∀ n s, Runs (.eorReg n n) s fun t => dreg t n = 0#40

/-- O20. The words of SXT.B, SXT.W, SXT.L, ZXT.B, ZXT.W and ZXT.L (with the grouping bit 14 clear or set) decode to them; each
completes at every state with the sign- or zero-extension of the byte, word or long in Dn, its limit tag cleared, no flag and
nothing else changed. (R308, R309, R310, R311, R312, R313) -/
def Obligations.SignAndZeroExtension : Prop :=
  (∀ w, w = 0x3460 ∨ w = 0x7460 →
        (DaDnWords w fun a n => .sxtB a n) ∧ (DaDnWords (w + 0x10) fun a n => .sxtW a n)
        ∧ (DaDnWords (w + 0x8) fun a n => .zxtB a n) ∧ DaDnWords (w + 0x18) fun a n => .zxtW a n)
    ∧ (∀ w, w = 0x2460 ∨ w = 0x6460 → (DnWords w fun n => .zxtL n) ∧ DnWords (w + 1) fun n => .sxtL n)
    ∧ (∀ a n s, Runs (.sxtB a n) s fun t => Bits n (((dreg s a).extractLsb' 0 8).signExtend 40) 0#32 s t)
    ∧ (∀ a n s, Runs (.sxtW a n) s fun t => Bits n (((dreg s a).extractLsb' 0 16).signExtend 40) 0#32 s t)
    ∧ (∀ n s, Runs (.sxtL n) s fun t => Bits n (((dreg s n).extractLsb' 0 32).signExtend 40) 0#32 s t)
    ∧ (∀ a n s, Runs (.zxtB a n) s fun t => Bits n (dreg s a &&& 0xFF#40) 0#32 s t)
    ∧ (∀ a n s, Runs (.zxtW a n) s fun t => Bits n (dreg s a &&& 0xFFFF#40) 0#32 s t)
    ∧ ∀ n s, Runs (.zxtL n) s fun t => Bits n (dreg s n &&& 0xFFFFFFFF#40) 0#32 s t

/-- O21. AND with a 16-bit mask in the low half, in the high half (its bit 31 copied into the extension) or with a register; LSR,
ROL and ROR by one bit with C; ASLW, ASRW and LSRW by 16 bits; CLB's count 9 minus the number of leading bits equal to the sign,
and 0 for 0. Each completes at every state, clears the limit tag and leaves the rest as it was; only ASLW can overflow. -/
def Obligations.DaluAndAndSingleShifts : Prop :=
  (∀ u a n s, Runs (.andImmLow u a n) s fun t => Bits n (dreg s a &&& u.setWidth 40) 0#32 s t)
    ∧ (∀ u a n s, Runs (.andImmHigh u a n) s fun t => Bits n (dreg s a &&& ((u ++ 0#16).signExtend 40)) 0#32 s t)
    ∧ (∀ a n s, Runs (.andReg a n) s fun t => Bits n (dreg s a &&& dreg s n) 0#32 s t)
    ∧ (∀ n s, Runs (.lsr n) s fun t =>
        Plain [.d n] bitC s t ∧ uD t n = uD s n / 2 ∧ ltag t n = false ∧ carry t = (dreg s n).getLsbD 0)
    ∧ (∀ n s, Runs (.rol n) s fun t => Plain [.d n] bitC s t ∧ ltag t n = false
        ∧ uD t n + 2 ^ 40 * (carry t).toNat = 2 * uD s n + (carry s).toNat)
    ∧ (∀ n s, Runs (.ror n) s fun t => Plain [.d n] bitC s t ∧ ltag t n = false
        ∧ 2 * uD t n + (carry t).toNat = uD s n + 2 ^ 40 * (carry s).toNat)
    ∧ (∀ a n s, Runs (.aslw a n) s fun t => Arith [.d n] bitC s t ∧ (dreg t n).toInt = (sD s a * 65536).bmod (2 ^ 40)
        ∧ ltag t n = false ∧ carry t = (dreg s a).getLsbD 24 ∧ dovf t = (dovf s || beyond 39 (sD s a * 65536)))
    ∧ (∀ a n s, Runs (.asrw a n) s fun t =>
        Plain [.d n] bitC s t ∧ sD t n = sD s a / 65536 ∧ ltag t n = false ∧ carry t = (dreg s a).getLsbD 15)
    ∧ (∀ a n s, Runs (.lsrw a n) s fun t =>
        Plain [.d n] bitC s t ∧ uD t n = uD s a / 65536 ∧ ltag t n = false ∧ carry t = (dreg s a).getLsbD 15)
    ∧ ∀ a n s, Runs (.clb a n) s fun t => Plain [.d n] 0#32 s t ∧ ltag t n = false ∧ (dreg s a = 0#40 → sD t n = 0)
        ∧ (dreg s a ≠ 0#40 → ∃ k : Nat, 1 ≤ k ∧ k ≤ 40 ∧ sD t n = 9 - k
          ∧ (∀ i, 40 - k ≤ i → i < 40 → (dreg s a).getLsbD i = (dreg s a).getLsbD 39)
          ∧ (k < 40 → (dreg s a).getLsbD (39 - k) ≠ (dreg s a).getLsbD 39))

/-- O22. ASLL, ASRR, LSRR by a 5-bit immediate and ASLL, ASRR, LSLL, LSRR by the signed 7-bit amount in Da: a positive amount shifts
the way of the name, a negative one the other way; C is the last bit shifted out, and is cleared by an amount of 0 (the spec's
decision D15); the limit tag is cleared; DOVF is set by an arithmetic shift left whose exact result is beyond 40 bits. A
register amount outside -40..40 still completes, and only Dn, its tag, C and DOVF may change; Dn and C are then not constrained
(the spec calls them undefined, log 7). -/
def Obligations.MultipleBitShifts : Prop :=
  (∀ u n s, Runs (.asllImm u n) s fun t => Shifted n u.toNat true s t)
    ∧ (∀ u n s, Runs (.asrrImm u n) s fun t => Shifted n (-(u.toNat : Int)) true s t)
    ∧ (∀ u n s, Runs (.lsrrImm u n) s fun t => Shifted n (-(u.toNat : Int)) false s t)
    ∧ ∀ a n s, ∀ k : Int, k = ((dreg s a).extractLsb' 0 7).toInt →
        (-40 ≤ k → k ≤ 40 →
          (Runs (.asllReg a n) s fun t => Shifted n k true s t) ∧ (Runs (.asrrReg a n) s fun t => Shifted n (-k) true s t)
          ∧ (Runs (.lsll a n) s fun t => Shifted n k false s t) ∧ Runs (.lsrrReg a n) s fun t => Shifted n (-k) false s t)
        ∧ (k < -40 ∨ 40 < k →
          (Runs (.asllReg a n) s fun t => Arith [.d n] bitC s t ∧ ltag t n = false
            ∧ dovf t = (dovf s || (decide (0 < k) && beyond 39 (sD s n * 2 ^ k.toNat))))
          ∧ (Runs (.asrrReg a n) s fun t => Arith [.d n] bitC s t ∧ ltag t n = false
            ∧ dovf t = (dovf s || (decide (k < 0) && beyond 39 (sD s n * 2 ^ (-k).toNat))))
          ∧ (Runs (.lsll a n) s fun t => Plain [.d n] bitC s t ∧ ltag t n = false)
          ∧ Runs (.lsrrReg a n) s fun t => Plain [.d n] bitC s t ∧ ltag t n = false)

/-- O23. With a width w and an offset o (immediate, or Da[13:8] and Da[5:0]) that are at most 40 and whose sum is at most 40:
EXTRACT puts bits o..o+w-1 of Db at the bottom of Dn and copies the field's top bit above it (0 if w is 0, the spec's decision
D16), EXTRACTU puts zeros above it, INSERT puts the w low bits of Db at bit o of Dn and leaves the other bits (that it takes the
low bits of Db is the spec's G1, from general knowledge, log 16: the model's choice). The limit tag is cleared, nothing else
changes. Outside the ranges they complete too, and Dn is not constrained (the spec calls it undefined, log 7). -/
def Obligations.BitFields : Prop :=
  ∀ a b n s, ∀ w o : Nat,
    (∀ i, (∃ u v : BitVec 6, u.toNat = w ∧ v.toNat = o ∧ i = .extractImm u v b n)
        ∨ (w = ((dreg s a).extractLsb' 8 6).toNat ∧ o = ((dreg s a).extractLsb' 0 6).toNat ∧ i = .extractReg a b n) →
      Runs i s fun t => Plain [.d n] 0#32 s t ∧ ltag t n = false ∧ (w ≤ 40 → o ≤ 40 → w + o ≤ 40 → ∀ j, j < 40 →
        (dreg t n).getLsbD j = if j < w then (dreg s b).getLsbD (o + j)
          else if w = 0 then false else (dreg s b).getLsbD (o + w - 1)))
    ∧ (∀ i, (∃ u v : BitVec 6, u.toNat = w ∧ v.toNat = o ∧ i = .extractuImm u v b n)
        ∨ (w = ((dreg s a).extractLsb' 8 6).toNat ∧ o = ((dreg s a).extractLsb' 0 6).toNat ∧ i = .extractuReg a b n) →
      Runs i s fun t => Plain [.d n] 0#32 s t ∧ ltag t n = false ∧ (w ≤ 40 → o ≤ 40 → w + o ≤ 40 → ∀ j, j < 40 →
        (dreg t n).getLsbD j = if j < w then (dreg s b).getLsbD (o + j) else false))
    ∧ ∀ i, (∃ u v : BitVec 6, u.toNat = w ∧ v.toNat = o ∧ i = .insertImm u v b n)
        ∨ (w = ((dreg s a).extractLsb' 8 6).toNat ∧ o = ((dreg s a).extractLsb' 0 6).toNat ∧ i = .insertReg a b n) →
      Runs i s fun t => Plain [.d n] 0#32 s t ∧ ltag t n = false ∧ (w ≤ 40 → o ≤ 40 → w + o ≤ 40 → ∀ j, j < 40 →
        (dreg t n).getLsbD j = if o ≤ j ∧ j < o + w then (dreg s b).getLsbD (j - o) else (dreg s n).getLsbD j)

/-- O24. Each AGU addition completes at every state, in every form, writes Rx (Rn for the 16-bit form) only, and invalidates RAS and
SP's shadow if it writes SP; the result is the sum of the register and the operand in the register's modifier mode, as AguAdd
with an access width of 1 gives it (ModifierModes says what that is), in linear mode the plain 32-bit sum with the operand
(shifted by 1 or 2 for ADDL1A and ADDL2A). DECEQA and DECGEA ignore the modifier mode and write T: the result is zero; the exact
difference is not negative. Only a multiple of 8 is kept by a stack pointer. (Which writes of SP invalidate RAS is log 32, and
which its shadow is log 50: the model's choice.) -/
def Obligations.AguSums : Prop :=
  (∀ u x s, Runs (.addaImm u x) s (AguSum x (u.setWidth 32) false s))
    ∧ (∀ src x s, Runs (.addaReg src x) s (AguSum x (srcVal s src) true s))
    ∧ (∀ src x s, Runs (.addl1a src x) s (AguSum x (2#32 * srcVal s src) true s))
    ∧ (∀ src x s, Runs (.addl2a src x) s (AguSum x (4#32 * srcVal s src) true s))
    ∧ (∀ u x s, Runs (.subaImm u x) s (AguSum x (-(u.setWidth 32)) false s))
    ∧ (∀ src x s, Runs (.subaReg src x) s (AguSum x (-(srcVal s src)) true s))
    ∧ (∀ x s, Runs (.inca x) s (AguSum x 1#32 false s)) ∧ (∀ x s, Runs (.deca x) s (AguSum x (-1#32) false s))
    ∧ (∀ v src n s, Runs (.addaImm16 v src n) s fun t =>
        Agu (.r n) (srcSum s src (v.signExtend 32)) 0#32 s t
          ∧ (srcLinear s src → srcSum s src (v.signExtend 32) = srcVal s src + v.signExtend 32))
    ∧ (∀ x s, Runs (.deceqa x) s fun t => Agu x (rxVal s x - 1#32) bitT s t ∧ tBit t = decide (rxVal s x = 1#32))
    ∧ ∀ x s, Runs (.decgea x) s fun t => Agu x (rxVal s x - 1#32) bitT s t ∧ tBit t = decide (1 ≤ (rxVal s x).toInt)

/-- O25. For R0..R7 with the modulo mode properly set up, an update by no more than the buffer's size stays in the buffer and
differs from the plain sum by nothing or by one size; with the wrap-around mode set up, the low k bits are those of the plain
sum and the high bits stay; with reverse carry, the result read backwards is the sum of the operands read backwards, its low
bits forced to zero for the width. -/
def Obligations.ModifierModes : Prop :=
  (∀ s (n : RReg) r o w reg tag, n.val < 8 → 8 ≤ amOf s n → amOf s n < 12 →
        ∀ b m, b = rreg s (Fin.ofNat 16 (n.val + 8)) → m = mreg s (Fin.ofNat 4 (amOf s n)) →
        moduloOk r o b m w reg = true → (o.toInt.natAbs ≤ m.toNat) →
        ∃ x : Int, (b.toNat : Int) ≤ x ∧ x < b.toNat + m.toNat ∧ aguAdd s n r o w reg tag = BitVec.ofInt 32 x
          ∧ (x = r.toNat + o.toInt ∨ x = r.toNat + o.toInt - m.toNat ∨ x = r.toNat + o.toInt + m.toNat))
    ∧ (∀ s (n : RReg) r o w reg tag, n.val < 8 → 12 ≤ amOf s n → ∀ m, m = mreg s (Fin.ofNat 4 (amOf s n)) →
        wrapOk m w = true → ∀ i, i < 32 →
        (aguAdd s n r o w reg tag).getLsbD i = if m.getLsbD i then (r + o).getLsbD i else r.getLsbD i)
    ∧ ∀ s (n : RReg) r o w reg tag, n.val < 8 → amOf s n = 1 → w = 1 ∨ w = 2 ∨ w = 4 ∨ w = 8 → ∀ i, i < 32 →
        (aguAdd s n r o w reg tag).getLsbD i = (decide (w ≤ 2 ^ i) && (r.reverse + o.reverse).getLsbD (31 - i))

/-- O26. The words 1110 RRRR 1111 1110, 1111 1100, 1111 1101 and 1111 1111 decode to ASL2A, ASLA, ASRA and LSRA of Rx; each
completes at every state with the shifted value in Rx, whatever MCTL holds, no flag and nothing else changed (a write of SP
invalidates RAS, R442 and log 32, and SP's shadow, R690 and log 50; that all such writes do is the model's choice). -/
def Obligations.AguShifts : Prop :=
  (RxWords 0xE0FE fun x => .asl2a x) ∧ (RxWords 0xE0FC fun x => .asla x) ∧ (RxWords 0xE0FD fun x => .asra x)
    ∧ (RxWords 0xE0FF fun x => .lsra x)
    ∧ ∀ x s, Runs (.asl2a x) s (Agu x ((rxVal s x).extractLsb' 0 30 ++ 0#2) 0#32 s)
      ∧ Runs (.asla x) s (Agu x ((rxVal s x).extractLsb' 0 31 ++ 0#1) 0#32 s)
      ∧ Runs (.asra x) s (Agu x ((rxVal s x).extractLsb' 31 1 ++ (rxVal s x).extractLsb' 1 31) 0#32 s)
      ∧ Runs (.lsra x) s (Agu x (0#1 ++ (rxVal s x).extractLsb' 1 31) 0#32 s)

/-- O27. The words 1110 RRRR 1111 0001, 1111 0000, 1111 0011 and 1111 0010 decode to the four tests of Rx; each completes at every
state with T the outcome (32 bits zero; low 16 bits zero; signed and not negative; signed and positive) and nothing else
changed; SP is the stack pointer that EXP selects. (R341, R342, R343, R344) -/
def Obligations.AguTests : Prop :=
  (RxWords 0xE0F1 fun x => .tsteqaL x) ∧ (RxWords 0xE0F0 fun x => .tsteqaW x) ∧ (RxWords 0xE0F3 fun x => .tstgeaL x)
    ∧ (RxWords 0xE0F2 fun x => .tstgta x)
    ∧ (∀ s, rxVal s .sp = if s.sr.getLsbD 18 then s.esp else s.nsp)
    ∧ ∀ x s, Runs (.tsteqaL x) s (Tests (decide (rxVal s x = 0#32)) s)
      ∧ Runs (.tsteqaW x) s (Tests (decide ((rxVal s x).extractLsb' 0 16 = 0#16)) s)
      ∧ Runs (.tstgeaL x) s (Tests (!(rxVal s x).getLsbD 31) s)
      ∧ Runs (.tstgta x) s (Tests (decide (0 < (rxVal s x).toInt)) s)

/-- O28. A comparison of two different AGU registers completes at every state with T the outcome (Rx equal to, signed greater than,
unsigned higher than rx) and nothing else changed; a comparison of a register with itself, which the spec forbids, is refused by
name (log 44). -/
def Obligations.AguCompares : Prop :=
  ∀ src x s,
    (sameReg src x = false →
      Runs (.cmpeqa src x) s (Tests (decide (srcVal s src = rxVal s x)) s)
      ∧ Runs (.cmpgta src x) s (Tests (decide ((srcVal s src).toInt < (rxVal s x).toInt)) s)
      ∧ Runs (.cmphia src x) s (Tests (decide ((srcVal s src).toNat < (rxVal s x).toNat)) s))
    ∧ (sameReg src x = true →
      exec (.cmpeqa src x) s = .refused .selfCompare ∧ exec (.cmpgta src x) s = .refused .selfCompare
      ∧ exec (.cmphia src x) s = .refused .selfCompare)

/-- O29. TFRA copies a register (PC reads as the address of the set), TFRA OSP,Rn and TFRA Rn,OSP read and write the stack pointer
that EXP does not select, SXTA and ZXTA extend a byte of rx or the word of Rx. Each completes at every state, whatever MCTL
holds, changes only its destination, and a write of a stack pointer invalidates RAS and its shadow and keeps a multiple of 8.
(Which writes of a stack pointer, TFRA to OSP among them, invalidate RAS is log 32, and which the shadow is log 50: the model's
choice.) -/
def Obligations.AguTransfersAndExtensions : Prop :=
  (∀ src x s, Runs (.tfra src x) s (Agu x (srcVal s src) 0#32 s)) ∧ (∀ s, srcVal s .pc = s.pc)
    ∧ (∀ src x s, Runs (.sxtaB src x) s (Agu x (((srcVal s src).extractLsb' 0 8).signExtend 32) 0#32 s))
    ∧ (∀ x s, Runs (.sxtaW x) s (Agu x (((rxVal s x).extractLsb' 0 16).signExtend 32) 0#32 s))
    ∧ (∀ src x s, Runs (.zxtaB src x) s (Agu x (srcVal s src &&& 0xFF#32) 0#32 s))
    ∧ (∀ x s, Runs (.zxtaW x) s (Agu x (rxVal s x &&& 0xFFFF#32) 0#32 s))
    ∧ (∀ n s, Runs (.tfraFromOsp n) s (Agu (.r n) (if s.sr.getLsbD 18 then s.nsp else s.esp) 0#32 s))
    ∧ ∀ n s, Runs (.tfraToOsp n) s fun t => Untouched [ospDest s] 0#32 0#32 s t ∧ SameCore s t ∧ SameFlow s t
        ∧ SameDebug s t ∧ SameMem s t ∧ t.ras = s.ras ∧ t.rasValid = false
        ∧ (if s.sr.getLsbD 18 then t.nspShadow = false ∧ t.espShadow = s.espShadow
          else t.espShadow = false ∧ t.nspShadow = s.nspShadow)
        ∧ (if s.sr.getLsbD 18 then t.nsp else t.esp) = rreg s n &&& 0xFFFFFFF8#32

/-- O30. Every write of NSP or ESP stores the value with its three low bits cleared, and no instruction leaves another value in
them: the bits read as 0 after any instruction if they did before it. (R31) -/
def Obligations.StackPointersAreMultiplesOf8 : Prop :=
  (∀ s v, (setNsp s v).nsp = v &&& 0xFFFFFFF8#32 ∧ (setEsp s v).esp = v &&& 0xFFFFFFF8#32)
    ∧ ∀ i s t, StacksAligned s → exec i s = .next t →
      StacksAligned t ∧ t.nsp.extractLsb' 0 3 = 0#3 ∧ t.esp.extractLsb' 0 3 = 0#3

/-- O31. In every modifier mode (Rn), (Rn)+, (Rn)- and (Rn)+Ni access Rn and then leave it, or write to it what AguAdd gives for the
access width, its negative or Ni times it; (Rn+N0), (Rn+Rr), (Rn+s15) and (Rn+u3) access what AguAdd gives for their offset,
offsets in registers and short ones scaled by the width (ModifierModes says what AguAdd gives). With the pointer's modifier mode
linear: (Rn), (Rn)+, (Rn)- and (Rn)+Ni access Rn and then leave it, or move it by the access width or by Ni times the width;
(Rn+N0), (Rn+Rr), (Rn+s15) and (Rn+u3) access the sum, offsets in registers and short ones scaled by the width; absolute and SP-
relative operands access their address. No other state changes. -/
def Obligations.EffectiveAddresses : Prop :=
  (∀ s (rn : RReg) w, ∀ A : Word → Bool → Word, A = (fun o reg => aguAdd s rn (rreg s rn) o w reg 0) →
      eaMode s .plain rn w = ⟨rreg s rn, s, false⟩
      ∧ eaMode s .postInc rn w = ⟨rreg s rn, setR s rn (A (BitVec.ofNat 32 w) false), false⟩
      ∧ eaMode s .postDec rn w = ⟨rreg s rn, setR s rn (A (-BitVec.ofNat 32 w) false), false⟩
      ∧ (∀ k, eaMode s (.postN k) rn w = ⟨rreg s rn, setR s rn (A (nreg s k * BitVec.ofNat 32 w) true), false⟩)
      ∧ eaMode s .indexN0 rn w = ⟨A (nreg s 0 * BitVec.ofNat 32 w) true, s, true⟩
      ∧ (∀ m, memEa s (.ea m rn) w = eaMode s m rn w)
      ∧ (∀ x, memEa s (.disp rn x) w = ⟨A (BitVec.ofInt 32 x.toInt) false, s, true⟩)
      ∧ (∀ u, memEa s (.short rn u) w = ⟨A (BitVec.ofNat 32 (u.toNat * w)) false, s, true⟩)
      ∧ ∀ rr, memEa s (.index rn rr) w = ⟨A (rreg s (Fin.ofNat 16 rr.val) * BitVec.ofNat 32 w) true, s, true⟩)
    ∧ ∀ s (rn : RReg) w, (8 ≤ rn.val ∨ amOf s rn = 0) →
    eaMode s .plain rn w = ⟨rreg s rn, s, false⟩
    ∧ eaMode s .postInc rn w = ⟨rreg s rn, setR s rn (rreg s rn + BitVec.ofNat 32 w), false⟩
    ∧ eaMode s .postDec rn w = ⟨rreg s rn, setR s rn (rreg s rn - BitVec.ofNat 32 w), false⟩
    ∧ (∀ k, eaMode s (.postN k) rn w = ⟨rreg s rn, setR s rn (rreg s rn + nreg s k * BitVec.ofNat 32 w), false⟩)
    ∧ eaMode s .indexN0 rn w = ⟨rreg s rn + nreg s 0 * BitVec.ofNat 32 w, s, true⟩
    ∧ (∀ m, memEa s (.ea m rn) w = eaMode s m rn w)
    ∧ (∀ x, memEa s (.disp rn x) w = ⟨rreg s rn + BitVec.ofInt 32 x.toInt, s, true⟩)
    ∧ (∀ u, memEa s (.short rn u) w = ⟨rreg s rn + BitVec.ofNat 32 (u.toNat * w), s, true⟩)
    ∧ (∀ rr, memEa s (.index rn rr) w = ⟨rreg s rn + rreg s (Fin.ofNat 16 rr.val) * BitVec.ofNat 32 w, s, true⟩)
    ∧ (∀ a, memEa s (.abs16 a) w = ⟨BitVec.ofNat 32 a.toNat, s, false⟩) ∧ (∀ a, memEa s (.abs32 a) w = ⟨a, s, false⟩)
    ∧ (∀ x, memEa s (.sp x) w = ⟨spOf s + BitVec.ofInt 32 x.toInt, s, true⟩)
    ∧ (∀ u, memEa s (.spShort u) w = ⟨spOf s - BitVec.ofNat 32 (u.toNat * w), s, true⟩)
    ∧ (∀ x, extEa s (.sp x) = ⟨spOf s + BitVec.ofInt 32 x.toInt, s, true⟩) ∧ (∀ a, extEa s (.abs32 a) = ⟨a, s, false⟩)
    ∧ bmuEa s (.rn rn) = ⟨rreg s rn, s, false⟩ ∧ (∀ u, bmuEa s (.spShort u) = ⟨spOf s - BitVec.ofNat 32 (u.toNat * 2), s, true⟩)
    ∧ (∀ a, bmuEa s (.abs16 a) = ⟨BitVec.ofNat 32 a.toNat, s, false⟩)
    ∧ ∀ x, bmuEa s (.sp x) = ⟨spOf s + BitVec.ofInt 32 x.toInt, s, true⟩

/-- O32. MOVE.F, MOVE.L, MOVE.W, MOVEU.L and MOVEU.W of immediates, MOVE.L between a data register and another, MOVET and MOVEF
complete at every state; the value is sign-extended (zero-extended for MOVEU), fractions go to the high half, MOVEU.W changes
one half only; a data register loses its limit tag; MOVET and MOVEF change nothing at all if T does not allow them; everything
else is unchanged. -/
def Obligations.RegisterMoves : Prop :=
  (∀ v b s, Runs (.movefImm v b) s (Bits b ((v ++ 0#16).signExtend 40) 0#32 s))
    ∧ (∀ v c s, Runs (.movelImmC4 v c) s fun t => Plain (c4Dests c) 0#32 s t ∧ c4Is t c (v.signExtend 40))
    ∧ (∀ c b s, Runs (.movelC4 .read c b) s (Bits b ((c4Long s c).signExtend 40) 0#32 s))
    ∧ (∀ c b s, Runs (.movelC4 .write c b) s fun t =>
        Plain (c4Dests c) 0#32 s t ∧ c4Is t c ((dLong s b).signExtend 40))
    ∧ (∀ v dr s, Runs (.movewImm7 v dr) s fun t => Plain (drDests dr) 0#32 s t ∧ drIs t dr (v.signExtend 40))
    ∧ (∀ v c s, Runs (.movewImm16 v c) s fun t => Plain (c4Dests c) 0#32 s t ∧ c4Is t c (v.signExtend 40))
    ∧ (∀ q n s, (tBit s = true →
          (Runs (.movet q n) s fun t => Plain [.r n] 0#32 s t ∧ rreg t n = rreg s q) ∧ exec (.movef q n) s = .next s)
        ∧ (tBit s = false →
          (Runs (.movef q n) s fun t => Plain [.r n] 0#32 s t ∧ rreg t n = rreg s q) ∧ exec (.movet q n) s = .next s))
    ∧ (∀ v b s, Runs (.moveulImm v b) s (Bits b (v.setWidth 40) 0#32 s))
    ∧ (∀ u b s, Runs (.moveuwHigh u b) s (Bits b (dExt s b ++ (u ++ dLow s b)) 0#32 s))
    ∧ ∀ u b s, Runs (.moveuwLow u b) s (Bits b (dExt s b ++ (dHigh s b ++ u)) 0#32 s)

/-- O33. MOVE.L of an immediate to EMR, VBA, SR or MCTL and MOVE.L between a data register and EMR, VBA, SR, MCTL, SAn or LCn
complete at every state with legal SR; a write follows the register's own rule (EMR: a 1 clears a sticky bit, the spec's
decision D32, log 47; VBA: bits 31:12; SR: the implemented bits, the decision D31, log 30; MCTL, SAn, LCn: all bits); a read
gives the register sign-extended to 40 bits with no limit tag; nothing else changes. -/
def Obligations.ControlRegisterMoves : Prop :=
  (∀ v c s, SrLegal s → Runs (.movelImmC1 v c) s fun t => Control (c1Dests c) (c1Sr c) (c1Emr c) s t ∧ c1Is s t c v)
    ∧ (∀ c b s, SrLegal s → Runs (.movelC2 .write c b) s fun t =>
        Control (c2Dests c) (c2Sr c) (c2Emr c) s t ∧ c2Is s t c (dLong s b))
    ∧ ∀ c b s, Runs (.movelC2 .read c b) s (Bits b ((c2Val s c).signExtend 40) 0#32 s)

/-- O34. MOVE.B, MOVE.F, MOVE.L, MOVE.W, MOVEU.B and MOVEU.W from memory, in every form, complete at every state whose address is
aligned for the width, move the pointer as the addressing mode says, and change no other register, flag or byte of memory;
outside the EOnCE window the destination holds the value in the mode's byte order, sign-extended, zero-extended for MOVEU, or in
the high half for MOVE.F, with no limit tag. (A destination that is also the updated pointer is not constrained: the spec
forbids the form, log 14.) -/
def Obligations.LoadsOfOneRegister : Prop :=
  ∀ s,
    (∀ m dr, ∀ e, e = memEa s m 1 →
      Loads (.movebLoad m dr) s e 1 (drDests dr) (memDests m) 0#32
        (fun t => clashes m dr = false → drIs t dr ((byteAt s e.addr).signExtend 40))
      ∧ Loads (.moveub m dr) s e 1 (drDests dr) (memDests m) 0#32
        (fun t => clashes m dr = false → drIs t dr ((byteAt s e.addr).setWidth 40)))
    ∧ (∀ m, ∀ e, e = memEa s m 2 →
      (∀ b, Loads (.movefLoad m b) s e 2 [.d b] (memDests m) 0#32
        fun t => dreg t b = (mem16 s e.addr ++ 0#16).signExtend 40 ∧ ltag t b = false)
      ∧ (∀ dr, Loads (.movew .read m dr) s e 2 (drDests dr) (memDests m) 0#32
          (fun t => clashes m dr = false → drIs t dr ((mem16 s e.addr).signExtend 40))
        ∧ Loads (.moveuw m dr) s e 2 (drDests dr) (memDests m) 0#32
          (fun t => clashes m dr = false → drIs t dr ((mem16 s e.addr).setWidth 40)))
      ∧ ∀ c, Loads (.movewC4Mem .read m c) s e 2 (c4Dests c) (memDests m) 0#32
          (fun t => c4Is t c ((mem16 s e.addr).signExtend 40))
        ∧ Loads (.moveuwC4 m c) s e 2 (c4Dests c) (memDests m) 0#32
          (fun t => c4Is t c ((mem16 s e.addr).setWidth 40)))
    ∧ (∀ m, ∀ e, e = memEa s m 4 →
      (∀ dr, Loads (.movel .read m dr) s e 4 (drDests dr) (memDests m) 0#32
        fun t => clashes m dr = false → drIs t dr ((mem32 s e.addr).signExtend 40))
      ∧ ∀ c, Loads (.movelC4Mem .read m c) s e 4 (c4Dests c) (memDests m) 0#32
        fun t => c4Is t c ((mem32 s e.addr).signExtend 40))
    ∧ ∀ rn c,
      Loads (.movelC3 .read rn c) s (eaMode s .plain rn 4) 4 (c4Dests (c3c4 c)) [] 0#32
        (fun t => c4Is t (c3c4 c) ((mem32 s (rreg s rn)).signExtend 40))
      ∧ Loads (.movewC3 .read rn c) s (eaMode s .plain rn 2) 2 (c4Dests (c3c4 c)) [] 0#32
        (fun t => c4Is t (c3c4 c) ((mem16 s (rreg s rn)).signExtend 40))

/-- O35. MOVE.B, MOVE.F, MOVE.L and MOVE.W to memory (also of an immediate), in every form, complete at every state with canonical
memory whose address is aligned for the width, move the pointer as the addressing mode says, and change no other register, no
flag and no byte of memory but those stored to; outside the EOnCE window those hold the low bits of the register (the high half
for MOVE.F) in the mode's byte order. -/
def Obligations.StoresOfOneRegister : Prop :=
  ∀ s,
    (∀ dr m, ∀ e, e = memEa s m 1 →
      Stores (.movebStore dr m) s e 1 (memDests m) 0#32 fun t => byteAt t e.addr = (drLong s dr).extractLsb' 0 8)
    ∧ (∀ m, ∀ e, e = memEa s m 2 →
      (∀ b, Stores (.movefStore b m) s e 2 (memDests m) 0#32 fun t => mem16 t e.addr = dHigh s b)
      ∧ (∀ dr, Stores (.movew .write m dr) s e 2 (memDests m) 0#32
        fun t => mem16 t e.addr = (drLong s dr).extractLsb' 0 16)
      ∧ ∀ c, Stores (.movewC4Mem .write m c) s e 2 (memDests m) 0#32
        fun t => mem16 t e.addr = (c4Long s c).extractLsb' 0 16)
    ∧ (∀ m, ∀ e, e = memEa s m 4 →
      (∀ dr, Stores (.movel .write m dr) s e 4 (memDests m) 0#32 fun t => mem32 t e.addr = drLong s dr)
      ∧ ∀ c, Stores (.movelC4Mem .write m c) s e 4 (memDests m) 0#32 fun t => mem32 t e.addr = c4Long s c)
    ∧ (∀ rn c, Stores (.movelC3 .write rn c) s (eaMode s .plain rn 4) 4 [] 0#32
          (fun t => mem32 t (rreg s rn) = c4Long s (c3c4 c))
        ∧ Stores (.movewC3 .write rn c) s (eaMode s .plain rn 2) 2 [] 0#32
          (fun t => mem16 t (rreg s rn) = (c4Long s (c3c4 c)).extractLsb' 0 16))
    ∧ ∀ v m, Stores (.movewImmMem v m) s (bmuEa s m) 2 [] 0#32 fun t => mem16 t (bmuEa s m).addr = v

/-- O36. A load of a pair or a quad completes at every state whose address is aligned for the whole width, moves the pointer, and
changes no other register, flag or byte; outside the EOnCE window each register, the first from the lowest address, holds its
own element in the mode's byte order, sign-extended, or in the high half for the fractional forms, with no limit tag. -/
def Obligations.LoadsOfSeveralRegisters : Prop :=
  ∀ s ea rn p q,
    (∀ e, e = eaMode s ea rn 4 →
      Loads (.move2f ea rn p) s e 4 (pairDests p) (eaDests ea rn) 0#32
        (fun t => dreg t (pairFst p) = (mem16 s e.addr ++ 0#16).signExtend 40 ∧ ltag t (pairFst p) = false
          ∧ dreg t (pairSnd p) = (mem16 s (e.addr + 2) ++ 0#16).signExtend 40 ∧ ltag t (pairSnd p) = false)
      ∧ Loads (.move2w .read ea rn p) s e 4 (pairDests p) (eaDests ea rn) 0#32
        (fun t => dreg t (pairFst p) = (mem16 s e.addr).signExtend 40 ∧ ltag t (pairFst p) = false
          ∧ dreg t (pairSnd p) = (mem16 s (e.addr + 2)).signExtend 40 ∧ ltag t (pairSnd p) = false))
    ∧ ∀ e, e = eaMode s ea rn 8 →
      Loads (.move2l .read ea rn p) s e 8 (pairDests p) (eaDests ea rn) 0#32
        (fun t => dreg t (pairFst p) = (mem32 s e.addr).signExtend 40 ∧ ltag t (pairFst p) = false
          ∧ dreg t (pairSnd p) = (mem32 s (e.addr + 4)).signExtend 40 ∧ ltag t (pairSnd p) = false)
      ∧ Loads (.move4f ea rn q) s e 8 (quadDests q) (eaDests ea rn) 0#32
        (fun t => ∀ k : Fin 4, ltag t (quadReg q k) = false
          ∧ dreg t (quadReg q k) = (mem16 s (e.addr + BitVec.ofNat 32 (2 * k.val)) ++ 0#16).signExtend 40)
      ∧ Loads (.move4w .read ea rn q) s e 8 (quadDests q) (eaDests ea rn) 0#32
        (fun t => ∀ k : Fin 4, ltag t (quadReg q k) = false
          ∧ dreg t (quadReg q k) = (mem16 s (e.addr + BitVec.ofNat 32 (2 * k.val))).signExtend 40)

/-- O37. A store of a pair or a quad completes at every state with canonical memory whose address is aligned for the whole width,
moves the pointer, and changes no other register, no flag and no byte but those stored to; outside the EOnCE window each
element, the first register's at the lowest address, is in the mode's byte order. VSL.2 stores one long, and VSL.4 two: the
halves of D2 and D6, and the halves of D3 or D1 that the Viterbi flags select, shifted left by one, the second with its low bit
set (D10, D14, D9, D11 with the high-bank bit). -/
def Obligations.StoresOfSeveralRegisters : Prop :=
  ∀ s,
    (∀ ea rn p, ∀ e, e = eaMode s ea rn 4 →
      Stores (.move2w .write ea rn p) s e 4 (eaDests ea rn) 0#32
        (fun t => mem16 t e.addr = dLow s (pairFst p) ∧ mem16 t (e.addr + 2) = dLow s (pairSnd p)))
    ∧ (∀ ea rn p q, ∀ e, e = eaMode s ea rn 8 →
      Stores (.move2l .write ea rn p) s e 8 (eaDests ea rn) 0#32
        (fun t => mem32 t e.addr = dLong s (pairFst p) ∧ mem32 t (e.addr + 4) = dLong s (pairSnd p))
      ∧ Stores (.move4w .write ea rn q) s e 8 (eaDests ea rn) 0#32
        (fun t => ∀ k : Fin 4, mem16 t (e.addr + BitVec.ofNat 32 (2 * k.val)) = dLow s (quadReg q k)))
    ∧ ∀ (high : Bool) rn, ∀ f w : Nat → Word16,
      f = (fun i => if srBit s i then dHigh s (if high then 11 else 3) else dHigh s (if high then 9 else 1)) →
      w = (fun i => if srBit s i then dLow s (if high then 11 else 3) else dLow s (if high then 9 else 1)) →
      (∀ e, e = eaMode s (.postN 0) rn 4 →
        Stores (.vsl2f high rn) s e 4 [.r rn] 0#32
          (fun t => mem32 t e.addr = (f 11 <<< 1 ||| 1#16) ++ (f 9 <<< 1))
        ∧ Stores (.vsl2w high rn) s e 4 [.r rn] 0#32
          (fun t => mem32 t e.addr = (w 10 <<< 1 ||| 1#16) ++ (w 8 <<< 1)))
      ∧ ∀ e, e = eaMode s (.postN 0) rn 8 →
        Stores (.vsl4f high rn) s e 8 [.r rn] 0#32
          (fun t => mem32 t e.addr = dHigh s (if high then 14 else 6) ++ dHigh s (if high then 10 else 2)
            ∧ mem32 t (e.addr + 4) = (f 11 <<< 1 ||| 1#16) ++ (f 9 <<< 1))
        ∧ Stores (.vsl4w high rn) s e 8 [.r rn] 0#32
          (fun t => mem32 t e.addr = dLow s (if high then 14 else 6) ++ dLow s (if high then 10 else 2)
            ∧ mem32 t (e.addr + 4) = (w 10 <<< 1 ||| 1#16) ++ (w 8 <<< 1))

/-- O38. The MOVES stores complete at every state with canonical memory whose address is aligned for the width, move the pointer,
and change no register but it, no flag but S and no byte but those stored to; a register whose limit tag is set is stored as the
largest number of its sign, another one scaled as the mode says (not at all with SM set); S is set, and never cleared, if bits
30 and 29 of an unlimited value moved differ. In the reserved scaling mode an unlimited value and S are not constrained (log 7). -/
def Obligations.ScaledAndLimitedStores : Prop :=
  ∀ s,
    (∀ b m, ∀ e, e = memEa s m 2 →
      Stores (.movesf b m) s e 2 (memDests m) bitS
        (fun t => movesKnown s b → mem16 t e.addr = limited16 s b
          ∧ srBit t 6 = (srBit s 6 || addsToS s b (limited16 s b))))
    ∧ (∀ b ea rn, ∀ e, e = eaMode s ea rn 4 →
      Stores (.moveslEa b ea rn) s e 4 (eaDests ea rn) bitS
        (fun t => movesKnown s b → mem32 t e.addr = limited32 s b
          ∧ srBit t 6 = (srBit s 6 || addsToS s b ((limited32 s b).extractLsb' 16 16))))
    ∧ (∀ p ea rn, ∀ e, e = eaMode s ea rn 4 →
      Stores (.moves2f p ea rn) s e 4 (eaDests ea rn) bitS
        (fun t => (movesKnown s (pairFst p) → mem16 t e.addr = limited16 s (pairFst p))
          ∧ (movesKnown s (pairSnd p) → mem16 t (e.addr + 2) = limited16 s (pairSnd p))
          ∧ (scalingDefined s → srBit t 6 = (srBit s 6 || addsToS s (pairFst p) (limited16 s (pairFst p))
            || addsToS s (pairSnd p) (limited16 s (pairSnd p))))))
    ∧ ∀ q ea rn, ∀ e, e = eaMode s ea rn 8 →
      Stores (.moves4f q ea rn) s e 8 (eaDests ea rn) bitS
        (fun t => (∀ k : Fin 4, movesKnown s (quadReg q k) →
            mem16 t (e.addr + BitVec.ofNat 32 (2 * k.val)) = limited16 s (quadReg q k))
          ∧ (scalingDefined s → (srBit t 6 = true ↔ srBit s 6 = true
            ∨ ∃ k : Fin 4, addsToS s (quadReg q k) (limited16 s (quadReg q k)) = true)))

/-- O39. MOVE.L to Dn.E of an even register takes bits 7:0 and bit 8 of the long, of an odd register bits 23:16 and bit 24, as
extension byte and limit tag, and keeps bits 31:0; MOVE.L Da.E:Db.E stores both at those places with zeros elsewhere. Each
completes at every state (with canonical memory) whose address is a multiple of 4, and changes nothing else. -/
def Obligations.ExtensionMoves : Prop :=
  ∀ s m (p : Pair), ∀ e, e = extEa s m →
    Loads (.movelExtEven m p) s e 4 [.d (pairFst p)] [] 0#32 (fun t => extIs s t (pairFst p) (mem32 s e.addr) 0)
    ∧ Loads (.movelExtOdd m p) s e 4 [.d (pairSnd p)] [] 0#32 (fun t => extIs s t (pairSnd p) (mem32 s e.addr) 16)
    ∧ Stores (.movelExtStore p m) s e 4 [] 0#32 (fun t => mem32 t e.addr =
        0#7 ++ (BitVec.ofBool (ltag s (pairSnd p)) ++ (dExt s (pairSnd p)
          ++ (0#7 ++ (BitVec.ofBool (ltag s (pairFst p)) ++ dExt s (pairFst p))))))

/-- O40. Every move, extension move, VSL move, MOVES store and bit-mask instruction, with every register and form, whose address is
not a multiple of its width, which the spec calls undefined, is refused by name, whatever else the state holds (log 19: the spec
asks the model to refuse). -/
def Obligations.MisalignedAccesses : Prop :=
  ∀ s,
    (∀ m, aligned (memEa s m 2).addr 2 = false → ∀ d c x b, ∀ i, i ∈
        ([.movewC4Mem d m c, .moveuwC4 m c, .movew d m x, .moveuw m x, .movefLoad m b, .movefStore b m, .movesf b m] :
          List Instr) →
        exec i s = .refused .misalignedAccess)
    ∧ (∀ rn d c, (aligned (eaMode s .plain rn 2).addr 2 = false → exec (.movewC3 d rn c) s = .refused .misalignedAccess)
        ∧ (aligned (eaMode s .plain rn 4).addr 4 = false → exec (.movelC3 d rn c) s = .refused .misalignedAccess))
    ∧ (∀ rn high,
        (aligned (eaMode s (.postN 0) rn 4).addr 4 = false → exec (.vsl2f high rn) s = .refused .misalignedAccess
          ∧ exec (.vsl2w high rn) s = .refused .misalignedAccess)
        ∧ (aligned (eaMode s (.postN 0) rn 8).addr 8 = false → exec (.vsl4f high rn) s = .refused .misalignedAccess
          ∧ exec (.vsl4w high rn) s = .refused .misalignedAccess))
    ∧ (∀ m, aligned (memEa s m 4).addr 4 = false → ∀ dr c d,
        exec (.movel d m dr) s = .refused .misalignedAccess ∧ exec (.movelC4Mem d m c) s = .refused .misalignedAccess)
    ∧ (∀ ea rn, aligned (eaMode s ea rn 4).addr 4 = false → ∀ p b d,
        exec (.move2f ea rn p) s = .refused .misalignedAccess ∧ exec (.move2w d ea rn p) s = .refused .misalignedAccess
        ∧ exec (.moves2f p ea rn) s = .refused .misalignedAccess ∧ exec (.moveslEa b ea rn) s = .refused .misalignedAccess)
    ∧ (∀ ea rn, aligned (eaMode s ea rn 8).addr 8 = false → ∀ p q d,
        exec (.move2l d ea rn p) s = .refused .misalignedAccess ∧ exec (.move4f ea rn q) s = .refused .misalignedAccess
        ∧ exec (.move4w d ea rn q) s = .refused .misalignedAccess ∧ exec (.moves4f q ea rn) s = .refused .misalignedAccess)
    ∧ (∀ m, aligned (extEa s m).addr 4 = false → ∀ p,
        exec (.movelExtEven m p) s = .refused .misalignedAccess ∧ exec (.movelExtOdd m p) s = .refused .misalignedAccess
        ∧ exec (.movelExtStore p m) s = .refused .misalignedAccess)
    ∧ ∀ m, aligned (bmuEa s m).addr 2 = false → ∀ u,
        exec (.andMem u m) s = .refused .misalignedAccess ∧ exec (.orMem u m) s = .refused .misalignedAccess
        ∧ exec (.eorMem u m) s = .refused .misalignedAccess ∧ exec (.notMem m) s = .refused .misalignedAccess
        ∧ exec (.movewImmMem u m) s = .refused .misalignedAccess ∧ exec (.bmsetMem u m) s = .refused .misalignedAccess
        ∧ exec (.bmclrMem u m) s = .refused .misalignedAccess ∧ exec (.bmchgMem u m) s = .refused .misalignedAccess
        ∧ exec (.bmtsetMem u m) s = .refused .misalignedAccess ∧ exec (.bmtstsMem u m) s = .refused .misalignedAccess
        ∧ exec (.bmtstcMem u m) s = .refused .misalignedAccess

/-- O41. After a store of a word or a long at an address, with canonical memory: in little-endian mode the byte at offset i is bits
8i+7..8i of the value, in big-endian mode byte i counts from the most significant end; reading the value back at that address
gives it; every other byte reads as before, and memory stays canonical. -/
def Obligations.BytesOfAStoredValue : Prop :=
  ∀ s a, s.mem.wf = true →
    (∀ v, SameMemBut a 2 s (put16 s a v) ∧ (put16 s a v).mem.wf = true ∧ mem16 (put16 s a v) a = v ∧ ∀ i, i < 2 →
      byteAt (put16 s a v) (a + BitVec.ofNat 32 i) = v.extractLsb' (if bigEndian s then 8 * (1 - i) else 8 * i) 8)
    ∧ ∀ v, SameMemBut a 4 s (put32 s a v) ∧ (put32 s a v).mem.wf = true ∧ mem32 (put32 s a v) a = v ∧ ∀ i, i < 4 →
      byteAt (put32 s a v) (a + BitVec.ofNat 32 i) = v.extractLsb' (if bigEndian s then 8 * (3 - i) else 8 * i) 8

/-- O42. PUSH De and PUSHN De store one long at the stack pointer, PUSH Do and PUSHN Do at the stack pointer plus 4, and add 8 to
it; POP and POPN read at 8 or 4 below it, write the register (data registers sign-extended with no limit tag; D.E and D.E:D.E
the extension bytes and tags) and subtract 8; PUSH and POP use the stack pointer that EXP selects before the instruction, PUSHN
and POPN use NSP; the shadow of the stack pointer used becomes valid (log 50), and RAS stays as it is (log 32). Each completes
at every state with legal stack pointers, legal SR and canonical memory, and changes no other register or flag and no other byte
of memory. (That a popped SR keeps only the implemented bits is the spec's decision D31, log 30: the model's choice, as logs 32
and 50 are.) -/
def Obligations.StackInstructions : Prop :=
  ∀ s, StacksAligned s → SrLegal s → s.mem.wf = true →
    ∀ N : State → Prop, N = (fun t => t.nspShadow = true ∧ t.espShadow = s.espShadow) →
    (∀ e, (Runs (.pushEven e) s fun t => AccessFrame [spDest s] 0#32 (spOf s) 4 true (shadowsOf s t) t ∧ ShadowIs true s t
          ∧ sameSp s t = spOf s + 8 ∧ (OutsideEonce s (spOf s) 4 → mem32 t (spOf s) = evenVal s e))
      ∧ (Runs (.pushnEven e) s fun t => AccessFrame [.nsp] 0#32 s.nsp 4 true (shadowsOf s t) t ∧ N t
          ∧ t.nsp = s.nsp + 8 ∧ (OutsideEonce s s.nsp 4 → mem32 t s.nsp = evenVal s e))
      ∧ (Runs (.popEven e) s fun t => AccessFrame (spDest s :: evenDests e) 0#32 (spOf s - 8) 4 false (shadowsOf s t) t
          ∧ ShadowIs true s t ∧ sameSp s t = spOf s - 8
          ∧ (OutsideEonce s (spOf s - 8) 4 → evenIs s t e (mem32 s (spOf s - 8))))
      ∧ Runs (.popnEven e) s fun t => AccessFrame (.nsp :: evenDests e) 0#32 (s.nsp - 8) 4 false (shadowsOf s t) t ∧ N t
          ∧ t.nsp = s.nsp - 8 ∧ (OutsideEonce s (s.nsp - 8) 4 → evenIs s t e (mem32 s (s.nsp - 8))))
    ∧ ∀ o, (Runs (.pushOdd o) s fun t => AccessFrame [spDest s] 0#32 (spOf s + 4) 4 true (shadowsOf s t) t ∧ ShadowIs true s t
          ∧ sameSp s t = spOf s + 8 ∧ (OutsideEonce s (spOf s + 4) 4 → mem32 t (spOf s + 4) = oddVal s o))
      ∧ (Runs (.pushnOdd o) s fun t => AccessFrame [.nsp] 0#32 (s.nsp + 4) 4 true (shadowsOf s t) t ∧ N t
          ∧ t.nsp = s.nsp + 8 ∧ (OutsideEonce s (s.nsp + 4) 4 → mem32 t (s.nsp + 4) = oddVal s o))
      ∧ (Runs (.popOdd o) s fun t => AccessFrame (spDest s :: oddDests o) (oddSr o) (spOf s - 4) 4 false (shadowsOf s t) t
          ∧ ShadowIs true s t ∧ sameSp s t = spOf s - 8
          ∧ (OutsideEonce s (spOf s - 4) 4 → oddIs s t o (mem32 s (spOf s - 4))))
      ∧ Runs (.popnOdd o) s fun t => AccessFrame (.nsp :: oddDests o) (oddSr o) (s.nsp - 4) 4 false (shadowsOf s t) t ∧ N t
          ∧ t.nsp = s.nsp - 8 ∧ (OutsideEonce s (s.nsp - 4) 4 → oddIs s t o (mem32 s (s.nsp - 4)))

/-- O43. BMCLR, BMSET, BMCHG, BMTSET and the AND, OR, EOR and NOT that are names of them change the named half of a data or address
register by the mask and keep the rest (a data register loses its limit tag); BMTSTC writes T to whether all selected bits are
clear, BMTSTS and BMTSET to whether all were set. Each completes at every state and changes nothing else. -/
def Obligations.BitMaskRegisters : Prop :=
  ∀ u h x s, ∀ p, p = portion (drLong s x) h →
    (Runs (.bmclrDr u h x) s fun t => Plain (drDests x) 0#32 s t ∧ PortionIs s t x h (p &&& ~~~u))
    ∧ (Runs (.bmsetDr u h x) s fun t => Plain (drDests x) 0#32 s t ∧ PortionIs s t x h (p ||| u))
    ∧ (Runs (.bmchgDr u h x) s fun t => Plain (drDests x) 0#32 s t ∧ PortionIs s t x h (p ^^^ u))
    ∧ (Runs (.andDr u h x) s fun t => Plain (drDests x) 0#32 s t ∧ PortionIs s t x h (p &&& u))
    ∧ (Runs (.orDr u h x) s fun t => Plain (drDests x) 0#32 s t ∧ PortionIs s t x h (p ||| u))
    ∧ (Runs (.eorDr u h x) s fun t => Plain (drDests x) 0#32 s t ∧ PortionIs s t x h (p ^^^ u))
    ∧ (Runs (.notDr h x) s fun t => Plain (drDests x) 0#32 s t ∧ PortionIs s t x h (~~~p))
    ∧ (Runs (.bmtsetDr u h x) s fun t => Plain (drDests x) bitT s t ∧ PortionIs s t x h (p ||| u)
        ∧ tBit t = decide (p &&& u = u))
    ∧ Runs (.bmtstcDr u h x) s (Tests (decide (p &&& u = 0#16)) s)
    ∧ Runs (.bmtstsDr u h x) s (Tests (decide (p &&& u = u)) s)

/-- O44. BMCLR, BMSET and BMCHG of a half of EMR, VBA, SR or MCTL complete at every state with legal SR and write the changed half
by the register's own rule (SR keeps the implemented bits, the spec's decision D31, log 30; a 1 written to a sticky bit of EMR
clears it, and the half of EMR that is not named is not written: log 47); BMTSTC and BMTSTS write T only. -/
def Obligations.BitMaskControlRegisters : Prop :=
  ∀ u h c s, SrLegal s → ∀ p, p = portion (c1Val s c) h →
    (Runs (.bmclrC1 u h c) s fun t => Control (c1Dests c) (c1Sr c) (c1Emr c) s t ∧ c1PortionIs s t c h (p &&& ~~~u))
    ∧ (Runs (.bmsetC1 u h c) s fun t => Control (c1Dests c) (c1Sr c) (c1Emr c) s t ∧ c1PortionIs s t c h (p ||| u))
    ∧ (Runs (.bmchgC1 u h c) s fun t => Control (c1Dests c) (c1Sr c) (c1Emr c) s t ∧ c1PortionIs s t c h (p ^^^ u))
    ∧ Runs (.bmtstcC1 u h c) s (Tests (decide (p &&& u = 0#16)) s)
    ∧ Runs (.bmtstsC1 u h c) s (Tests (decide (p &&& u = u)) s)

/-- O45. At a state with canonical memory and an even address: BMCLR.W, BMSET.W, BMCHG.W, BMTSET.W, AND.W, OR.W, EOR.W and NOT.W
complete, store the changed word (outside the EOnCE window) and change no other byte, no register and no flag but T for
BMTSET.W; BMTSTC.W and BMTSTS.W write T and store nothing. On one core the write of BMTSET.W always succeeds (the spec's
decision D18, log 48). -/
def Obligations.BitMaskMemory : Prop :=
  ∀ s, s.mem.wf = true → ∀ m u, ∀ a, a = (bmuEa s m).addr → aligned a 2 = true → ∀ W : Instr → (Word16 → Word16) → Prop,
    W = (fun i f => Runs i s fun t =>
      AccessFrame [] 0#32 a 2 true s t ∧ (OutsideEonce s a 2 → mem16 t a = f (mem16 s a))) →
    W (.bmclrMem u m) (fun p => p &&& ~~~u) ∧ W (.bmsetMem u m) (fun p => p ||| u) ∧ W (.bmchgMem u m) (fun p => p ^^^ u)
    ∧ W (.andMem u m) (fun p => p &&& u) ∧ W (.orMem u m) (fun p => p ||| u) ∧ W (.eorMem u m) (fun p => p ^^^ u)
    ∧ W (.notMem m) (fun p => ~~~p)
    ∧ (Runs (.bmtsetMem u m) s fun t => AccessFrame [] bitT a 2 true s t ∧ (OutsideEonce s a 2 →
        mem16 t a = mem16 s a ||| u ∧ tBit t = decide (mem16 s a &&& u = u)))
    ∧ (Runs (.bmtstcMem u m) s fun t => AccessFrame [] bitT a 2 false s t ∧
        (OutsideEonce s a 2 → tBit t = decide (mem16 s a &&& u = 0#16)))
    ∧ Runs (.bmtstsMem u m) s fun t => AccessFrame [] bitT a 2 false s t ∧
        (OutsideEonce s a 2 → tBit t = decide (mem16 s a &&& u = u))

/-- O46. BRA, BT, BF, JMP, JT and JF complete at every state and change only the address of the next set: the target (the set's
address plus twice the signed displacement, the 32-bit operand, or Rn, with bit 0 ignored) if taken, else the next set in
memory; BRAD, BTD, BFD, JMPD, JTD and JFD change only what is due at the end of the next set: a jump to the target if taken,
else nothing, the delay slot being open in either case. -/
def Obligations.BranchesAndJumps : Prop :=
  ∀ s,
    (∀ d, (Runs (.bra d) s (FlowsOnly (goal10 s d &&& 0xFFFFFFFE#32) s.delay s))
        ∧ Runs (.brad d) s (FlowsOnly s.npc (.jump (goal10 s d)) s))
    ∧ (∀ d, ∀ a, a = goal8 s d &&& 0xFFFFFFFE#32 →
      (Runs (.bt d) s (FlowsOnly (if tBit s then a else s.npc) s.delay s))
        ∧ (Runs (.bf d) s (FlowsOnly (if tBit s then s.npc else a) s.delay s))
        ∧ (Runs (.btd d) s (FlowsOnly s.npc (if tBit s then .jump (goal8 s d) else .fallthrough) s))
        ∧ Runs (.bfd d) s (FlowsOnly s.npc (if tBit s then .fallthrough else .jump (goal8 s d)) s))
    ∧ ∀ x g, ((∃ v, x = .abs v ∧ g = v) ∨ (∃ n, x = .reg n ∧ g = rreg s n)) → ∀ a, a = g &&& 0xFFFFFFFE#32 →
      (Runs (.jmp x) s (FlowsOnly a s.delay s)) ∧ (Runs (.jmpd x) s (FlowsOnly s.npc (.jump g) s))
        ∧ (Runs (.jt x) s (FlowsOnly (if tBit s then a else s.npc) s.delay s))
        ∧ (Runs (.jf x) s (FlowsOnly (if tBit s then s.npc else a) s.delay s))
        ∧ (Runs (.jtd x) s (FlowsOnly s.npc (if tBit s then .jump g else .fallthrough) s))
        ∧ Runs (.jfd x) s (FlowsOnly s.npc (if tBit s then .fallthrough else .jump g) s)

/-- O47. At a state with legal stack pointers and canonical memory, BSR and JSR complete: the return address (the next set) goes to
the active stack at its pointer and SR 4 bytes above, the pointer goes up by 8, RAS holds the return address and is valid, the
next set is the target, and nothing else changes; BSRD and JSRD open a delay slot at whose end the same call happens, and change
nothing else. (That a call leaves the valid bits of the shadow stack pointers is log 50: the model's choice.) -/
def Obligations.SubroutineCalls : Prop :=
  ∀ s, StacksAligned s → s.mem.wf = true →
    (∀ d, (Runs (.bsr d) s (Calls s.npc (goal8 s d) s)) ∧ Runs (.bsrd d) s (FlowsOnly s.npc (.call (goal8 s d)) s))
    ∧ ∀ x g, ((∃ v, x = .abs v ∧ g = v) ∨ (∃ n, x = .reg n ∧ g = rreg s n)) →
      (Runs (.jsr x) s (Calls s.npc g s)) ∧ Runs (.jsrd x) s (FlowsOnly s.npc (.call g) s)

/-- O48. At a state with legal stack pointers and legal SR: RTS goes to RAS if it is valid, else to the long 8 below the active
stack pointer; RTSTK always to that long, and clears NMID; RTE to that long, with SR from the long above it, and clears NMID;
each subtracts 8 from that stack pointer; RTS and RTSTK make RAS invalid, RTE leaves it. RTSD, RTSTKD and RTED read and drop the
frame at once and go there at the end of the delay slot, where RTED also restores SR and clears NMID (the spec's decision D30,
log 29: the model's choice). Nothing else changes. (That the SR restored keeps only the implemented bits is the spec's decision
D31, log 30, and that returns leave the valid bits of the shadow stack pointers is log 50: the model's choice.) -/
def Obligations.ReturnsFromSubroutinesAndExceptions : Prop :=
  ∀ s, StacksAligned s → SrLegal s → ∀ a, a = spOf s - 8 →
    (Runs .rts s fun t => Returns 0#32 0#32 s t ∧ t.delay = s.delay ∧ t.rasValid = false
      ∧ (s.rasValid = true → t.npc = s.ras &&& 0xFFFFFFFE#32 ∧ t.eonce = s.eonce)
      ∧ (s.rasValid = false → OutsideEonce s a 4 → t.npc = mem32 s a &&& 0xFFFFFFFE#32 ∧ t.eonce = s.eonce))
    ∧ (Runs .rtsd s fun t => Returns 0#32 0#32 s t ∧ t.npc = s.npc ∧ t.rasValid = false
      ∧ (s.rasValid = true → t.delay = .sub s.ras a ∧ t.eonce = s.eonce)
      ∧ (s.rasValid = false → OutsideEonce s a 4 → t.delay = .sub (mem32 s a) a ∧ t.eonce = s.eonce))
    ∧ (Runs .rtstk s fun t => Returns 0#32 8#32 s t ∧ t.delay = s.delay ∧ t.rasValid = false ∧ t.emr.getLsbD 3 = false
      ∧ (OutsideEonce s a 4 → t.npc = mem32 s a &&& 0xFFFFFFFE#32 ∧ t.eonce = s.eonce))
    ∧ (Runs .rtstkd s fun t => Returns 0#32 8#32 s t ∧ t.npc = s.npc ∧ t.rasValid = false ∧ t.emr.getLsbD 3 = false
      ∧ (OutsideEonce s a 4 → t.delay = .sub (mem32 s a) a ∧ t.eonce = s.eonce))
    ∧ (Runs .rte s fun t => Returns srMask 8#32 s t ∧ t.delay = s.delay ∧ SameRas s t ∧ t.emr.getLsbD 3 = false
      ∧ (OutsideEonce s a 8 → t.npc = mem32 s a &&& 0xFFFFFFFE#32 ∧ t.sr = mem32 s (spOf s - 4) &&& srMask
        ∧ t.eonce = s.eonce))
    ∧ Runs .rted s fun t => Returns 0#32 0#32 s t ∧ t.npc = s.npc ∧ SameRas s t
      ∧ (OutsideEonce s a 8 → t.delay = .ret (mem32 s a) (mem32 s (spOf s - 4)) a ∧ t.eonce = s.eonce)

/-- O49. At the end of a set with no loop jump pending, PC goes to the next set, or where the delayed change of flow due there says:
a jump goes to its target, a call pushes the return address (the set after the delay slot) and SR and goes to its target, a
return goes to its target if no access of the delay slot wrote its frame, and from an exception it then also restores SR (its
implemented bits: the spec's decision D31, log 30) and clears NMID (that this happens here, at the end of the delay slot, is the
spec's decision D30, log 29: the model's choice); if the delay slot wrote the frame, which the spec forbids, only the frame's
bytes, the target and SR are not constrained (log 27); if the delay slot takes a change of flow itself, or one is taken in the
set that a loop jump ends, which the spec forbids, PC, and what a call pushes, is not constrained (D53, log 26); no general
register changes at the end of a set. At the end of a set that is no delay slot, a loop jump that has more than one set left has
one set less and PC goes to the next set; one with a single set left happens: PC goes to its target and no jump is left; with
none pending none appears; and the counts of the sets in which marks are ignored, and of those in which no exception is taken,
go down by one. -/
def Obligations.SetEnds : Prop :=
  (∀ b s, s.loopJump = none → StacksAligned s → s.mem.wf = true → ∀ t, t = finish b s →
      (∀ n, dreg t n = dreg s n ∧ ltag t n = ltag s n ∧ rreg t n = rreg s n)
      ∧ (b.delay = .none ∨ b.delay = .fallthrough →
          t.pc = s.npc &&& 0xFFFFFFFE#32 ∧ t.sr = s.sr ∧ t.emr = s.emr ∧ t.nsp = s.nsp ∧ t.esp = s.esp ∧ SameMem s t)
      ∧ (∀ g, b.delay = .jump g →
          (s.flowed = false → t.pc = g &&& 0xFFFFFFFE#32) ∧ t.sr = s.sr ∧ t.emr = s.emr ∧ t.nsp = s.nsp ∧ t.esp = s.esp ∧ SameMem s t)
      ∧ (∀ g, b.delay = .call g → (s.flowed = false → t.pc = g &&& 0xFFFFFFFE#32 ∧ t.ras = s.npc) ∧ t.sr = s.sr
          ∧ spOf t = spOf s + 8 ∧ t.rasValid = true ∧ SameMemBut (spOf s) 8 s t
          ∧ (OutsideEonce s (spOf s) 8 → (s.flowed = false → mem32 t (spOf s) = s.npc) ∧ mem32 t (spOf s + 4) = s.sr))
      ∧ (∀ g f, b.delay = .sub g f → t.sr = s.sr ∧ t.emr = s.emr ∧ t.nsp = s.nsp ∧ t.esp = s.esp ∧ SameMemBut f 8 s t
          ∧ (FrameKept f s → (s.flowed = false → t.pc = g &&& 0xFFFFFFFE#32) ∧ SameMem s t))
      ∧ ∀ g v f, b.delay = .ret g v f → t.emr = s.emr &&& ~~~8#32 ∧ t.nsp = s.nsp ∧ t.esp = s.esp ∧ SameMemBut f 8 s t
          ∧ (FrameKept f s → (s.flowed = false → t.pc = g &&& 0xFFFFFFFE#32) ∧ t.sr = v &&& srMask ∧ SameMem s t))
    ∧ ∀ b s, b.delay = .none → ∀ t, t = finish b s →
      t.ignoreA = s.ignoreA - 1 ∧ t.ignoreB = s.ignoreB - 1 ∧ t.window = s.window - 1
      ∧ (s.loopJump = none → t.loopJump = none ∧ t.pc = s.npc &&& 0xFFFFFFFE#32)
      ∧ (∀ k g, s.loopJump = some ⟨k + 2, g⟩ → t.loopJump = some ⟨k + 1, g⟩ ∧ t.pc = s.npc &&& 0xFFFFFFFE#32)
      ∧ ∀ g, s.loopJump = some ⟨1, g⟩ → t.loopJump = none ∧ (s.flowed = false → t.pc = g &&& 0xFFFFFFFE#32)

/-- O50. At a state with legal stack pointers and canonical memory, TRAP completes by taking its exception: the frame (the next
set's address, SR) goes on the exception stack whatever mode was active, ESP goes up by 8, SR has the mask 7 and EXP set, SLF,
LF3..LF0, S1, S0, T and C clear and the rest kept, the next set is at VBA plus $000, and no register of a program changes. (That
RAS stays as it was is log 32, R540 and R544 against a word of R442, and that the shadow stack pointers' valid bits do is log
50: the model's choice.) -/
def Obligations.TrapTakesItsException : Prop :=
  ∀ s, StacksAligned s → s.mem.wf = true → Runs .trap s fun t =>
    t.npc = s.vba &&& 0xFFFFF000#32 ∧ EntryFrame s.npc s t ∧ EntrySr s t 7 ∧ EntryKeeps s t ∧ t.emr = s.emr
      ∧ t.delay = s.delay ∧ t.pc = s.pc

/-- O51. Entering any exception, and TRAP, changes no bit of SR but SLF, LF3..LF0, I2..I0, S1, S0, T, C and EXP (so OVE, DI,
VF3..VF0, S, RM, SM and the reserved bits keep their values), no data, address, modifier or loop register and no limit tag, and
no bit of EMR but NMID, which an NMI sets. (RAS, its valid bit and the valid bits of the shadow stack pointers stay too: log 32,
R540 and R544 against a word of R442, and log 50: the model's choice.) -/
def Obligations.ExceptionEntryKeeps : Prop :=
  ∀ s, (∀ k t, t = enter s k → EntryKeeps s t
        ∧ (∀ i, i ∉ [0, 1, 4, 5, 18, 21, 22, 23, 27, 28, 29, 30, 31] → i < 32 → t.sr.getLsbD i = s.sr.getLsbD i)
        ∧ t.emr = (if k = .nmi then s.emr ||| 8#32 else s.emr))
    ∧ Runs .trap s fun t => EntryKeeps s t
        ∧ (∀ i, i ∉ [0, 1, 4, 5, 18, 21, 22, 23, 27, 28, 29, 30, 31] → i < 32 → t.sr.getLsbD i = s.sr.getLsbD i)
        ∧ t.emr = s.emr

/-- O52. The request taken first is ILLEGAL, then DEBUG, then overflow, then an NMI that NMID does not block, then a maskable
interrupt whose level is above the mask with DI clear. At a state that executes with no event of the outside and no request for
debug state, with legal stack pointers and canonical memory, when an exception is pending and no delay slot, loop jump, entry
window or ignored mark is open, the step enters it: the frame (the next set's address, SR) goes on the exception stack, SR is as
entry leaves it with the mask 7, or the interrupt's level for a maskable one (the spec's decision D48), PC is VBA plus the
exception's offset (for an external one the offset on the bus unless AUTO_VEC asks for the default), its latch is cleared (that
of the debug exception unless the entry itself is an EOnCE event that requests it again), and the three sets that follow cannot
be interrupted. (That it is entered at the first such boundary is the spec's decision D49, log 12, that loop jumps and the sets
from a mark to LA are no such boundary is D50, log 34, and that RAS stays is log 32 and the valid bits of the shadow stack
pointers log 50: the model's choice.) -/
def Obligations.ExceptionsAreEntered : Prop :=
  (∀ s, (pending s = some .illegal ↔ s.reqIllegal = true)
      ∧ (pending s = some .debug ↔ s.reqIllegal = false ∧ s.reqDebug = true)
      ∧ (pending s = some .overflow ↔ s.reqIllegal = false ∧ s.reqDebug = false ∧ s.reqOverflow = true)
      ∧ (s.reqIllegal = false → s.reqDebug = false → s.reqOverflow = false →
        (pending s = some .nmi ↔ s.inputs.nmiReq = true ∧ s.emr.getLsbD 3 = false)
        ∧ (pending s = some .maskable ↔ ¬(s.inputs.nmiReq = true ∧ s.emr.getLsbD 3 = false)
            ∧ s.inputs.ireq = true ∧ intMask s < s.inputs.ipl.toNat ∧ s.sr.getLsbD 19 = false)))
    ∧ ∀ s k, s.events = [] → s.proc = .execution → s.eonce.dbgReq = false → pending s = some k →
    s.delay = .none → s.loopJump = none → s.window = 0 → s.ignoreA = 0 → StacksAligned s → s.mem.wf = true →
    ∃ t, step s = .next t ∧ EntryFrame s.pc s t ∧ EntryKeeps s t ∧ t.window = 3 ∧ t.proc = .execution
      ∧ (∀ x, x = s.vba &&& 0xFFFFF000#32 → ∀ bus, bus = (0#20 ++ (s.inputs.offset ++ 0#6)) →
        (k = .illegal → t.pc = x ||| 0x080#32 ∧ EntrySr s t 7 ∧ t.reqIllegal = false)
        ∧ (k = .debug → t.pc = x ||| 0x0C0#32 ∧ EntrySr s t 7 ∧ (EntryUnwatched s → t.reqDebug = false))
        ∧ (k = .overflow → t.pc = x ||| 0x100#32 ∧ EntrySr s t 7 ∧ t.reqOverflow = false)
        ∧ (k = .nmi → t.pc = x ||| (if s.inputs.autoVec then 0x180#32 else bus) ∧ EntrySr s t 7 ∧ t.emr.getLsbD 3 = true)
        ∧ (k = .maskable → t.pc = x ||| (if s.inputs.autoVec then 0x1C0#32 else bus)
          ∧ EntrySr s t s.inputs.ipl.toNat))

/-- O53. Whatever the state (with legal stack pointers, legal SR and canonical memory, the exception stack outside the EOnCE
window), whatever the vector, the level and the return address: after taking the exception, RTE completes and gives back SR,
both stack pointers and every register, goes to the return address, leaves EMR as it was but for NMID cleared, and leaves every
byte of memory as it was but for the eight of the frame. (That RAS stays over entry and return is log 32, and that the valid
bits of the shadow stack pointers do is log 50: the model's choice.) -/
def Obligations.ReturnUndoesEntry : Prop :=
  ∀ s off lvl ret, StacksAligned s → SrLegal s → s.mem.wf = true → OutsideEonce s s.esp 8 →
    Runs .rte (takeException s off lvl ret) fun t =>
      t.npc = ret &&& 0xFFFFFFFE#32 ∧ Untouched [] 0#32 8#32 s t ∧ t.emr.getLsbD 3 = false ∧ SameMemBut s.esp 8 s t
        ∧ t.proc = s.proc ∧ t.delay = s.delay ∧ SameRas s t ∧ t.eonce = s.eonce

/-- O54. DOSETUPn writes SAn with the set's address plus the displacement; DOENn and DOENSHn write LCn with the count (zero-
extended, or bits 31:0 of the register) and set LFn (and SLF); with n the active loop, the enabled one of highest number: BREAK
goes to its target and clears LFn, SKIPLS does so only if the signed count is not positive, CONT goes to SAn with the count one
lower if the signed count is above 1, else to its target with count and LFn cleared, CONTD likewise at the end of a delay slot.
Each completes at every such state and changes nothing else; with no loop enabled, where the spec calls BREAK, CONT, CONTD and
SKIPLS undefined, each faults by name (log 51). -/
def Obligations.LoopInstructions : Prop :=
  ∀ s,
    (∀ l d, Runs (.dosetup l d) s fun t => Plain [.sa l] 0#32 s t ∧ saReg t l = s.pc + offsetOf2 d)
    ∧ (∀ l c v, ((∃ u, c = .u6 u ∧ v = BitVec.ofNat 32 u.toNat) ∨ (∃ u, c = .u16 u ∧ v = BitVec.ofNat 32 u.toNat)
          ∨ ∃ x, c = .reg x ∧ v = drLong s x) →
        (Runs (.doen l c) s fun t => Plain [.lc l] (bitLf l) s t ∧ lcReg t l = v ∧ loopFlag t l = true)
        ∧ Runs (.doensh l c) s fun t => Plain [.lc l] (bitLf l ||| bitSlf) s t ∧ lcReg t l = v ∧ loopFlag t l = true
            ∧ shortLoop t = true)
    ∧ (∀ n d, ActiveLoop s n → ∀ g a, g = s.pc + offsetOf2 d → a = g &&& 0xFFFFFFFE#32 →
        (Runs (.break_ d) s fun t => Flows a s.delay [] (bitLf n) 0#32 s t ∧ loopFlag t n = false ∧ SameRas s t ∧ SameMem s t)
        ∧ ((lcReg s n).toInt ≤ 0 → Runs (.skipls d) s fun t =>
            Flows a s.delay [] (bitLf n) 0#32 s t ∧ loopFlag t n = false ∧ SameRas s t ∧ SameMem s t)
        ∧ (0 < (lcReg s n).toInt → exec (.skipls d) s = .next s)
        ∧ (1 < (lcReg s n).toInt →
            (Runs (.cont d) s fun t => Flows (saReg s n &&& 0xFFFFFFFE#32) s.delay [.lc n] 0#32 0#32 s t
              ∧ lcReg t n = lcReg s n - 1#32 ∧ SameRas s t ∧ SameMem s t)
            ∧ Runs (.contd d) s fun t => Flows s.npc (.jump (saReg s n)) [.lc n] 0#32 0#32 s t
              ∧ lcReg t n = lcReg s n - 1#32 ∧ SameRas s t ∧ SameMem s t)
        ∧ ((lcReg s n).toInt ≤ 1 →
            (Runs (.cont d) s fun t => Flows a s.delay [.lc n] (bitLf n) 0#32 s t
              ∧ lcReg t n = 0#32 ∧ loopFlag t n = false ∧ SameRas s t ∧ SameMem s t)
            ∧ Runs (.contd d) s fun t => Flows s.npc (.jump g) [.lc n] (bitLf n) 0#32 s t
              ∧ lcReg t n = 0#32 ∧ loopFlag t n = false ∧ SameRas s t ∧ SameMem s t))
    ∧ ∀ d, (∀ n, loopFlag s n = false) → exec (.break_ d) s = .fault .noActiveLoop ∧ exec (.skipls d) s = .fault .noActiveLoop
        ∧ exec (.cont d) s = .fault .noActiveLoop ∧ exec (.contd d) s = .fault .noActiveLoop

/-- O55. With n the active loop: LPMARKA (when not ignored) repeats the loop if the signed count is above 1, going to SAn, or in a
short loop to the marked set itself, with the count one lower, else it clears the count, LFn and SLF and falls through; LPMARKB
(when not ignored) repeats by a jump that happens at the end of the third set from the marked one, or in a short loop of the
second, and otherwise ends the loop likewise (SLF stays in a long loop). While its jump is pending LPMARKB makes every mark of
the sets up to the jump ignored, the marked set counted; where it ends a long loop, every LPMARKA of the marked set and the two
after it but no LPMARKB; where it ends a short loop, none, but no exception is taken before the next set (R659). LPMARKA makes
none ignored. An ignored mark, and a mark with no loop enabled (decision D54), changes nothing. Each completes at every state.
(That the windows count the marked set as their first is log 35: the model's choice.) -/
def Obligations.LoopMarks : Prop :=
  ∀ s,
    (∀ aaa, s.ignoreA ≠ 0 ∨ (∀ n, loopFlag s n = false) → exec (.lpmarka aaa) s = .next s)
    ∧ (∀ aaa, s.ignoreB ≠ 0 ∨ (∀ n, loopFlag s n = false) → exec (.lpmarkb aaa) s = .next s)
    ∧ ∀ n, ActiveLoop s n → ∀ E : State → Prop,
      E = (fun t => lcReg t n = 0#32 ∧ loopFlag t n = false ∧ SameRas s t ∧ SameMem s t) →
      ∀ K : State → Prop, K = (fun t => lcReg t n = lcReg s n - 1#32 ∧ SameRas s t ∧ SameMem s t) →
      (∀ aaa, s.ignoreA = 0 →
        (1 < (lcReg s n).toInt → Runs (.lpmarka aaa) s fun t => K t ∧
          Flows ((if s.sr.getLsbD 31 then s.pc else saReg s n) &&& 0xFFFFFFFE#32) s.delay [.lc n] 0#32 0#32 s t)
        ∧ ((lcReg s n).toInt ≤ 1 → Runs (.lpmarka aaa) s fun t => E t ∧ shortLoop t = false ∧
          Flows s.npc s.delay [.lc n] (bitLf n ||| bitSlf) 0#32 s t))
      ∧ ∀ aaa, s.ignoreB = 0 →
        (1 < (lcReg s n).toInt → Runs (.lpmarkb aaa) s fun t => K t ∧ Untouched [.lc n] 0#32 0#32 s t ∧ SameFlow s t
          ∧ t.loopJump = some (if s.sr.getLsbD 31 then ⟨2, s.pc⟩ else ⟨3, saReg s n⟩)
          ∧ t.ignoreA = (if s.sr.getLsbD 31 then 2 else 3) ∧ t.ignoreB = t.ignoreA ∧ t.window = s.window)
        ∧ ((lcReg s n).toInt ≤ 1 → Runs (.lpmarkb aaa) s fun t => E t ∧ t.loopJump = s.loopJump ∧ SameFlow s t
          ∧ Untouched [.lc n] (if s.sr.getLsbD 31 then bitLf n ||| bitSlf else bitLf n) 0#32 s t
          ∧ t.ignoreA = (if s.sr.getLsbD 31 then s.ignoreA else 3) ∧ t.ignoreB = 0
          ∧ t.window = (if s.sr.getLsbD 31 then max s.window 2 else s.window)
          ∧ (s.sr.getLsbD 31 = true → shortLoop t = false))

/-- O56. Each completes at every state: DI and EI set and clear SR.DI and nothing else; NOP changes nothing; STOP and WAIT enter
their processing state and change nothing else; ILLEGAL sets EMR.ILIN and requests its exception; DEBUG enters debug state with
its reason in ESR, or with IME set requests the debug exception (the off-core interrupt with PICINT); DEBUGEV raises an EOnCE
event if the EOnCE is enabled and changes nothing otherwise; MARK writes PC to the trace buffer if TEN and TMARK are set in an
enabled EOnCE and changes nothing otherwise. None of them changes a register, a byte of memory or the flow. (That DEBUG acts
whether or not the EOnCE is enabled is the spec's decision D45, that EMR has no SDD bit to stop it is D47, and how the trace
buffer's pointer wraps and its size is log 20: the model's choice.) -/
def Obligations.ProgramControl : Prop :=
  ∀ s,
    (Runs .di s fun t => Plain [] 0x00080000#32 s t ∧ disInt t = true)
    ∧ (Runs .ei s fun t => Plain [] 0x00080000#32 s t ∧ disInt t = false)
    ∧ exec .nop s = .next s ∧ exec .stop s = .next { s with proc := .stop } ∧ exec .wait s = .next { s with proc := .wait }
    ∧ (∀ c, Runs (.illegal c) s fun t => Untouched [] 0#32 1#32 s t ∧ t.emr.getLsbD 0 = true ∧ t.reqIllegal = true
        ∧ SameFlow s t ∧ SameRas s t ∧ SameMem s t ∧ t.pc = s.pc ∧ t.proc = s.proc)
    ∧ (Runs .debug s fun t => Untouched [] 0#32 0#32 s t ∧ SameFlow s t ∧ SameRas s t ∧ SameMem s t ∧ t.pc = s.pc
        ∧ (s.eonce.emcr.getLsbD 16 = false → t.proc = .debug ∧ t.reqDebug = s.reqDebug
          ∧ t.eonce.esr = s.eonce.esr ||| 0x8000#32)
        ∧ (s.eonce.emcr.getLsbD 16 = true → t.proc = s.proc ∧
          (s.eonce.emcr.getLsbD 25 = false → t.reqDebug = true ∧ t.eonce.esr = s.eonce.esr ||| 0x8000#32
            ∧ t.eonce.emcr = s.eonce.emcr ||| 0x8000#32)
          ∧ (s.eonce.emcr.getLsbD 25 = true → t.reqDebug = s.reqDebug ∧ t.eonce.picint = true)))
    ∧ (s.eonce.enabled = false → exec .debugev s = .next s)
    ∧ (s.eonce.enabled = true → Runs .debugev s fun t =>
        t = { s with eonce := { s.eonce with evs := t.eonce.evs } } ∧ t.eonce.evs = s.eonce.evs ||| 0x400#18)
    ∧ ((s.eonce.enabled && s.eonce.tbCtrl.getLsbD 4 && s.eonce.tbCtrl.getLsbD 3) = false → exec .mark s = .next s)
    ∧ ((s.eonce.enabled && s.eonce.tbCtrl.getLsbD 4 && s.eonce.tbCtrl.getLsbD 3) = true → s.eonce.tbWr.toNat < s.params.tbSize →
        s.params.tbSize ≤ 2048 → Runs .mark s fun t => Untouched [] 0#32 0#32 s t ∧ SameFlow s t ∧ SameMem s t
          ∧ t.eonce.tb[s.eonce.tbWr.toNat]? = some s.pc
          ∧ t.eonce.tbWr.toNat = (if s.eonce.tbWr.toNat + 1 < s.params.tbSize then s.eonce.tbWr.toNat + 1 else 0))

/-- O57. IFA, IFT and IFF, and a prefix word with no mark and an assigned condition code, complete at every state and change only
the condition of their set; a prefix word with LPMARKA or LPMARKB alone acts as the mark under that condition; with both marks
it completes: while the inner loop's count is above 1 LPMARKA acts and LPMARKB is ignored, else LPMARKA ends the inner loop and
LPMARKB acts on the loop that is then active; an ignored LPMARKA leaves LPMARKB to act, and with no loop enabled neither acts
(the spec's decision D54, log 36: the model's choice). A prefix word whose condition code is reserved, or a two-word one whose
length field is 0 or 1, is an illegal instruction: EMR.ILIN is set and its exception requested (the spec's decision D43, log 18:
the model's choice). -/
def Obligations.PrefixInstructions : Prop :=
  ∀ s aaa,
    exec (.ifa aaa) s = .next { s with ifc := 0#3 } ∧ exec (.ift aaa) s = .next { s with ifc := 2#3 }
    ∧ exec (.iff aaa) s = .next { s with ifc := 3#3 }
    ∧ (∀ c, c ≠ 4#3 → c ≠ 5#3 →
        exec (.prefix1 aaa false false c) s = .next { s with ifc := c }
        ∧ exec (.prefix1 aaa false true c) s = exec (.lpmarka aaa) { s with ifc := c }
        ∧ exec (.prefix1 aaa true false c) s = exec (.lpmarkb aaa) { s with ifc := c }
        ∧ (Runs (.prefix1 aaa true true c) s fun t => t.ifc = c ∧ SameMem s t)
        ∧ (aaa ≠ 0#3 → aaa ≠ 1#3 → ∀ hb,
          exec (.prefix2 aaa hb false false c) s = .next { s with ifc := c }
          ∧ exec (.prefix2 aaa hb false true c) s = exec (.lpmarka aaa) { s with ifc := c }
          ∧ exec (.prefix2 aaa hb true false c) s = exec (.lpmarkb aaa) { s with ifc := c }
          ∧ Runs (.prefix2 aaa hb true true c) s fun t => t.ifc = c ∧ SameMem s t))
    ∧ (∀ c hb, c ≠ 4#3 → c ≠ 5#3 → ∀ i, i = .prefix1 aaa true true c ∨ i = .prefix2 aaa hb true true c ∧ aaa ≠ 0#3 ∧ aaa ≠ 1#3 →
        ∀ b, b = { s with ifc := c } →
        (∀ n, ActiveLoop s n → s.ignoreA = 0 →
          (1 < (lcReg s n).toInt → exec i s = exec (.lpmarka aaa) b)
          ∧ ((lcReg s n).toInt ≤ 1 → ∃ t, exec (.lpmarka aaa) b = .next t ∧ loopFlag t n = false ∧ exec i s = exec (.lpmarkb aaa) t))
        ∧ (s.ignoreA ≠ 0 → exec i s = exec (.lpmarkb aaa) b) ∧ ((∀ n, loopFlag s n = false) → exec i s = .next b))
    ∧ ∀ c p j hb i, i = .prefix1 aaa p j c ∧ (c = 4#3 ∨ c = 5#3)
          ∨ i = .prefix2 aaa hb p j c ∧ (c = 4#3 ∨ c = 5#3 ∨ aaa = 0#3 ∨ aaa = 1#3) →
        Runs i s fun t => Untouched [] 0#32 1#32 s t ∧ t.emr.getLsbD 0 = true ∧ t.reqIllegal = true ∧ SameMem s t

/-- O58. In the Wait state with no event of the outside and no request for debug state, a step leaves it exactly if an internal
exception is pending, NMI_REQ is asserted, or a maskable interrupt's level is above the mask, even one that DI blocks; it then
executes, the exception being entered at once if it can be. In the Stop state only wake_from_stop, a debug request or reset ends
it: a step with no such event changes nothing, and wake_from_stop changes nothing but the state. (That a pending internal
exception ends Wait is what R562 derives, what does not end Stop is log 53, and that RAS and the valid bits of the shadow stack
pointers stay at the entry from Wait is logs 32 and 50: the model's choice.) -/
def Obligations.WaitAndStopStates : Prop :=
  ∀ s, s.eonce.dbgReq = false →
    (s.events = [] → s.proc = .wait → ∀ w, w = (s.reqIllegal || s.reqDebug || s.reqOverflow || s.inputs.nmiReq
        || (s.inputs.ireq && decide (intMask s < s.inputs.ipl.toNat))) →
      (w = false → step s = .next s)
      ∧ (w = true → ∃ t, step s = .next t ∧ t.proc = .execution
        ∧ (pending s = none → t = { s with proc := .execution })
        ∧ (pending s ≠ none → interruptible s = true → t.window = 3 ∧ EntryKeeps s t)))
    ∧ (s.events = [] → s.proc = .stop → s.reqDebug = false → step s = .next s)
    ∧ ∀ rest, s.events = .wakeFromStop :: rest → s.proc = .stop →
        step s = .next { s with events := rest, proc := .execution }

/-- O59. Two instructions of one set both read the state before it: two TFRs swap two different registers; of two additions to two
different registers each gets its own sum (without saturation modulo 2^40) and C is that of the later one in the set. A set with
an illegal word, with words that break the rules on a set's length or types, or with a grouping error executes nothing: at a
state with nothing of the outside and no exception to handle the step sets EMR.ILIN for an illegal word and EMR.ILST for the
other errors (both if there are both), requests the exception, changes no register, no other status bit and no byte of memory,
and goes on after the set. A word with no row of the opcode table is illegal, and so is an ISAP opcode; two DALU instructions at
positions equal modulo 4, or two AGU instructions at positions equal modulo 2, are a grouping error. (What such a set does and
which bit it sets is the spec's decision D43, log 18, and which grouping errors are detected is log 25: the model's choice.) -/
def Obligations.ResultsOfOneSetComeTogether : Prop :=
  (∀ s, s.acc = [] →
    (∀ a b w v, a ≠ b → ∃ t, runSlots s [⟨0, .tfr a b, 1, w⟩, ⟨1, .tfr b a, 1, v⟩] = .next t
      ∧ dreg t b = dreg s a ∧ dreg t a = dreg s b ∧ SameMem s t ∧ ∀ n, n ≠ a → n ≠ b → dreg t n = dreg s n)
    ∧ ∀ a b n c d m w v, n ≠ m → satMode s = false →
      ∃ t, runSlots s [⟨0, .addReg a b n, 1, w⟩, ⟨1, .addReg c d m, 1, v⟩] = .next t
        ∧ (dreg t n).toInt = (sD s a + sD s b).bmod (2 ^ 40) ∧ (dreg t m).toInt = (sD s c + sD s d).bmod (2 ^ 40)
        ∧ carry t = decide (2 ^ 40 ≤ uD s c + uD s d) ∧ ∀ k, k ≠ n → k ≠ m → dreg t k = dreg s k)
    ∧ (∀ s x m bad, Quiet s → x = decodeSet s (fetchWords s) → prefixEffect (begin s x.len) x.pre = .next m →
      bad = (x.ilst || !groupOk (begin s x.len) m.ifc x.slots) → (x.ilin || bad) = true →
      ∃ t, step s = .next t ∧ t.reqIllegal = true ∧ t.emr.getLsbD 0 = (s.emr.getLsbD 0 || x.ilin)
        ∧ t.emr.getLsbD 1 = (s.emr.getLsbD 1 || bad)
        ∧ (s.delay = .none → s.loopJump = none → Untouched [] 0#32 3#32 s t ∧ SameMem s t ∧ SameRas s t
          ∧ t.pc = (s.pc + BitVec.ofNat 32 (2 * x.len)) &&& 0xFFFFFFFE#32 ∧ t.delay = .none))
    ∧ (∀ s w rest, fetchWords s = w :: rest → top2 w ≠ 0 → isPrefix1 w = false → decodeAt Bank.zero [w] = none →
      (decodeSet s (fetchWords s)).ilin = true ∧ (decodeSet s (fetchWords s)).len = 1)
    ∧ (∀ s w rest, fetchWords s = w :: rest → isPrefix1 w = true → isPrefix1 (rest.headD 0) = false →
      isapWord (rest.take (w / 2 ^ 9 % 8)) = true → (decodeSet s (fetchWords s)).ilin = true)
    ∧ ∀ s c pre x mid y post, (effects s x.instr).dalu = (effects s y.instr).dalu →
      x.pos % (if (effects s x.instr).dalu then 4 else 2) = y.pos % (if (effects s x.instr).dalu then 4 else 2) →
      groupOk s c (pre ++ x :: (mid ++ y :: post)) = false

/-- O60. With the EOnCE window at a multiple of 4: MOVE.L from the low half of ERCV reads it and changes no status; MOVE.L from the
high half reads it and clears RCV in ESR; MOVE.L to the low half of ETRSMT writes it; MOVE.L to the high half writes it and sets
TRSMT; a write enables the EOnCE; memory does not change. -/
def Obligations.EonceReceiveAndTransmit : Prop :=
  ∀ s, ∀ b, b = s.params.eonceBase → b.toNat % 4 = 0 → ∀ n : RReg,
    (Runs (.movel .read (.abs32 (b + 8#32)) (.r n)) s fun t =>
        rreg t n = s.eonce.ercv.extractLsb' 0 32 ∧ t.eonce = s.eonce ∧ SameMem s t)
    ∧ (Runs (.movel .read (.abs32 (b + 12#32)) (.r n)) s fun t =>
        rreg t n = s.eonce.ercv.extractLsb' 32 32 ∧ t.eonce = { s.eonce with esr := t.eonce.esr }
          ∧ t.eonce.esr = s.eonce.esr &&& ~~~0x08000000#32 ∧ SameMem s t)
    ∧ (Runs (.movel .write (.abs32 (b + 16#32)) (.r n)) s fun t =>
        t.eonce.etrsmt = s.eonce.etrsmt.extractLsb' 32 32 ++ rreg s n ∧ t.eonce.esr = s.eonce.esr
          ∧ t.eonce.enabled = true ∧ SameMem s t)
    ∧ Runs (.movel .write (.abs32 (b + 20#32)) (.r n)) s fun t =>
        t.eonce.etrsmt = rreg s n ++ s.eonce.etrsmt.extractLsb' 0 32 ∧ t.eonce.esr = s.eonce.esr ||| 0x04000000#32
          ∧ t.eonce.enabled = true ∧ SameMem s t
end

