-- ==== Sys2Proof/Laws/State.lean ====
section
/-! SUPPORT. One lemma per field per update of the state, and what every accessor reads after every update. -/

namespace Sys2Proof.Machine

/-! ### setSrBit -/

@[simp] theorem setSrBit_d (s : State) (i : Nat) (b : Bool) : (setSrBit s i b).d = s.d := rfl
@[simp] theorem setSrBit_l (s : State) (i : Nat) (b : Bool) : (setSrBit s i b).l = s.l := rfl
@[simp] theorem setSrBit_r (s : State) (i : Nat) (b : Bool) : (setSrBit s i b).r = s.r := rfl
@[simp] theorem setSrBit_n (s : State) (i : Nat) (b : Bool) : (setSrBit s i b).n = s.n := rfl
@[simp] theorem setSrBit_m (s : State) (i : Nat) (b : Bool) : (setSrBit s i b).m = s.m := rfl
@[simp] theorem setSrBit_mctl (s : State) (i : Nat) (b : Bool) : (setSrBit s i b).mctl = s.mctl := rfl
@[simp] theorem setSrBit_nsp (s : State) (i : Nat) (b : Bool) : (setSrBit s i b).nsp = s.nsp := rfl
@[simp] theorem setSrBit_esp (s : State) (i : Nat) (b : Bool) : (setSrBit s i b).esp = s.esp := rfl
@[simp] theorem setSrBit_pc (s : State) (i : Nat) (b : Bool) : (setSrBit s i b).pc = s.pc := rfl
@[simp] theorem setSrBit_npc (s : State) (i : Nat) (b : Bool) : (setSrBit s i b).npc = s.npc := rfl
@[simp] theorem setSrBit_sr (s : State) (i : Nat) (b : Bool) : (setSrBit s i b).sr = withBit s.sr i b := rfl
@[simp] theorem setSrBit_emr (s : State) (i : Nat) (b : Bool) : (setSrBit s i b).emr = s.emr := rfl
@[simp] theorem setSrBit_vba (s : State) (i : Nat) (b : Bool) : (setSrBit s i b).vba = s.vba := rfl
@[simp] theorem setSrBit_sa (s : State) (i : Nat) (b : Bool) : (setSrBit s i b).sa = s.sa := rfl
@[simp] theorem setSrBit_lc (s : State) (i : Nat) (b : Bool) : (setSrBit s i b).lc = s.lc := rfl
@[simp] theorem setSrBit_mem (s : State) (i : Nat) (b : Bool) : (setSrBit s i b).mem = s.mem := rfl
@[simp] theorem setSrBit_proc (s : State) (i : Nat) (b : Bool) : (setSrBit s i b).proc = s.proc := rfl
@[simp] theorem setSrBit_ras (s : State) (i : Nat) (b : Bool) : (setSrBit s i b).ras = s.ras := rfl
@[simp] theorem setSrBit_rasValid (s : State) (i : Nat) (b : Bool) : (setSrBit s i b).rasValid = s.rasValid := rfl
@[simp] theorem setSrBit_nspShadow (s : State) (i : Nat) (b : Bool) : (setSrBit s i b).nspShadow = s.nspShadow := rfl
@[simp] theorem setSrBit_espShadow (s : State) (i : Nat) (b : Bool) : (setSrBit s i b).espShadow = s.espShadow := rfl
@[simp] theorem setSrBit_reqIllegal (s : State) (i : Nat) (b : Bool) : (setSrBit s i b).reqIllegal = s.reqIllegal := rfl
@[simp] theorem setSrBit_reqOverflow (s : State) (i : Nat) (b : Bool) : (setSrBit s i b).reqOverflow = s.reqOverflow := rfl
@[simp] theorem setSrBit_reqDebug (s : State) (i : Nat) (b : Bool) : (setSrBit s i b).reqDebug = s.reqDebug := rfl
@[simp] theorem setSrBit_window (s : State) (i : Nat) (b : Bool) : (setSrBit s i b).window = s.window := rfl
@[simp] theorem setSrBit_delay (s : State) (i : Nat) (b : Bool) : (setSrBit s i b).delay = s.delay := rfl
@[simp] theorem setSrBit_loopJump (s : State) (i : Nat) (b : Bool) : (setSrBit s i b).loopJump = s.loopJump := rfl
@[simp] theorem setSrBit_ignoreA (s : State) (i : Nat) (b : Bool) : (setSrBit s i b).ignoreA = s.ignoreA := rfl
@[simp] theorem setSrBit_ignoreB (s : State) (i : Nat) (b : Bool) : (setSrBit s i b).ignoreB = s.ignoreB := rfl
@[simp] theorem setSrBit_inputs (s : State) (i : Nat) (b : Bool) : (setSrBit s i b).inputs = s.inputs := rfl
@[simp] theorem setSrBit_events (s : State) (i : Nat) (b : Bool) : (setSrBit s i b).events = s.events := rfl
@[simp] theorem setSrBit_eonce (s : State) (i : Nat) (b : Bool) : (setSrBit s i b).eonce = s.eonce := rfl
@[simp] theorem setSrBit_params (s : State) (i : Nat) (b : Bool) : (setSrBit s i b).params = s.params := rfl
@[simp] theorem setSrBit_lastPc (s : State) (i : Nat) (b : Bool) : (setSrBit s i b).lastPc = s.lastPc := rfl
@[simp] theorem setSrBit_flowed (s : State) (i : Nat) (b : Bool) : (setSrBit s i b).flowed = s.flowed := rfl
@[simp] theorem setSrBit_ifc (s : State) (i : Nat) (b : Bool) : (setSrBit s i b).ifc = s.ifc := rfl
@[simp] theorem setSrBit_acc (s : State) (i : Nat) (b : Bool) : (setSrBit s i b).acc = s.acc := rfl
@[simp] theorem setSrBit_emrEv (s : State) (i : Nat) (b : Bool) : (setSrBit s i b).emrEv = s.emrEv := rfl
@[simp] theorem setSrBit_fresh (s : State) (i : Nat) (b : Bool) : (setSrBit s i b).fresh = s.fresh := rfl
@[simp] theorem dreg_setSrBit (s : State) (i : Nat) (b : Bool) (k' : DReg) : dreg (setSrBit s i b) k' = dreg s k' := rfl
@[simp] theorem ltag_setSrBit (s : State) (i : Nat) (b : Bool) (k' : DReg) : ltag (setSrBit s i b) k' = ltag s k' := rfl
@[simp] theorem rreg_setSrBit (s : State) (i : Nat) (b : Bool) (k' : RReg) : rreg (setSrBit s i b) k' = rreg s k' := rfl
@[simp] theorem nreg_setSrBit (s : State) (i : Nat) (b : Bool) (k' : Fin 4) : nreg (setSrBit s i b) k' = nreg s k' := rfl
@[simp] theorem mreg_setSrBit (s : State) (i : Nat) (b : Bool) (k' : Fin 4) : mreg (setSrBit s i b) k' = mreg s k' := rfl
@[simp] theorem saReg_setSrBit (s : State) (i : Nat) (b : Bool) (k' : LoopIx) : saReg (setSrBit s i b) k' = saReg s k' := rfl
@[simp] theorem lcReg_setSrBit (s : State) (i : Nat) (b : Bool) (k' : LoopIx) : lcReg (setSrBit s i b) k' = lcReg s k' := rfl
@[simp] theorem byteAt_setSrBit (s : State) (i : Nat) (b : Bool) (a' : Word) : byteAt (setSrBit s i b) a' = byteAt s a' := rfl
@[simp] theorem bigEndian_setSrBit (s : State) (i : Nat) (b : Bool) : bigEndian (setSrBit s i b) = bigEndian s := rfl

/-! ### writeSr -/

@[simp] theorem writeSr_d (s : State) (v : Word) : (writeSr s v).d = s.d := rfl
@[simp] theorem writeSr_l (s : State) (v : Word) : (writeSr s v).l = s.l := rfl
@[simp] theorem writeSr_r (s : State) (v : Word) : (writeSr s v).r = s.r := rfl
@[simp] theorem writeSr_n (s : State) (v : Word) : (writeSr s v).n = s.n := rfl
@[simp] theorem writeSr_m (s : State) (v : Word) : (writeSr s v).m = s.m := rfl
@[simp] theorem writeSr_mctl (s : State) (v : Word) : (writeSr s v).mctl = s.mctl := rfl
@[simp] theorem writeSr_nsp (s : State) (v : Word) : (writeSr s v).nsp = s.nsp := rfl
@[simp] theorem writeSr_esp (s : State) (v : Word) : (writeSr s v).esp = s.esp := rfl
@[simp] theorem writeSr_pc (s : State) (v : Word) : (writeSr s v).pc = s.pc := rfl
@[simp] theorem writeSr_npc (s : State) (v : Word) : (writeSr s v).npc = s.npc := rfl
@[simp] theorem writeSr_sr (s : State) (v : Word) : (writeSr s v).sr = v &&& srMask := rfl
@[simp] theorem writeSr_emr (s : State) (v : Word) : (writeSr s v).emr = s.emr := rfl
@[simp] theorem writeSr_vba (s : State) (v : Word) : (writeSr s v).vba = s.vba := rfl
@[simp] theorem writeSr_sa (s : State) (v : Word) : (writeSr s v).sa = s.sa := rfl
@[simp] theorem writeSr_lc (s : State) (v : Word) : (writeSr s v).lc = s.lc := rfl
@[simp] theorem writeSr_mem (s : State) (v : Word) : (writeSr s v).mem = s.mem := rfl
@[simp] theorem writeSr_proc (s : State) (v : Word) : (writeSr s v).proc = s.proc := rfl
@[simp] theorem writeSr_ras (s : State) (v : Word) : (writeSr s v).ras = s.ras := rfl
@[simp] theorem writeSr_rasValid (s : State) (v : Word) : (writeSr s v).rasValid = s.rasValid := rfl
@[simp] theorem writeSr_nspShadow (s : State) (v : Word) : (writeSr s v).nspShadow = s.nspShadow := rfl
@[simp] theorem writeSr_espShadow (s : State) (v : Word) : (writeSr s v).espShadow = s.espShadow := rfl
@[simp] theorem writeSr_reqIllegal (s : State) (v : Word) : (writeSr s v).reqIllegal = s.reqIllegal := rfl
@[simp] theorem writeSr_reqOverflow (s : State) (v : Word) : (writeSr s v).reqOverflow = s.reqOverflow := rfl
@[simp] theorem writeSr_reqDebug (s : State) (v : Word) : (writeSr s v).reqDebug = s.reqDebug := rfl
@[simp] theorem writeSr_window (s : State) (v : Word) : (writeSr s v).window = s.window := rfl
@[simp] theorem writeSr_delay (s : State) (v : Word) : (writeSr s v).delay = s.delay := rfl
@[simp] theorem writeSr_loopJump (s : State) (v : Word) : (writeSr s v).loopJump = s.loopJump := rfl
@[simp] theorem writeSr_ignoreA (s : State) (v : Word) : (writeSr s v).ignoreA = s.ignoreA := rfl
@[simp] theorem writeSr_ignoreB (s : State) (v : Word) : (writeSr s v).ignoreB = s.ignoreB := rfl
@[simp] theorem writeSr_inputs (s : State) (v : Word) : (writeSr s v).inputs = s.inputs := rfl
@[simp] theorem writeSr_events (s : State) (v : Word) : (writeSr s v).events = s.events := rfl
@[simp] theorem writeSr_eonce (s : State) (v : Word) : (writeSr s v).eonce = s.eonce := rfl
@[simp] theorem writeSr_params (s : State) (v : Word) : (writeSr s v).params = s.params := rfl
@[simp] theorem writeSr_lastPc (s : State) (v : Word) : (writeSr s v).lastPc = s.lastPc := rfl
@[simp] theorem writeSr_flowed (s : State) (v : Word) : (writeSr s v).flowed = s.flowed := rfl
@[simp] theorem writeSr_ifc (s : State) (v : Word) : (writeSr s v).ifc = s.ifc := rfl
@[simp] theorem writeSr_acc (s : State) (v : Word) : (writeSr s v).acc = s.acc := rfl
@[simp] theorem writeSr_emrEv (s : State) (v : Word) : (writeSr s v).emrEv = s.emrEv := rfl
@[simp] theorem writeSr_fresh (s : State) (v : Word) : (writeSr s v).fresh = s.fresh := rfl
@[simp] theorem dreg_writeSr (s : State) (v : Word) (k' : DReg) : dreg (writeSr s v) k' = dreg s k' := rfl
@[simp] theorem ltag_writeSr (s : State) (v : Word) (k' : DReg) : ltag (writeSr s v) k' = ltag s k' := rfl
@[simp] theorem rreg_writeSr (s : State) (v : Word) (k' : RReg) : rreg (writeSr s v) k' = rreg s k' := rfl
@[simp] theorem nreg_writeSr (s : State) (v : Word) (k' : Fin 4) : nreg (writeSr s v) k' = nreg s k' := rfl
@[simp] theorem mreg_writeSr (s : State) (v : Word) (k' : Fin 4) : mreg (writeSr s v) k' = mreg s k' := rfl
@[simp] theorem saReg_writeSr (s : State) (v : Word) (k' : LoopIx) : saReg (writeSr s v) k' = saReg s k' := rfl
@[simp] theorem lcReg_writeSr (s : State) (v : Word) (k' : LoopIx) : lcReg (writeSr s v) k' = lcReg s k' := rfl
@[simp] theorem byteAt_writeSr (s : State) (v : Word) (a' : Word) : byteAt (writeSr s v) a' = byteAt s a' := rfl
@[simp] theorem bigEndian_writeSr (s : State) (v : Word) : bigEndian (writeSr s v) = bigEndian s := rfl

/-! ### writeEmr -/

@[simp] theorem writeEmr_d (s : State) (v : Word) : (writeEmr s v).d = s.d := rfl
@[simp] theorem writeEmr_l (s : State) (v : Word) : (writeEmr s v).l = s.l := rfl
@[simp] theorem writeEmr_r (s : State) (v : Word) : (writeEmr s v).r = s.r := rfl
@[simp] theorem writeEmr_n (s : State) (v : Word) : (writeEmr s v).n = s.n := rfl
@[simp] theorem writeEmr_m (s : State) (v : Word) : (writeEmr s v).m = s.m := rfl
@[simp] theorem writeEmr_mctl (s : State) (v : Word) : (writeEmr s v).mctl = s.mctl := rfl
@[simp] theorem writeEmr_nsp (s : State) (v : Word) : (writeEmr s v).nsp = s.nsp := rfl
@[simp] theorem writeEmr_esp (s : State) (v : Word) : (writeEmr s v).esp = s.esp := rfl
@[simp] theorem writeEmr_pc (s : State) (v : Word) : (writeEmr s v).pc = s.pc := rfl
@[simp] theorem writeEmr_npc (s : State) (v : Word) : (writeEmr s v).npc = s.npc := rfl
@[simp] theorem writeEmr_sr (s : State) (v : Word) : (writeEmr s v).sr = s.sr := rfl
@[simp] theorem writeEmr_emr (s : State) (v : Word) : (writeEmr s v).emr = s.emr &&& ~~~(v &&& 0xF#32) := rfl
@[simp] theorem writeEmr_vba (s : State) (v : Word) : (writeEmr s v).vba = s.vba := rfl
@[simp] theorem writeEmr_sa (s : State) (v : Word) : (writeEmr s v).sa = s.sa := rfl
@[simp] theorem writeEmr_lc (s : State) (v : Word) : (writeEmr s v).lc = s.lc := rfl
@[simp] theorem writeEmr_mem (s : State) (v : Word) : (writeEmr s v).mem = s.mem := rfl
@[simp] theorem writeEmr_proc (s : State) (v : Word) : (writeEmr s v).proc = s.proc := rfl
@[simp] theorem writeEmr_ras (s : State) (v : Word) : (writeEmr s v).ras = s.ras := rfl
@[simp] theorem writeEmr_rasValid (s : State) (v : Word) : (writeEmr s v).rasValid = s.rasValid := rfl
@[simp] theorem writeEmr_nspShadow (s : State) (v : Word) : (writeEmr s v).nspShadow = s.nspShadow := rfl
@[simp] theorem writeEmr_espShadow (s : State) (v : Word) : (writeEmr s v).espShadow = s.espShadow := rfl
@[simp] theorem writeEmr_reqIllegal (s : State) (v : Word) : (writeEmr s v).reqIllegal = s.reqIllegal := rfl
@[simp] theorem writeEmr_reqOverflow (s : State) (v : Word) : (writeEmr s v).reqOverflow = s.reqOverflow := rfl
@[simp] theorem writeEmr_reqDebug (s : State) (v : Word) : (writeEmr s v).reqDebug = s.reqDebug := rfl
@[simp] theorem writeEmr_window (s : State) (v : Word) : (writeEmr s v).window = s.window := rfl
@[simp] theorem writeEmr_delay (s : State) (v : Word) : (writeEmr s v).delay = s.delay := rfl
@[simp] theorem writeEmr_loopJump (s : State) (v : Word) : (writeEmr s v).loopJump = s.loopJump := rfl
@[simp] theorem writeEmr_ignoreA (s : State) (v : Word) : (writeEmr s v).ignoreA = s.ignoreA := rfl
@[simp] theorem writeEmr_ignoreB (s : State) (v : Word) : (writeEmr s v).ignoreB = s.ignoreB := rfl
@[simp] theorem writeEmr_inputs (s : State) (v : Word) : (writeEmr s v).inputs = s.inputs := rfl
@[simp] theorem writeEmr_events (s : State) (v : Word) : (writeEmr s v).events = s.events := rfl
@[simp] theorem writeEmr_eonce (s : State) (v : Word) : (writeEmr s v).eonce = s.eonce := rfl
@[simp] theorem writeEmr_params (s : State) (v : Word) : (writeEmr s v).params = s.params := rfl
@[simp] theorem writeEmr_lastPc (s : State) (v : Word) : (writeEmr s v).lastPc = s.lastPc := rfl
@[simp] theorem writeEmr_flowed (s : State) (v : Word) : (writeEmr s v).flowed = s.flowed := rfl
@[simp] theorem writeEmr_ifc (s : State) (v : Word) : (writeEmr s v).ifc = s.ifc := rfl
@[simp] theorem writeEmr_acc (s : State) (v : Word) : (writeEmr s v).acc = s.acc := rfl
@[simp] theorem writeEmr_emrEv (s : State) (v : Word) : (writeEmr s v).emrEv = s.emrEv := rfl
@[simp] theorem writeEmr_fresh (s : State) (v : Word) : (writeEmr s v).fresh = s.fresh := rfl
@[simp] theorem dreg_writeEmr (s : State) (v : Word) (k' : DReg) : dreg (writeEmr s v) k' = dreg s k' := rfl
@[simp] theorem ltag_writeEmr (s : State) (v : Word) (k' : DReg) : ltag (writeEmr s v) k' = ltag s k' := rfl
@[simp] theorem rreg_writeEmr (s : State) (v : Word) (k' : RReg) : rreg (writeEmr s v) k' = rreg s k' := rfl
@[simp] theorem nreg_writeEmr (s : State) (v : Word) (k' : Fin 4) : nreg (writeEmr s v) k' = nreg s k' := rfl
@[simp] theorem mreg_writeEmr (s : State) (v : Word) (k' : Fin 4) : mreg (writeEmr s v) k' = mreg s k' := rfl
@[simp] theorem saReg_writeEmr (s : State) (v : Word) (k' : LoopIx) : saReg (writeEmr s v) k' = saReg s k' := rfl
@[simp] theorem lcReg_writeEmr (s : State) (v : Word) (k' : LoopIx) : lcReg (writeEmr s v) k' = lcReg s k' := rfl
@[simp] theorem byteAt_writeEmr (s : State) (v : Word) (a' : Word) : byteAt (writeEmr s v) a' = byteAt s a' := rfl
@[simp] theorem srBit_writeEmr (s : State) (v : Word) (i' : Nat) : srBit (writeEmr s v) i' = srBit s i' := rfl
@[simp] theorem spOf_writeEmr (s : State) (v : Word) : spOf (writeEmr s v) = spOf s := rfl
@[simp] theorem expMode_writeEmr (s : State) (v : Word) : expMode (writeEmr s v) = expMode s := rfl
@[simp] theorem satMode_writeEmr (s : State) (v : Word) : satMode (writeEmr s v) = satMode s := rfl
@[simp] theorem scaling_writeEmr (s : State) (v : Word) : scaling (writeEmr s v) = scaling s := rfl
@[simp] theorem carry_writeEmr (s : State) (v : Word) : carry (writeEmr s v) = carry s := rfl
@[simp] theorem tBit_writeEmr (s : State) (v : Word) : tBit (writeEmr s v) = tBit s := rfl
@[simp] theorem intMask_writeEmr (s : State) (v : Word) : intMask (writeEmr s v) = intMask s := rfl
@[simp] theorem shortLoop_writeEmr (s : State) (v : Word) : shortLoop (writeEmr s v) = shortLoop s := rfl

/-! ### writeVba -/

@[simp] theorem writeVba_d (s : State) (v : Word) : (writeVba s v).d = s.d := rfl
@[simp] theorem writeVba_l (s : State) (v : Word) : (writeVba s v).l = s.l := rfl
@[simp] theorem writeVba_r (s : State) (v : Word) : (writeVba s v).r = s.r := rfl
@[simp] theorem writeVba_n (s : State) (v : Word) : (writeVba s v).n = s.n := rfl
@[simp] theorem writeVba_m (s : State) (v : Word) : (writeVba s v).m = s.m := rfl
@[simp] theorem writeVba_mctl (s : State) (v : Word) : (writeVba s v).mctl = s.mctl := rfl
@[simp] theorem writeVba_nsp (s : State) (v : Word) : (writeVba s v).nsp = s.nsp := rfl
@[simp] theorem writeVba_esp (s : State) (v : Word) : (writeVba s v).esp = s.esp := rfl
@[simp] theorem writeVba_pc (s : State) (v : Word) : (writeVba s v).pc = s.pc := rfl
@[simp] theorem writeVba_npc (s : State) (v : Word) : (writeVba s v).npc = s.npc := rfl
@[simp] theorem writeVba_sr (s : State) (v : Word) : (writeVba s v).sr = s.sr := rfl
@[simp] theorem writeVba_emr (s : State) (v : Word) : (writeVba s v).emr = s.emr := rfl
@[simp] theorem writeVba_vba (s : State) (v : Word) : (writeVba s v).vba = v &&& vbaMask := rfl
@[simp] theorem writeVba_sa (s : State) (v : Word) : (writeVba s v).sa = s.sa := rfl
@[simp] theorem writeVba_lc (s : State) (v : Word) : (writeVba s v).lc = s.lc := rfl
@[simp] theorem writeVba_mem (s : State) (v : Word) : (writeVba s v).mem = s.mem := rfl
@[simp] theorem writeVba_proc (s : State) (v : Word) : (writeVba s v).proc = s.proc := rfl
@[simp] theorem writeVba_ras (s : State) (v : Word) : (writeVba s v).ras = s.ras := rfl
@[simp] theorem writeVba_rasValid (s : State) (v : Word) : (writeVba s v).rasValid = s.rasValid := rfl
@[simp] theorem writeVba_nspShadow (s : State) (v : Word) : (writeVba s v).nspShadow = s.nspShadow := rfl
@[simp] theorem writeVba_espShadow (s : State) (v : Word) : (writeVba s v).espShadow = s.espShadow := rfl
@[simp] theorem writeVba_reqIllegal (s : State) (v : Word) : (writeVba s v).reqIllegal = s.reqIllegal := rfl
@[simp] theorem writeVba_reqOverflow (s : State) (v : Word) : (writeVba s v).reqOverflow = s.reqOverflow := rfl
@[simp] theorem writeVba_reqDebug (s : State) (v : Word) : (writeVba s v).reqDebug = s.reqDebug := rfl
@[simp] theorem writeVba_window (s : State) (v : Word) : (writeVba s v).window = s.window := rfl
@[simp] theorem writeVba_delay (s : State) (v : Word) : (writeVba s v).delay = s.delay := rfl
@[simp] theorem writeVba_loopJump (s : State) (v : Word) : (writeVba s v).loopJump = s.loopJump := rfl
@[simp] theorem writeVba_ignoreA (s : State) (v : Word) : (writeVba s v).ignoreA = s.ignoreA := rfl
@[simp] theorem writeVba_ignoreB (s : State) (v : Word) : (writeVba s v).ignoreB = s.ignoreB := rfl
@[simp] theorem writeVba_inputs (s : State) (v : Word) : (writeVba s v).inputs = s.inputs := rfl
@[simp] theorem writeVba_events (s : State) (v : Word) : (writeVba s v).events = s.events := rfl
@[simp] theorem writeVba_eonce (s : State) (v : Word) : (writeVba s v).eonce = s.eonce := rfl
@[simp] theorem writeVba_params (s : State) (v : Word) : (writeVba s v).params = s.params := rfl
@[simp] theorem writeVba_lastPc (s : State) (v : Word) : (writeVba s v).lastPc = s.lastPc := rfl
@[simp] theorem writeVba_flowed (s : State) (v : Word) : (writeVba s v).flowed = s.flowed := rfl
@[simp] theorem writeVba_ifc (s : State) (v : Word) : (writeVba s v).ifc = s.ifc := rfl
@[simp] theorem writeVba_acc (s : State) (v : Word) : (writeVba s v).acc = s.acc := rfl
@[simp] theorem writeVba_emrEv (s : State) (v : Word) : (writeVba s v).emrEv = s.emrEv := rfl
@[simp] theorem writeVba_fresh (s : State) (v : Word) : (writeVba s v).fresh = s.fresh := rfl
@[simp] theorem dreg_writeVba (s : State) (v : Word) (k' : DReg) : dreg (writeVba s v) k' = dreg s k' := rfl
@[simp] theorem ltag_writeVba (s : State) (v : Word) (k' : DReg) : ltag (writeVba s v) k' = ltag s k' := rfl
@[simp] theorem rreg_writeVba (s : State) (v : Word) (k' : RReg) : rreg (writeVba s v) k' = rreg s k' := rfl
@[simp] theorem nreg_writeVba (s : State) (v : Word) (k' : Fin 4) : nreg (writeVba s v) k' = nreg s k' := rfl
@[simp] theorem mreg_writeVba (s : State) (v : Word) (k' : Fin 4) : mreg (writeVba s v) k' = mreg s k' := rfl
@[simp] theorem saReg_writeVba (s : State) (v : Word) (k' : LoopIx) : saReg (writeVba s v) k' = saReg s k' := rfl
@[simp] theorem lcReg_writeVba (s : State) (v : Word) (k' : LoopIx) : lcReg (writeVba s v) k' = lcReg s k' := rfl
@[simp] theorem byteAt_writeVba (s : State) (v : Word) (a' : Word) : byteAt (writeVba s v) a' = byteAt s a' := rfl
@[simp] theorem srBit_writeVba (s : State) (v : Word) (i' : Nat) : srBit (writeVba s v) i' = srBit s i' := rfl
@[simp] theorem spOf_writeVba (s : State) (v : Word) : spOf (writeVba s v) = spOf s := rfl
@[simp] theorem expMode_writeVba (s : State) (v : Word) : expMode (writeVba s v) = expMode s := rfl
@[simp] theorem satMode_writeVba (s : State) (v : Word) : satMode (writeVba s v) = satMode s := rfl
@[simp] theorem scaling_writeVba (s : State) (v : Word) : scaling (writeVba s v) = scaling s := rfl
@[simp] theorem carry_writeVba (s : State) (v : Word) : carry (writeVba s v) = carry s := rfl
@[simp] theorem tBit_writeVba (s : State) (v : Word) : tBit (writeVba s v) = tBit s := rfl
@[simp] theorem bigEndian_writeVba (s : State) (v : Word) : bigEndian (writeVba s v) = bigEndian s := rfl
@[simp] theorem intMask_writeVba (s : State) (v : Word) : intMask (writeVba s v) = intMask s := rfl
@[simp] theorem shortLoop_writeVba (s : State) (v : Word) : shortLoop (writeVba s v) = shortLoop s := rfl

/-! ### writeMctl -/

@[simp] theorem writeMctl_d (s : State) (v : Word) : (writeMctl s v).d = s.d := rfl
@[simp] theorem writeMctl_l (s : State) (v : Word) : (writeMctl s v).l = s.l := rfl
@[simp] theorem writeMctl_r (s : State) (v : Word) : (writeMctl s v).r = s.r := rfl
@[simp] theorem writeMctl_n (s : State) (v : Word) : (writeMctl s v).n = s.n := rfl
@[simp] theorem writeMctl_m (s : State) (v : Word) : (writeMctl s v).m = s.m := rfl
@[simp] theorem writeMctl_mctl (s : State) (v : Word) : (writeMctl s v).mctl = v := rfl
@[simp] theorem writeMctl_nsp (s : State) (v : Word) : (writeMctl s v).nsp = s.nsp := rfl
@[simp] theorem writeMctl_esp (s : State) (v : Word) : (writeMctl s v).esp = s.esp := rfl
@[simp] theorem writeMctl_pc (s : State) (v : Word) : (writeMctl s v).pc = s.pc := rfl
@[simp] theorem writeMctl_npc (s : State) (v : Word) : (writeMctl s v).npc = s.npc := rfl
@[simp] theorem writeMctl_sr (s : State) (v : Word) : (writeMctl s v).sr = s.sr := rfl
@[simp] theorem writeMctl_emr (s : State) (v : Word) : (writeMctl s v).emr = s.emr := rfl
@[simp] theorem writeMctl_vba (s : State) (v : Word) : (writeMctl s v).vba = s.vba := rfl
@[simp] theorem writeMctl_sa (s : State) (v : Word) : (writeMctl s v).sa = s.sa := rfl
@[simp] theorem writeMctl_lc (s : State) (v : Word) : (writeMctl s v).lc = s.lc := rfl
@[simp] theorem writeMctl_mem (s : State) (v : Word) : (writeMctl s v).mem = s.mem := rfl
@[simp] theorem writeMctl_proc (s : State) (v : Word) : (writeMctl s v).proc = s.proc := rfl
@[simp] theorem writeMctl_ras (s : State) (v : Word) : (writeMctl s v).ras = s.ras := rfl
@[simp] theorem writeMctl_rasValid (s : State) (v : Word) : (writeMctl s v).rasValid = s.rasValid := rfl
@[simp] theorem writeMctl_nspShadow (s : State) (v : Word) : (writeMctl s v).nspShadow = s.nspShadow := rfl
@[simp] theorem writeMctl_espShadow (s : State) (v : Word) : (writeMctl s v).espShadow = s.espShadow := rfl
@[simp] theorem writeMctl_reqIllegal (s : State) (v : Word) : (writeMctl s v).reqIllegal = s.reqIllegal := rfl
@[simp] theorem writeMctl_reqOverflow (s : State) (v : Word) : (writeMctl s v).reqOverflow = s.reqOverflow := rfl
@[simp] theorem writeMctl_reqDebug (s : State) (v : Word) : (writeMctl s v).reqDebug = s.reqDebug := rfl
@[simp] theorem writeMctl_window (s : State) (v : Word) : (writeMctl s v).window = s.window := rfl
@[simp] theorem writeMctl_delay (s : State) (v : Word) : (writeMctl s v).delay = s.delay := rfl
@[simp] theorem writeMctl_loopJump (s : State) (v : Word) : (writeMctl s v).loopJump = s.loopJump := rfl
@[simp] theorem writeMctl_ignoreA (s : State) (v : Word) : (writeMctl s v).ignoreA = s.ignoreA := rfl
@[simp] theorem writeMctl_ignoreB (s : State) (v : Word) : (writeMctl s v).ignoreB = s.ignoreB := rfl
@[simp] theorem writeMctl_inputs (s : State) (v : Word) : (writeMctl s v).inputs = s.inputs := rfl
@[simp] theorem writeMctl_events (s : State) (v : Word) : (writeMctl s v).events = s.events := rfl
@[simp] theorem writeMctl_eonce (s : State) (v : Word) : (writeMctl s v).eonce = s.eonce := rfl
@[simp] theorem writeMctl_params (s : State) (v : Word) : (writeMctl s v).params = s.params := rfl
@[simp] theorem writeMctl_lastPc (s : State) (v : Word) : (writeMctl s v).lastPc = s.lastPc := rfl
@[simp] theorem writeMctl_flowed (s : State) (v : Word) : (writeMctl s v).flowed = s.flowed := rfl
@[simp] theorem writeMctl_ifc (s : State) (v : Word) : (writeMctl s v).ifc = s.ifc := rfl
@[simp] theorem writeMctl_acc (s : State) (v : Word) : (writeMctl s v).acc = s.acc := rfl
@[simp] theorem writeMctl_emrEv (s : State) (v : Word) : (writeMctl s v).emrEv = s.emrEv := rfl
@[simp] theorem writeMctl_fresh (s : State) (v : Word) : (writeMctl s v).fresh = s.fresh := rfl
@[simp] theorem dreg_writeMctl (s : State) (v : Word) (k' : DReg) : dreg (writeMctl s v) k' = dreg s k' := rfl
@[simp] theorem ltag_writeMctl (s : State) (v : Word) (k' : DReg) : ltag (writeMctl s v) k' = ltag s k' := rfl
@[simp] theorem rreg_writeMctl (s : State) (v : Word) (k' : RReg) : rreg (writeMctl s v) k' = rreg s k' := rfl
@[simp] theorem nreg_writeMctl (s : State) (v : Word) (k' : Fin 4) : nreg (writeMctl s v) k' = nreg s k' := rfl
@[simp] theorem mreg_writeMctl (s : State) (v : Word) (k' : Fin 4) : mreg (writeMctl s v) k' = mreg s k' := rfl
@[simp] theorem saReg_writeMctl (s : State) (v : Word) (k' : LoopIx) : saReg (writeMctl s v) k' = saReg s k' := rfl
@[simp] theorem lcReg_writeMctl (s : State) (v : Word) (k' : LoopIx) : lcReg (writeMctl s v) k' = lcReg s k' := rfl
@[simp] theorem byteAt_writeMctl (s : State) (v : Word) (a' : Word) : byteAt (writeMctl s v) a' = byteAt s a' := rfl
@[simp] theorem srBit_writeMctl (s : State) (v : Word) (i' : Nat) : srBit (writeMctl s v) i' = srBit s i' := rfl
@[simp] theorem spOf_writeMctl (s : State) (v : Word) : spOf (writeMctl s v) = spOf s := rfl
@[simp] theorem expMode_writeMctl (s : State) (v : Word) : expMode (writeMctl s v) = expMode s := rfl
@[simp] theorem satMode_writeMctl (s : State) (v : Word) : satMode (writeMctl s v) = satMode s := rfl
@[simp] theorem scaling_writeMctl (s : State) (v : Word) : scaling (writeMctl s v) = scaling s := rfl
@[simp] theorem carry_writeMctl (s : State) (v : Word) : carry (writeMctl s v) = carry s := rfl
@[simp] theorem tBit_writeMctl (s : State) (v : Word) : tBit (writeMctl s v) = tBit s := rfl
@[simp] theorem bigEndian_writeMctl (s : State) (v : Word) : bigEndian (writeMctl s v) = bigEndian s := rfl
@[simp] theorem intMask_writeMctl (s : State) (v : Word) : intMask (writeMctl s v) = intMask s := rfl
@[simp] theorem shortLoop_writeMctl (s : State) (v : Word) : shortLoop (writeMctl s v) = shortLoop s := rfl

/-! ### setD -/

@[simp] theorem setD_d (s : State) (k : DReg) (v : DWord) (b : Bool) : (setD s k v b).d = s.d.set k.val v k.isLt := rfl
@[simp] theorem setD_l (s : State) (k : DReg) (v : DWord) (b : Bool) : (setD s k v b).l = setTag s.l k b := rfl
@[simp] theorem setD_r (s : State) (k : DReg) (v : DWord) (b : Bool) : (setD s k v b).r = s.r := rfl
@[simp] theorem setD_n (s : State) (k : DReg) (v : DWord) (b : Bool) : (setD s k v b).n = s.n := rfl
@[simp] theorem setD_m (s : State) (k : DReg) (v : DWord) (b : Bool) : (setD s k v b).m = s.m := rfl
@[simp] theorem setD_mctl (s : State) (k : DReg) (v : DWord) (b : Bool) : (setD s k v b).mctl = s.mctl := rfl
@[simp] theorem setD_nsp (s : State) (k : DReg) (v : DWord) (b : Bool) : (setD s k v b).nsp = s.nsp := rfl
@[simp] theorem setD_esp (s : State) (k : DReg) (v : DWord) (b : Bool) : (setD s k v b).esp = s.esp := rfl
@[simp] theorem setD_pc (s : State) (k : DReg) (v : DWord) (b : Bool) : (setD s k v b).pc = s.pc := rfl
@[simp] theorem setD_npc (s : State) (k : DReg) (v : DWord) (b : Bool) : (setD s k v b).npc = s.npc := rfl
@[simp] theorem setD_sr (s : State) (k : DReg) (v : DWord) (b : Bool) : (setD s k v b).sr = s.sr := rfl
@[simp] theorem setD_emr (s : State) (k : DReg) (v : DWord) (b : Bool) : (setD s k v b).emr = s.emr := rfl
@[simp] theorem setD_vba (s : State) (k : DReg) (v : DWord) (b : Bool) : (setD s k v b).vba = s.vba := rfl
@[simp] theorem setD_sa (s : State) (k : DReg) (v : DWord) (b : Bool) : (setD s k v b).sa = s.sa := rfl
@[simp] theorem setD_lc (s : State) (k : DReg) (v : DWord) (b : Bool) : (setD s k v b).lc = s.lc := rfl
@[simp] theorem setD_mem (s : State) (k : DReg) (v : DWord) (b : Bool) : (setD s k v b).mem = s.mem := rfl
@[simp] theorem setD_proc (s : State) (k : DReg) (v : DWord) (b : Bool) : (setD s k v b).proc = s.proc := rfl
@[simp] theorem setD_ras (s : State) (k : DReg) (v : DWord) (b : Bool) : (setD s k v b).ras = s.ras := rfl
@[simp] theorem setD_rasValid (s : State) (k : DReg) (v : DWord) (b : Bool) : (setD s k v b).rasValid = s.rasValid := rfl
@[simp] theorem setD_nspShadow (s : State) (k : DReg) (v : DWord) (b : Bool) : (setD s k v b).nspShadow = s.nspShadow := rfl
@[simp] theorem setD_espShadow (s : State) (k : DReg) (v : DWord) (b : Bool) : (setD s k v b).espShadow = s.espShadow := rfl
@[simp] theorem setD_reqIllegal (s : State) (k : DReg) (v : DWord) (b : Bool) : (setD s k v b).reqIllegal = s.reqIllegal := rfl
@[simp] theorem setD_reqOverflow (s : State) (k : DReg) (v : DWord) (b : Bool) : (setD s k v b).reqOverflow = s.reqOverflow := rfl
@[simp] theorem setD_reqDebug (s : State) (k : DReg) (v : DWord) (b : Bool) : (setD s k v b).reqDebug = s.reqDebug := rfl
@[simp] theorem setD_window (s : State) (k : DReg) (v : DWord) (b : Bool) : (setD s k v b).window = s.window := rfl
@[simp] theorem setD_delay (s : State) (k : DReg) (v : DWord) (b : Bool) : (setD s k v b).delay = s.delay := rfl
@[simp] theorem setD_loopJump (s : State) (k : DReg) (v : DWord) (b : Bool) : (setD s k v b).loopJump = s.loopJump := rfl
@[simp] theorem setD_ignoreA (s : State) (k : DReg) (v : DWord) (b : Bool) : (setD s k v b).ignoreA = s.ignoreA := rfl
@[simp] theorem setD_ignoreB (s : State) (k : DReg) (v : DWord) (b : Bool) : (setD s k v b).ignoreB = s.ignoreB := rfl
@[simp] theorem setD_inputs (s : State) (k : DReg) (v : DWord) (b : Bool) : (setD s k v b).inputs = s.inputs := rfl
@[simp] theorem setD_events (s : State) (k : DReg) (v : DWord) (b : Bool) : (setD s k v b).events = s.events := rfl
@[simp] theorem setD_eonce (s : State) (k : DReg) (v : DWord) (b : Bool) : (setD s k v b).eonce = s.eonce := rfl
@[simp] theorem setD_params (s : State) (k : DReg) (v : DWord) (b : Bool) : (setD s k v b).params = s.params := rfl
@[simp] theorem setD_lastPc (s : State) (k : DReg) (v : DWord) (b : Bool) : (setD s k v b).lastPc = s.lastPc := rfl
@[simp] theorem setD_flowed (s : State) (k : DReg) (v : DWord) (b : Bool) : (setD s k v b).flowed = s.flowed := rfl
@[simp] theorem setD_ifc (s : State) (k : DReg) (v : DWord) (b : Bool) : (setD s k v b).ifc = s.ifc := rfl
@[simp] theorem setD_acc (s : State) (k : DReg) (v : DWord) (b : Bool) : (setD s k v b).acc = s.acc := rfl
@[simp] theorem setD_emrEv (s : State) (k : DReg) (v : DWord) (b : Bool) : (setD s k v b).emrEv = s.emrEv := rfl
@[simp] theorem setD_fresh (s : State) (k : DReg) (v : DWord) (b : Bool) : (setD s k v b).fresh = s.fresh := rfl
@[simp] theorem rreg_setD (s : State) (k : DReg) (v : DWord) (b : Bool) (k' : RReg) : rreg (setD s k v b) k' = rreg s k' := rfl
@[simp] theorem nreg_setD (s : State) (k : DReg) (v : DWord) (b : Bool) (k' : Fin 4) : nreg (setD s k v b) k' = nreg s k' := rfl
@[simp] theorem mreg_setD (s : State) (k : DReg) (v : DWord) (b : Bool) (k' : Fin 4) : mreg (setD s k v b) k' = mreg s k' := rfl
@[simp] theorem saReg_setD (s : State) (k : DReg) (v : DWord) (b : Bool) (k' : LoopIx) : saReg (setD s k v b) k' = saReg s k' := rfl
@[simp] theorem lcReg_setD (s : State) (k : DReg) (v : DWord) (b : Bool) (k' : LoopIx) : lcReg (setD s k v b) k' = lcReg s k' := rfl
@[simp] theorem byteAt_setD (s : State) (k : DReg) (v : DWord) (b : Bool) (a' : Word) : byteAt (setD s k v b) a' = byteAt s a' := rfl
@[simp] theorem srBit_setD (s : State) (k : DReg) (v : DWord) (b : Bool) (i' : Nat) : srBit (setD s k v b) i' = srBit s i' := rfl
@[simp] theorem spOf_setD (s : State) (k : DReg) (v : DWord) (b : Bool) : spOf (setD s k v b) = spOf s := rfl
@[simp] theorem expMode_setD (s : State) (k : DReg) (v : DWord) (b : Bool) : expMode (setD s k v b) = expMode s := rfl
@[simp] theorem satMode_setD (s : State) (k : DReg) (v : DWord) (b : Bool) : satMode (setD s k v b) = satMode s := rfl
@[simp] theorem scaling_setD (s : State) (k : DReg) (v : DWord) (b : Bool) : scaling (setD s k v b) = scaling s := rfl
@[simp] theorem carry_setD (s : State) (k : DReg) (v : DWord) (b : Bool) : carry (setD s k v b) = carry s := rfl
@[simp] theorem tBit_setD (s : State) (k : DReg) (v : DWord) (b : Bool) : tBit (setD s k v b) = tBit s := rfl
@[simp] theorem bigEndian_setD (s : State) (k : DReg) (v : DWord) (b : Bool) : bigEndian (setD s k v b) = bigEndian s := rfl
@[simp] theorem intMask_setD (s : State) (k : DReg) (v : DWord) (b : Bool) : intMask (setD s k v b) = intMask s := rfl
@[simp] theorem shortLoop_setD (s : State) (k : DReg) (v : DWord) (b : Bool) : shortLoop (setD s k v b) = shortLoop s := rfl

/-! ### setR -/

@[simp] theorem setR_d (s : State) (k : RReg) (v : Word) : (setR s k v).d = s.d := rfl
@[simp] theorem setR_l (s : State) (k : RReg) (v : Word) : (setR s k v).l = s.l := rfl
@[simp] theorem setR_r (s : State) (k : RReg) (v : Word) : (setR s k v).r = s.r.set k.val v k.isLt := rfl
@[simp] theorem setR_n (s : State) (k : RReg) (v : Word) : (setR s k v).n = s.n := rfl
@[simp] theorem setR_m (s : State) (k : RReg) (v : Word) : (setR s k v).m = s.m := rfl
@[simp] theorem setR_mctl (s : State) (k : RReg) (v : Word) : (setR s k v).mctl = s.mctl := rfl
@[simp] theorem setR_nsp (s : State) (k : RReg) (v : Word) : (setR s k v).nsp = s.nsp := rfl
@[simp] theorem setR_esp (s : State) (k : RReg) (v : Word) : (setR s k v).esp = s.esp := rfl
@[simp] theorem setR_pc (s : State) (k : RReg) (v : Word) : (setR s k v).pc = s.pc := rfl
@[simp] theorem setR_npc (s : State) (k : RReg) (v : Word) : (setR s k v).npc = s.npc := rfl
@[simp] theorem setR_sr (s : State) (k : RReg) (v : Word) : (setR s k v).sr = s.sr := rfl
@[simp] theorem setR_emr (s : State) (k : RReg) (v : Word) : (setR s k v).emr = s.emr := rfl
@[simp] theorem setR_vba (s : State) (k : RReg) (v : Word) : (setR s k v).vba = s.vba := rfl
@[simp] theorem setR_sa (s : State) (k : RReg) (v : Word) : (setR s k v).sa = s.sa := rfl
@[simp] theorem setR_lc (s : State) (k : RReg) (v : Word) : (setR s k v).lc = s.lc := rfl
@[simp] theorem setR_mem (s : State) (k : RReg) (v : Word) : (setR s k v).mem = s.mem := rfl
@[simp] theorem setR_proc (s : State) (k : RReg) (v : Word) : (setR s k v).proc = s.proc := rfl
@[simp] theorem setR_ras (s : State) (k : RReg) (v : Word) : (setR s k v).ras = s.ras := rfl
@[simp] theorem setR_rasValid (s : State) (k : RReg) (v : Word) : (setR s k v).rasValid = s.rasValid := rfl
@[simp] theorem setR_nspShadow (s : State) (k : RReg) (v : Word) : (setR s k v).nspShadow = s.nspShadow := rfl
@[simp] theorem setR_espShadow (s : State) (k : RReg) (v : Word) : (setR s k v).espShadow = s.espShadow := rfl
@[simp] theorem setR_reqIllegal (s : State) (k : RReg) (v : Word) : (setR s k v).reqIllegal = s.reqIllegal := rfl
@[simp] theorem setR_reqOverflow (s : State) (k : RReg) (v : Word) : (setR s k v).reqOverflow = s.reqOverflow := rfl
@[simp] theorem setR_reqDebug (s : State) (k : RReg) (v : Word) : (setR s k v).reqDebug = s.reqDebug := rfl
@[simp] theorem setR_window (s : State) (k : RReg) (v : Word) : (setR s k v).window = s.window := rfl
@[simp] theorem setR_delay (s : State) (k : RReg) (v : Word) : (setR s k v).delay = s.delay := rfl
@[simp] theorem setR_loopJump (s : State) (k : RReg) (v : Word) : (setR s k v).loopJump = s.loopJump := rfl
@[simp] theorem setR_ignoreA (s : State) (k : RReg) (v : Word) : (setR s k v).ignoreA = s.ignoreA := rfl
@[simp] theorem setR_ignoreB (s : State) (k : RReg) (v : Word) : (setR s k v).ignoreB = s.ignoreB := rfl
@[simp] theorem setR_inputs (s : State) (k : RReg) (v : Word) : (setR s k v).inputs = s.inputs := rfl
@[simp] theorem setR_events (s : State) (k : RReg) (v : Word) : (setR s k v).events = s.events := rfl
@[simp] theorem setR_eonce (s : State) (k : RReg) (v : Word) : (setR s k v).eonce = s.eonce := rfl
@[simp] theorem setR_params (s : State) (k : RReg) (v : Word) : (setR s k v).params = s.params := rfl
@[simp] theorem setR_lastPc (s : State) (k : RReg) (v : Word) : (setR s k v).lastPc = s.lastPc := rfl
@[simp] theorem setR_flowed (s : State) (k : RReg) (v : Word) : (setR s k v).flowed = s.flowed := rfl
@[simp] theorem setR_ifc (s : State) (k : RReg) (v : Word) : (setR s k v).ifc = s.ifc := rfl
@[simp] theorem setR_acc (s : State) (k : RReg) (v : Word) : (setR s k v).acc = s.acc := rfl
@[simp] theorem setR_emrEv (s : State) (k : RReg) (v : Word) : (setR s k v).emrEv = s.emrEv := rfl
@[simp] theorem setR_fresh (s : State) (k : RReg) (v : Word) : (setR s k v).fresh = s.fresh := rfl
@[simp] theorem dreg_setR (s : State) (k : RReg) (v : Word) (k' : DReg) : dreg (setR s k v) k' = dreg s k' := rfl
@[simp] theorem ltag_setR (s : State) (k : RReg) (v : Word) (k' : DReg) : ltag (setR s k v) k' = ltag s k' := rfl
@[simp] theorem nreg_setR (s : State) (k : RReg) (v : Word) (k' : Fin 4) : nreg (setR s k v) k' = nreg s k' := rfl
@[simp] theorem mreg_setR (s : State) (k : RReg) (v : Word) (k' : Fin 4) : mreg (setR s k v) k' = mreg s k' := rfl
@[simp] theorem saReg_setR (s : State) (k : RReg) (v : Word) (k' : LoopIx) : saReg (setR s k v) k' = saReg s k' := rfl
@[simp] theorem lcReg_setR (s : State) (k : RReg) (v : Word) (k' : LoopIx) : lcReg (setR s k v) k' = lcReg s k' := rfl
@[simp] theorem byteAt_setR (s : State) (k : RReg) (v : Word) (a' : Word) : byteAt (setR s k v) a' = byteAt s a' := rfl
@[simp] theorem srBit_setR (s : State) (k : RReg) (v : Word) (i' : Nat) : srBit (setR s k v) i' = srBit s i' := rfl
@[simp] theorem spOf_setR (s : State) (k : RReg) (v : Word) : spOf (setR s k v) = spOf s := rfl
@[simp] theorem expMode_setR (s : State) (k : RReg) (v : Word) : expMode (setR s k v) = expMode s := rfl
@[simp] theorem satMode_setR (s : State) (k : RReg) (v : Word) : satMode (setR s k v) = satMode s := rfl
@[simp] theorem scaling_setR (s : State) (k : RReg) (v : Word) : scaling (setR s k v) = scaling s := rfl
@[simp] theorem carry_setR (s : State) (k : RReg) (v : Word) : carry (setR s k v) = carry s := rfl
@[simp] theorem tBit_setR (s : State) (k : RReg) (v : Word) : tBit (setR s k v) = tBit s := rfl
@[simp] theorem bigEndian_setR (s : State) (k : RReg) (v : Word) : bigEndian (setR s k v) = bigEndian s := rfl
@[simp] theorem intMask_setR (s : State) (k : RReg) (v : Word) : intMask (setR s k v) = intMask s := rfl
@[simp] theorem shortLoop_setR (s : State) (k : RReg) (v : Word) : shortLoop (setR s k v) = shortLoop s := rfl

/-! ### setN -/

@[simp] theorem setN_d (s : State) (k : Fin 4) (v : Word) : (setN s k v).d = s.d := rfl
@[simp] theorem setN_l (s : State) (k : Fin 4) (v : Word) : (setN s k v).l = s.l := rfl
@[simp] theorem setN_r (s : State) (k : Fin 4) (v : Word) : (setN s k v).r = s.r := rfl
@[simp] theorem setN_n (s : State) (k : Fin 4) (v : Word) : (setN s k v).n = s.n.set k.val v k.isLt := rfl
@[simp] theorem setN_m (s : State) (k : Fin 4) (v : Word) : (setN s k v).m = s.m := rfl
@[simp] theorem setN_mctl (s : State) (k : Fin 4) (v : Word) : (setN s k v).mctl = s.mctl := rfl
@[simp] theorem setN_nsp (s : State) (k : Fin 4) (v : Word) : (setN s k v).nsp = s.nsp := rfl
@[simp] theorem setN_esp (s : State) (k : Fin 4) (v : Word) : (setN s k v).esp = s.esp := rfl
@[simp] theorem setN_pc (s : State) (k : Fin 4) (v : Word) : (setN s k v).pc = s.pc := rfl
@[simp] theorem setN_npc (s : State) (k : Fin 4) (v : Word) : (setN s k v).npc = s.npc := rfl
@[simp] theorem setN_sr (s : State) (k : Fin 4) (v : Word) : (setN s k v).sr = s.sr := rfl
@[simp] theorem setN_emr (s : State) (k : Fin 4) (v : Word) : (setN s k v).emr = s.emr := rfl
@[simp] theorem setN_vba (s : State) (k : Fin 4) (v : Word) : (setN s k v).vba = s.vba := rfl
@[simp] theorem setN_sa (s : State) (k : Fin 4) (v : Word) : (setN s k v).sa = s.sa := rfl
@[simp] theorem setN_lc (s : State) (k : Fin 4) (v : Word) : (setN s k v).lc = s.lc := rfl
@[simp] theorem setN_mem (s : State) (k : Fin 4) (v : Word) : (setN s k v).mem = s.mem := rfl
@[simp] theorem setN_proc (s : State) (k : Fin 4) (v : Word) : (setN s k v).proc = s.proc := rfl
@[simp] theorem setN_ras (s : State) (k : Fin 4) (v : Word) : (setN s k v).ras = s.ras := rfl
@[simp] theorem setN_rasValid (s : State) (k : Fin 4) (v : Word) : (setN s k v).rasValid = s.rasValid := rfl
@[simp] theorem setN_nspShadow (s : State) (k : Fin 4) (v : Word) : (setN s k v).nspShadow = s.nspShadow := rfl
@[simp] theorem setN_espShadow (s : State) (k : Fin 4) (v : Word) : (setN s k v).espShadow = s.espShadow := rfl
@[simp] theorem setN_reqIllegal (s : State) (k : Fin 4) (v : Word) : (setN s k v).reqIllegal = s.reqIllegal := rfl
@[simp] theorem setN_reqOverflow (s : State) (k : Fin 4) (v : Word) : (setN s k v).reqOverflow = s.reqOverflow := rfl
@[simp] theorem setN_reqDebug (s : State) (k : Fin 4) (v : Word) : (setN s k v).reqDebug = s.reqDebug := rfl
@[simp] theorem setN_window (s : State) (k : Fin 4) (v : Word) : (setN s k v).window = s.window := rfl
@[simp] theorem setN_delay (s : State) (k : Fin 4) (v : Word) : (setN s k v).delay = s.delay := rfl
@[simp] theorem setN_loopJump (s : State) (k : Fin 4) (v : Word) : (setN s k v).loopJump = s.loopJump := rfl
@[simp] theorem setN_ignoreA (s : State) (k : Fin 4) (v : Word) : (setN s k v).ignoreA = s.ignoreA := rfl
@[simp] theorem setN_ignoreB (s : State) (k : Fin 4) (v : Word) : (setN s k v).ignoreB = s.ignoreB := rfl
@[simp] theorem setN_inputs (s : State) (k : Fin 4) (v : Word) : (setN s k v).inputs = s.inputs := rfl
@[simp] theorem setN_events (s : State) (k : Fin 4) (v : Word) : (setN s k v).events = s.events := rfl
@[simp] theorem setN_eonce (s : State) (k : Fin 4) (v : Word) : (setN s k v).eonce = s.eonce := rfl
@[simp] theorem setN_params (s : State) (k : Fin 4) (v : Word) : (setN s k v).params = s.params := rfl
@[simp] theorem setN_lastPc (s : State) (k : Fin 4) (v : Word) : (setN s k v).lastPc = s.lastPc := rfl
@[simp] theorem setN_flowed (s : State) (k : Fin 4) (v : Word) : (setN s k v).flowed = s.flowed := rfl
@[simp] theorem setN_ifc (s : State) (k : Fin 4) (v : Word) : (setN s k v).ifc = s.ifc := rfl
@[simp] theorem setN_acc (s : State) (k : Fin 4) (v : Word) : (setN s k v).acc = s.acc := rfl
@[simp] theorem setN_emrEv (s : State) (k : Fin 4) (v : Word) : (setN s k v).emrEv = s.emrEv := rfl
@[simp] theorem setN_fresh (s : State) (k : Fin 4) (v : Word) : (setN s k v).fresh = s.fresh := rfl
@[simp] theorem dreg_setN (s : State) (k : Fin 4) (v : Word) (k' : DReg) : dreg (setN s k v) k' = dreg s k' := rfl
@[simp] theorem ltag_setN (s : State) (k : Fin 4) (v : Word) (k' : DReg) : ltag (setN s k v) k' = ltag s k' := rfl
@[simp] theorem rreg_setN (s : State) (k : Fin 4) (v : Word) (k' : RReg) : rreg (setN s k v) k' = rreg s k' := rfl
@[simp] theorem mreg_setN (s : State) (k : Fin 4) (v : Word) (k' : Fin 4) : mreg (setN s k v) k' = mreg s k' := rfl
@[simp] theorem saReg_setN (s : State) (k : Fin 4) (v : Word) (k' : LoopIx) : saReg (setN s k v) k' = saReg s k' := rfl
@[simp] theorem lcReg_setN (s : State) (k : Fin 4) (v : Word) (k' : LoopIx) : lcReg (setN s k v) k' = lcReg s k' := rfl
@[simp] theorem byteAt_setN (s : State) (k : Fin 4) (v : Word) (a' : Word) : byteAt (setN s k v) a' = byteAt s a' := rfl
@[simp] theorem srBit_setN (s : State) (k : Fin 4) (v : Word) (i' : Nat) : srBit (setN s k v) i' = srBit s i' := rfl
@[simp] theorem spOf_setN (s : State) (k : Fin 4) (v : Word) : spOf (setN s k v) = spOf s := rfl
@[simp] theorem expMode_setN (s : State) (k : Fin 4) (v : Word) : expMode (setN s k v) = expMode s := rfl
@[simp] theorem satMode_setN (s : State) (k : Fin 4) (v : Word) : satMode (setN s k v) = satMode s := rfl
@[simp] theorem scaling_setN (s : State) (k : Fin 4) (v : Word) : scaling (setN s k v) = scaling s := rfl
@[simp] theorem carry_setN (s : State) (k : Fin 4) (v : Word) : carry (setN s k v) = carry s := rfl
@[simp] theorem tBit_setN (s : State) (k : Fin 4) (v : Word) : tBit (setN s k v) = tBit s := rfl
@[simp] theorem bigEndian_setN (s : State) (k : Fin 4) (v : Word) : bigEndian (setN s k v) = bigEndian s := rfl
@[simp] theorem intMask_setN (s : State) (k : Fin 4) (v : Word) : intMask (setN s k v) = intMask s := rfl
@[simp] theorem shortLoop_setN (s : State) (k : Fin 4) (v : Word) : shortLoop (setN s k v) = shortLoop s := rfl

/-! ### setM -/

@[simp] theorem setM_d (s : State) (k : Fin 4) (v : Word) : (setM s k v).d = s.d := rfl
@[simp] theorem setM_l (s : State) (k : Fin 4) (v : Word) : (setM s k v).l = s.l := rfl
@[simp] theorem setM_r (s : State) (k : Fin 4) (v : Word) : (setM s k v).r = s.r := rfl
@[simp] theorem setM_n (s : State) (k : Fin 4) (v : Word) : (setM s k v).n = s.n := rfl
@[simp] theorem setM_m (s : State) (k : Fin 4) (v : Word) : (setM s k v).m = s.m.set k.val v k.isLt := rfl
@[simp] theorem setM_mctl (s : State) (k : Fin 4) (v : Word) : (setM s k v).mctl = s.mctl := rfl
@[simp] theorem setM_nsp (s : State) (k : Fin 4) (v : Word) : (setM s k v).nsp = s.nsp := rfl
@[simp] theorem setM_esp (s : State) (k : Fin 4) (v : Word) : (setM s k v).esp = s.esp := rfl
@[simp] theorem setM_pc (s : State) (k : Fin 4) (v : Word) : (setM s k v).pc = s.pc := rfl
@[simp] theorem setM_npc (s : State) (k : Fin 4) (v : Word) : (setM s k v).npc = s.npc := rfl
@[simp] theorem setM_sr (s : State) (k : Fin 4) (v : Word) : (setM s k v).sr = s.sr := rfl
@[simp] theorem setM_emr (s : State) (k : Fin 4) (v : Word) : (setM s k v).emr = s.emr := rfl
@[simp] theorem setM_vba (s : State) (k : Fin 4) (v : Word) : (setM s k v).vba = s.vba := rfl
@[simp] theorem setM_sa (s : State) (k : Fin 4) (v : Word) : (setM s k v).sa = s.sa := rfl
@[simp] theorem setM_lc (s : State) (k : Fin 4) (v : Word) : (setM s k v).lc = s.lc := rfl
@[simp] theorem setM_mem (s : State) (k : Fin 4) (v : Word) : (setM s k v).mem = s.mem := rfl
@[simp] theorem setM_proc (s : State) (k : Fin 4) (v : Word) : (setM s k v).proc = s.proc := rfl
@[simp] theorem setM_ras (s : State) (k : Fin 4) (v : Word) : (setM s k v).ras = s.ras := rfl
@[simp] theorem setM_rasValid (s : State) (k : Fin 4) (v : Word) : (setM s k v).rasValid = s.rasValid := rfl
@[simp] theorem setM_nspShadow (s : State) (k : Fin 4) (v : Word) : (setM s k v).nspShadow = s.nspShadow := rfl
@[simp] theorem setM_espShadow (s : State) (k : Fin 4) (v : Word) : (setM s k v).espShadow = s.espShadow := rfl
@[simp] theorem setM_reqIllegal (s : State) (k : Fin 4) (v : Word) : (setM s k v).reqIllegal = s.reqIllegal := rfl
@[simp] theorem setM_reqOverflow (s : State) (k : Fin 4) (v : Word) : (setM s k v).reqOverflow = s.reqOverflow := rfl
@[simp] theorem setM_reqDebug (s : State) (k : Fin 4) (v : Word) : (setM s k v).reqDebug = s.reqDebug := rfl
@[simp] theorem setM_window (s : State) (k : Fin 4) (v : Word) : (setM s k v).window = s.window := rfl
@[simp] theorem setM_delay (s : State) (k : Fin 4) (v : Word) : (setM s k v).delay = s.delay := rfl
@[simp] theorem setM_loopJump (s : State) (k : Fin 4) (v : Word) : (setM s k v).loopJump = s.loopJump := rfl
@[simp] theorem setM_ignoreA (s : State) (k : Fin 4) (v : Word) : (setM s k v).ignoreA = s.ignoreA := rfl
@[simp] theorem setM_ignoreB (s : State) (k : Fin 4) (v : Word) : (setM s k v).ignoreB = s.ignoreB := rfl
@[simp] theorem setM_inputs (s : State) (k : Fin 4) (v : Word) : (setM s k v).inputs = s.inputs := rfl
@[simp] theorem setM_events (s : State) (k : Fin 4) (v : Word) : (setM s k v).events = s.events := rfl
@[simp] theorem setM_eonce (s : State) (k : Fin 4) (v : Word) : (setM s k v).eonce = s.eonce := rfl
@[simp] theorem setM_params (s : State) (k : Fin 4) (v : Word) : (setM s k v).params = s.params := rfl
@[simp] theorem setM_lastPc (s : State) (k : Fin 4) (v : Word) : (setM s k v).lastPc = s.lastPc := rfl
@[simp] theorem setM_flowed (s : State) (k : Fin 4) (v : Word) : (setM s k v).flowed = s.flowed := rfl
@[simp] theorem setM_ifc (s : State) (k : Fin 4) (v : Word) : (setM s k v).ifc = s.ifc := rfl
@[simp] theorem setM_acc (s : State) (k : Fin 4) (v : Word) : (setM s k v).acc = s.acc := rfl
@[simp] theorem setM_emrEv (s : State) (k : Fin 4) (v : Word) : (setM s k v).emrEv = s.emrEv := rfl
@[simp] theorem setM_fresh (s : State) (k : Fin 4) (v : Word) : (setM s k v).fresh = s.fresh := rfl
@[simp] theorem dreg_setM (s : State) (k : Fin 4) (v : Word) (k' : DReg) : dreg (setM s k v) k' = dreg s k' := rfl
@[simp] theorem ltag_setM (s : State) (k : Fin 4) (v : Word) (k' : DReg) : ltag (setM s k v) k' = ltag s k' := rfl
@[simp] theorem rreg_setM (s : State) (k : Fin 4) (v : Word) (k' : RReg) : rreg (setM s k v) k' = rreg s k' := rfl
@[simp] theorem nreg_setM (s : State) (k : Fin 4) (v : Word) (k' : Fin 4) : nreg (setM s k v) k' = nreg s k' := rfl
@[simp] theorem saReg_setM (s : State) (k : Fin 4) (v : Word) (k' : LoopIx) : saReg (setM s k v) k' = saReg s k' := rfl
@[simp] theorem lcReg_setM (s : State) (k : Fin 4) (v : Word) (k' : LoopIx) : lcReg (setM s k v) k' = lcReg s k' := rfl
@[simp] theorem byteAt_setM (s : State) (k : Fin 4) (v : Word) (a' : Word) : byteAt (setM s k v) a' = byteAt s a' := rfl
@[simp] theorem srBit_setM (s : State) (k : Fin 4) (v : Word) (i' : Nat) : srBit (setM s k v) i' = srBit s i' := rfl
@[simp] theorem spOf_setM (s : State) (k : Fin 4) (v : Word) : spOf (setM s k v) = spOf s := rfl
@[simp] theorem expMode_setM (s : State) (k : Fin 4) (v : Word) : expMode (setM s k v) = expMode s := rfl
@[simp] theorem satMode_setM (s : State) (k : Fin 4) (v : Word) : satMode (setM s k v) = satMode s := rfl
@[simp] theorem scaling_setM (s : State) (k : Fin 4) (v : Word) : scaling (setM s k v) = scaling s := rfl
@[simp] theorem carry_setM (s : State) (k : Fin 4) (v : Word) : carry (setM s k v) = carry s := rfl
@[simp] theorem tBit_setM (s : State) (k : Fin 4) (v : Word) : tBit (setM s k v) = tBit s := rfl
@[simp] theorem bigEndian_setM (s : State) (k : Fin 4) (v : Word) : bigEndian (setM s k v) = bigEndian s := rfl
@[simp] theorem intMask_setM (s : State) (k : Fin 4) (v : Word) : intMask (setM s k v) = intMask s := rfl
@[simp] theorem shortLoop_setM (s : State) (k : Fin 4) (v : Word) : shortLoop (setM s k v) = shortLoop s := rfl

/-! ### setSa -/

@[simp] theorem setSa_d (s : State) (k : LoopIx) (v : Word) : (setSa s k v).d = s.d := rfl
@[simp] theorem setSa_l (s : State) (k : LoopIx) (v : Word) : (setSa s k v).l = s.l := rfl
@[simp] theorem setSa_r (s : State) (k : LoopIx) (v : Word) : (setSa s k v).r = s.r := rfl
@[simp] theorem setSa_n (s : State) (k : LoopIx) (v : Word) : (setSa s k v).n = s.n := rfl
@[simp] theorem setSa_m (s : State) (k : LoopIx) (v : Word) : (setSa s k v).m = s.m := rfl
@[simp] theorem setSa_mctl (s : State) (k : LoopIx) (v : Word) : (setSa s k v).mctl = s.mctl := rfl
@[simp] theorem setSa_nsp (s : State) (k : LoopIx) (v : Word) : (setSa s k v).nsp = s.nsp := rfl
@[simp] theorem setSa_esp (s : State) (k : LoopIx) (v : Word) : (setSa s k v).esp = s.esp := rfl
@[simp] theorem setSa_pc (s : State) (k : LoopIx) (v : Word) : (setSa s k v).pc = s.pc := rfl
@[simp] theorem setSa_npc (s : State) (k : LoopIx) (v : Word) : (setSa s k v).npc = s.npc := rfl
@[simp] theorem setSa_sr (s : State) (k : LoopIx) (v : Word) : (setSa s k v).sr = s.sr := rfl
@[simp] theorem setSa_emr (s : State) (k : LoopIx) (v : Word) : (setSa s k v).emr = s.emr := rfl
@[simp] theorem setSa_vba (s : State) (k : LoopIx) (v : Word) : (setSa s k v).vba = s.vba := rfl
@[simp] theorem setSa_sa (s : State) (k : LoopIx) (v : Word) : (setSa s k v).sa = s.sa.set k.val v k.isLt := rfl
@[simp] theorem setSa_lc (s : State) (k : LoopIx) (v : Word) : (setSa s k v).lc = s.lc := rfl
@[simp] theorem setSa_mem (s : State) (k : LoopIx) (v : Word) : (setSa s k v).mem = s.mem := rfl
@[simp] theorem setSa_proc (s : State) (k : LoopIx) (v : Word) : (setSa s k v).proc = s.proc := rfl
@[simp] theorem setSa_ras (s : State) (k : LoopIx) (v : Word) : (setSa s k v).ras = s.ras := rfl
@[simp] theorem setSa_rasValid (s : State) (k : LoopIx) (v : Word) : (setSa s k v).rasValid = s.rasValid := rfl
@[simp] theorem setSa_nspShadow (s : State) (k : LoopIx) (v : Word) : (setSa s k v).nspShadow = s.nspShadow := rfl
@[simp] theorem setSa_espShadow (s : State) (k : LoopIx) (v : Word) : (setSa s k v).espShadow = s.espShadow := rfl
@[simp] theorem setSa_reqIllegal (s : State) (k : LoopIx) (v : Word) : (setSa s k v).reqIllegal = s.reqIllegal := rfl
@[simp] theorem setSa_reqOverflow (s : State) (k : LoopIx) (v : Word) : (setSa s k v).reqOverflow = s.reqOverflow := rfl
@[simp] theorem setSa_reqDebug (s : State) (k : LoopIx) (v : Word) : (setSa s k v).reqDebug = s.reqDebug := rfl
@[simp] theorem setSa_window (s : State) (k : LoopIx) (v : Word) : (setSa s k v).window = s.window := rfl
@[simp] theorem setSa_delay (s : State) (k : LoopIx) (v : Word) : (setSa s k v).delay = s.delay := rfl
@[simp] theorem setSa_loopJump (s : State) (k : LoopIx) (v : Word) : (setSa s k v).loopJump = s.loopJump := rfl
@[simp] theorem setSa_ignoreA (s : State) (k : LoopIx) (v : Word) : (setSa s k v).ignoreA = s.ignoreA := rfl
@[simp] theorem setSa_ignoreB (s : State) (k : LoopIx) (v : Word) : (setSa s k v).ignoreB = s.ignoreB := rfl
@[simp] theorem setSa_inputs (s : State) (k : LoopIx) (v : Word) : (setSa s k v).inputs = s.inputs := rfl
@[simp] theorem setSa_events (s : State) (k : LoopIx) (v : Word) : (setSa s k v).events = s.events := rfl
@[simp] theorem setSa_eonce (s : State) (k : LoopIx) (v : Word) : (setSa s k v).eonce = s.eonce := rfl
@[simp] theorem setSa_params (s : State) (k : LoopIx) (v : Word) : (setSa s k v).params = s.params := rfl
@[simp] theorem setSa_lastPc (s : State) (k : LoopIx) (v : Word) : (setSa s k v).lastPc = s.lastPc := rfl
@[simp] theorem setSa_flowed (s : State) (k : LoopIx) (v : Word) : (setSa s k v).flowed = s.flowed := rfl
@[simp] theorem setSa_ifc (s : State) (k : LoopIx) (v : Word) : (setSa s k v).ifc = s.ifc := rfl
@[simp] theorem setSa_acc (s : State) (k : LoopIx) (v : Word) : (setSa s k v).acc = s.acc := rfl
@[simp] theorem setSa_emrEv (s : State) (k : LoopIx) (v : Word) : (setSa s k v).emrEv = s.emrEv := rfl
@[simp] theorem setSa_fresh (s : State) (k : LoopIx) (v : Word) : (setSa s k v).fresh = s.fresh := rfl
@[simp] theorem dreg_setSa (s : State) (k : LoopIx) (v : Word) (k' : DReg) : dreg (setSa s k v) k' = dreg s k' := rfl
@[simp] theorem ltag_setSa (s : State) (k : LoopIx) (v : Word) (k' : DReg) : ltag (setSa s k v) k' = ltag s k' := rfl
@[simp] theorem rreg_setSa (s : State) (k : LoopIx) (v : Word) (k' : RReg) : rreg (setSa s k v) k' = rreg s k' := rfl
@[simp] theorem nreg_setSa (s : State) (k : LoopIx) (v : Word) (k' : Fin 4) : nreg (setSa s k v) k' = nreg s k' := rfl
@[simp] theorem mreg_setSa (s : State) (k : LoopIx) (v : Word) (k' : Fin 4) : mreg (setSa s k v) k' = mreg s k' := rfl
@[simp] theorem lcReg_setSa (s : State) (k : LoopIx) (v : Word) (k' : LoopIx) : lcReg (setSa s k v) k' = lcReg s k' := rfl
@[simp] theorem byteAt_setSa (s : State) (k : LoopIx) (v : Word) (a' : Word) : byteAt (setSa s k v) a' = byteAt s a' := rfl
@[simp] theorem srBit_setSa (s : State) (k : LoopIx) (v : Word) (i' : Nat) : srBit (setSa s k v) i' = srBit s i' := rfl
@[simp] theorem spOf_setSa (s : State) (k : LoopIx) (v : Word) : spOf (setSa s k v) = spOf s := rfl
@[simp] theorem expMode_setSa (s : State) (k : LoopIx) (v : Word) : expMode (setSa s k v) = expMode s := rfl
@[simp] theorem satMode_setSa (s : State) (k : LoopIx) (v : Word) : satMode (setSa s k v) = satMode s := rfl
@[simp] theorem scaling_setSa (s : State) (k : LoopIx) (v : Word) : scaling (setSa s k v) = scaling s := rfl
@[simp] theorem carry_setSa (s : State) (k : LoopIx) (v : Word) : carry (setSa s k v) = carry s := rfl
@[simp] theorem tBit_setSa (s : State) (k : LoopIx) (v : Word) : tBit (setSa s k v) = tBit s := rfl
@[simp] theorem bigEndian_setSa (s : State) (k : LoopIx) (v : Word) : bigEndian (setSa s k v) = bigEndian s := rfl
@[simp] theorem intMask_setSa (s : State) (k : LoopIx) (v : Word) : intMask (setSa s k v) = intMask s := rfl
@[simp] theorem shortLoop_setSa (s : State) (k : LoopIx) (v : Word) : shortLoop (setSa s k v) = shortLoop s := rfl

/-! ### setLc -/

@[simp] theorem setLc_d (s : State) (k : LoopIx) (v : Word) : (setLc s k v).d = s.d := rfl
@[simp] theorem setLc_l (s : State) (k : LoopIx) (v : Word) : (setLc s k v).l = s.l := rfl
@[simp] theorem setLc_r (s : State) (k : LoopIx) (v : Word) : (setLc s k v).r = s.r := rfl
@[simp] theorem setLc_n (s : State) (k : LoopIx) (v : Word) : (setLc s k v).n = s.n := rfl
@[simp] theorem setLc_m (s : State) (k : LoopIx) (v : Word) : (setLc s k v).m = s.m := rfl
@[simp] theorem setLc_mctl (s : State) (k : LoopIx) (v : Word) : (setLc s k v).mctl = s.mctl := rfl
@[simp] theorem setLc_nsp (s : State) (k : LoopIx) (v : Word) : (setLc s k v).nsp = s.nsp := rfl
@[simp] theorem setLc_esp (s : State) (k : LoopIx) (v : Word) : (setLc s k v).esp = s.esp := rfl
@[simp] theorem setLc_pc (s : State) (k : LoopIx) (v : Word) : (setLc s k v).pc = s.pc := rfl
@[simp] theorem setLc_npc (s : State) (k : LoopIx) (v : Word) : (setLc s k v).npc = s.npc := rfl
@[simp] theorem setLc_sr (s : State) (k : LoopIx) (v : Word) : (setLc s k v).sr = s.sr := rfl
@[simp] theorem setLc_emr (s : State) (k : LoopIx) (v : Word) : (setLc s k v).emr = s.emr := rfl
@[simp] theorem setLc_vba (s : State) (k : LoopIx) (v : Word) : (setLc s k v).vba = s.vba := rfl
@[simp] theorem setLc_sa (s : State) (k : LoopIx) (v : Word) : (setLc s k v).sa = s.sa := rfl
@[simp] theorem setLc_lc (s : State) (k : LoopIx) (v : Word) : (setLc s k v).lc = s.lc.set k.val v k.isLt := rfl
@[simp] theorem setLc_mem (s : State) (k : LoopIx) (v : Word) : (setLc s k v).mem = s.mem := rfl
@[simp] theorem setLc_proc (s : State) (k : LoopIx) (v : Word) : (setLc s k v).proc = s.proc := rfl
@[simp] theorem setLc_ras (s : State) (k : LoopIx) (v : Word) : (setLc s k v).ras = s.ras := rfl
@[simp] theorem setLc_rasValid (s : State) (k : LoopIx) (v : Word) : (setLc s k v).rasValid = s.rasValid := rfl
@[simp] theorem setLc_nspShadow (s : State) (k : LoopIx) (v : Word) : (setLc s k v).nspShadow = s.nspShadow := rfl
@[simp] theorem setLc_espShadow (s : State) (k : LoopIx) (v : Word) : (setLc s k v).espShadow = s.espShadow := rfl
@[simp] theorem setLc_reqIllegal (s : State) (k : LoopIx) (v : Word) : (setLc s k v).reqIllegal = s.reqIllegal := rfl
@[simp] theorem setLc_reqOverflow (s : State) (k : LoopIx) (v : Word) : (setLc s k v).reqOverflow = s.reqOverflow := rfl
@[simp] theorem setLc_reqDebug (s : State) (k : LoopIx) (v : Word) : (setLc s k v).reqDebug = s.reqDebug := rfl
@[simp] theorem setLc_window (s : State) (k : LoopIx) (v : Word) : (setLc s k v).window = s.window := rfl
@[simp] theorem setLc_delay (s : State) (k : LoopIx) (v : Word) : (setLc s k v).delay = s.delay := rfl
@[simp] theorem setLc_loopJump (s : State) (k : LoopIx) (v : Word) : (setLc s k v).loopJump = s.loopJump := rfl
@[simp] theorem setLc_ignoreA (s : State) (k : LoopIx) (v : Word) : (setLc s k v).ignoreA = s.ignoreA := rfl
@[simp] theorem setLc_ignoreB (s : State) (k : LoopIx) (v : Word) : (setLc s k v).ignoreB = s.ignoreB := rfl
@[simp] theorem setLc_inputs (s : State) (k : LoopIx) (v : Word) : (setLc s k v).inputs = s.inputs := rfl
@[simp] theorem setLc_events (s : State) (k : LoopIx) (v : Word) : (setLc s k v).events = s.events := rfl
@[simp] theorem setLc_eonce (s : State) (k : LoopIx) (v : Word) : (setLc s k v).eonce = s.eonce := rfl
@[simp] theorem setLc_params (s : State) (k : LoopIx) (v : Word) : (setLc s k v).params = s.params := rfl
@[simp] theorem setLc_lastPc (s : State) (k : LoopIx) (v : Word) : (setLc s k v).lastPc = s.lastPc := rfl
@[simp] theorem setLc_flowed (s : State) (k : LoopIx) (v : Word) : (setLc s k v).flowed = s.flowed := rfl
@[simp] theorem setLc_ifc (s : State) (k : LoopIx) (v : Word) : (setLc s k v).ifc = s.ifc := rfl
@[simp] theorem setLc_acc (s : State) (k : LoopIx) (v : Word) : (setLc s k v).acc = s.acc := rfl
@[simp] theorem setLc_emrEv (s : State) (k : LoopIx) (v : Word) : (setLc s k v).emrEv = s.emrEv := rfl
@[simp] theorem setLc_fresh (s : State) (k : LoopIx) (v : Word) : (setLc s k v).fresh = s.fresh := rfl
@[simp] theorem dreg_setLc (s : State) (k : LoopIx) (v : Word) (k' : DReg) : dreg (setLc s k v) k' = dreg s k' := rfl
@[simp] theorem ltag_setLc (s : State) (k : LoopIx) (v : Word) (k' : DReg) : ltag (setLc s k v) k' = ltag s k' := rfl
@[simp] theorem rreg_setLc (s : State) (k : LoopIx) (v : Word) (k' : RReg) : rreg (setLc s k v) k' = rreg s k' := rfl
@[simp] theorem nreg_setLc (s : State) (k : LoopIx) (v : Word) (k' : Fin 4) : nreg (setLc s k v) k' = nreg s k' := rfl
@[simp] theorem mreg_setLc (s : State) (k : LoopIx) (v : Word) (k' : Fin 4) : mreg (setLc s k v) k' = mreg s k' := rfl
@[simp] theorem saReg_setLc (s : State) (k : LoopIx) (v : Word) (k' : LoopIx) : saReg (setLc s k v) k' = saReg s k' := rfl
@[simp] theorem byteAt_setLc (s : State) (k : LoopIx) (v : Word) (a' : Word) : byteAt (setLc s k v) a' = byteAt s a' := rfl
@[simp] theorem srBit_setLc (s : State) (k : LoopIx) (v : Word) (i' : Nat) : srBit (setLc s k v) i' = srBit s i' := rfl
@[simp] theorem spOf_setLc (s : State) (k : LoopIx) (v : Word) : spOf (setLc s k v) = spOf s := rfl
@[simp] theorem expMode_setLc (s : State) (k : LoopIx) (v : Word) : expMode (setLc s k v) = expMode s := rfl
@[simp] theorem satMode_setLc (s : State) (k : LoopIx) (v : Word) : satMode (setLc s k v) = satMode s := rfl
@[simp] theorem scaling_setLc (s : State) (k : LoopIx) (v : Word) : scaling (setLc s k v) = scaling s := rfl
@[simp] theorem carry_setLc (s : State) (k : LoopIx) (v : Word) : carry (setLc s k v) = carry s := rfl
@[simp] theorem tBit_setLc (s : State) (k : LoopIx) (v : Word) : tBit (setLc s k v) = tBit s := rfl
@[simp] theorem bigEndian_setLc (s : State) (k : LoopIx) (v : Word) : bigEndian (setLc s k v) = bigEndian s := rfl
@[simp] theorem intMask_setLc (s : State) (k : LoopIx) (v : Word) : intMask (setLc s k v) = intMask s := rfl
@[simp] theorem shortLoop_setLc (s : State) (k : LoopIx) (v : Word) : shortLoop (setLc s k v) = shortLoop s := rfl

/-! ### setNsp -/

@[simp] theorem setNsp_d (s : State) (v : Word) : (setNsp s v).d = s.d := rfl
@[simp] theorem setNsp_l (s : State) (v : Word) : (setNsp s v).l = s.l := rfl
@[simp] theorem setNsp_r (s : State) (v : Word) : (setNsp s v).r = s.r := rfl
@[simp] theorem setNsp_n (s : State) (v : Word) : (setNsp s v).n = s.n := rfl
@[simp] theorem setNsp_m (s : State) (v : Word) : (setNsp s v).m = s.m := rfl
@[simp] theorem setNsp_mctl (s : State) (v : Word) : (setNsp s v).mctl = s.mctl := rfl
@[simp] theorem setNsp_nsp (s : State) (v : Word) : (setNsp s v).nsp = v &&& spMask := rfl
@[simp] theorem setNsp_esp (s : State) (v : Word) : (setNsp s v).esp = s.esp := rfl
@[simp] theorem setNsp_pc (s : State) (v : Word) : (setNsp s v).pc = s.pc := rfl
@[simp] theorem setNsp_npc (s : State) (v : Word) : (setNsp s v).npc = s.npc := rfl
@[simp] theorem setNsp_sr (s : State) (v : Word) : (setNsp s v).sr = s.sr := rfl
@[simp] theorem setNsp_emr (s : State) (v : Word) : (setNsp s v).emr = s.emr := rfl
@[simp] theorem setNsp_vba (s : State) (v : Word) : (setNsp s v).vba = s.vba := rfl
@[simp] theorem setNsp_sa (s : State) (v : Word) : (setNsp s v).sa = s.sa := rfl
@[simp] theorem setNsp_lc (s : State) (v : Word) : (setNsp s v).lc = s.lc := rfl
@[simp] theorem setNsp_mem (s : State) (v : Word) : (setNsp s v).mem = s.mem := rfl
@[simp] theorem setNsp_proc (s : State) (v : Word) : (setNsp s v).proc = s.proc := rfl
@[simp] theorem setNsp_ras (s : State) (v : Word) : (setNsp s v).ras = s.ras := rfl
@[simp] theorem setNsp_rasValid (s : State) (v : Word) : (setNsp s v).rasValid = s.rasValid := rfl
@[simp] theorem setNsp_nspShadow (s : State) (v : Word) : (setNsp s v).nspShadow = s.nspShadow := rfl
@[simp] theorem setNsp_espShadow (s : State) (v : Word) : (setNsp s v).espShadow = s.espShadow := rfl
@[simp] theorem setNsp_reqIllegal (s : State) (v : Word) : (setNsp s v).reqIllegal = s.reqIllegal := rfl
@[simp] theorem setNsp_reqOverflow (s : State) (v : Word) : (setNsp s v).reqOverflow = s.reqOverflow := rfl
@[simp] theorem setNsp_reqDebug (s : State) (v : Word) : (setNsp s v).reqDebug = s.reqDebug := rfl
@[simp] theorem setNsp_window (s : State) (v : Word) : (setNsp s v).window = s.window := rfl
@[simp] theorem setNsp_delay (s : State) (v : Word) : (setNsp s v).delay = s.delay := rfl
@[simp] theorem setNsp_loopJump (s : State) (v : Word) : (setNsp s v).loopJump = s.loopJump := rfl
@[simp] theorem setNsp_ignoreA (s : State) (v : Word) : (setNsp s v).ignoreA = s.ignoreA := rfl
@[simp] theorem setNsp_ignoreB (s : State) (v : Word) : (setNsp s v).ignoreB = s.ignoreB := rfl
@[simp] theorem setNsp_inputs (s : State) (v : Word) : (setNsp s v).inputs = s.inputs := rfl
@[simp] theorem setNsp_events (s : State) (v : Word) : (setNsp s v).events = s.events := rfl
@[simp] theorem setNsp_eonce (s : State) (v : Word) : (setNsp s v).eonce = s.eonce := rfl
@[simp] theorem setNsp_params (s : State) (v : Word) : (setNsp s v).params = s.params := rfl
@[simp] theorem setNsp_lastPc (s : State) (v : Word) : (setNsp s v).lastPc = s.lastPc := rfl
@[simp] theorem setNsp_flowed (s : State) (v : Word) : (setNsp s v).flowed = s.flowed := rfl
@[simp] theorem setNsp_ifc (s : State) (v : Word) : (setNsp s v).ifc = s.ifc := rfl
@[simp] theorem setNsp_acc (s : State) (v : Word) : (setNsp s v).acc = s.acc := rfl
@[simp] theorem setNsp_emrEv (s : State) (v : Word) : (setNsp s v).emrEv = s.emrEv := rfl
@[simp] theorem setNsp_fresh (s : State) (v : Word) : (setNsp s v).fresh = s.fresh := rfl
@[simp] theorem dreg_setNsp (s : State) (v : Word) (k' : DReg) : dreg (setNsp s v) k' = dreg s k' := rfl
@[simp] theorem ltag_setNsp (s : State) (v : Word) (k' : DReg) : ltag (setNsp s v) k' = ltag s k' := rfl
@[simp] theorem rreg_setNsp (s : State) (v : Word) (k' : RReg) : rreg (setNsp s v) k' = rreg s k' := rfl
@[simp] theorem nreg_setNsp (s : State) (v : Word) (k' : Fin 4) : nreg (setNsp s v) k' = nreg s k' := rfl
@[simp] theorem mreg_setNsp (s : State) (v : Word) (k' : Fin 4) : mreg (setNsp s v) k' = mreg s k' := rfl
@[simp] theorem saReg_setNsp (s : State) (v : Word) (k' : LoopIx) : saReg (setNsp s v) k' = saReg s k' := rfl
@[simp] theorem lcReg_setNsp (s : State) (v : Word) (k' : LoopIx) : lcReg (setNsp s v) k' = lcReg s k' := rfl
@[simp] theorem byteAt_setNsp (s : State) (v : Word) (a' : Word) : byteAt (setNsp s v) a' = byteAt s a' := rfl
@[simp] theorem srBit_setNsp (s : State) (v : Word) (i' : Nat) : srBit (setNsp s v) i' = srBit s i' := rfl
@[simp] theorem expMode_setNsp (s : State) (v : Word) : expMode (setNsp s v) = expMode s := rfl
@[simp] theorem satMode_setNsp (s : State) (v : Word) : satMode (setNsp s v) = satMode s := rfl
@[simp] theorem scaling_setNsp (s : State) (v : Word) : scaling (setNsp s v) = scaling s := rfl
@[simp] theorem carry_setNsp (s : State) (v : Word) : carry (setNsp s v) = carry s := rfl
@[simp] theorem tBit_setNsp (s : State) (v : Word) : tBit (setNsp s v) = tBit s := rfl
@[simp] theorem bigEndian_setNsp (s : State) (v : Word) : bigEndian (setNsp s v) = bigEndian s := rfl
@[simp] theorem intMask_setNsp (s : State) (v : Word) : intMask (setNsp s v) = intMask s := rfl
@[simp] theorem shortLoop_setNsp (s : State) (v : Word) : shortLoop (setNsp s v) = shortLoop s := rfl

/-! ### setEsp -/

@[simp] theorem setEsp_d (s : State) (v : Word) : (setEsp s v).d = s.d := rfl
@[simp] theorem setEsp_l (s : State) (v : Word) : (setEsp s v).l = s.l := rfl
@[simp] theorem setEsp_r (s : State) (v : Word) : (setEsp s v).r = s.r := rfl
@[simp] theorem setEsp_n (s : State) (v : Word) : (setEsp s v).n = s.n := rfl
@[simp] theorem setEsp_m (s : State) (v : Word) : (setEsp s v).m = s.m := rfl
@[simp] theorem setEsp_mctl (s : State) (v : Word) : (setEsp s v).mctl = s.mctl := rfl
@[simp] theorem setEsp_nsp (s : State) (v : Word) : (setEsp s v).nsp = s.nsp := rfl
@[simp] theorem setEsp_esp (s : State) (v : Word) : (setEsp s v).esp = v &&& spMask := rfl
@[simp] theorem setEsp_pc (s : State) (v : Word) : (setEsp s v).pc = s.pc := rfl
@[simp] theorem setEsp_npc (s : State) (v : Word) : (setEsp s v).npc = s.npc := rfl
@[simp] theorem setEsp_sr (s : State) (v : Word) : (setEsp s v).sr = s.sr := rfl
@[simp] theorem setEsp_emr (s : State) (v : Word) : (setEsp s v).emr = s.emr := rfl
@[simp] theorem setEsp_vba (s : State) (v : Word) : (setEsp s v).vba = s.vba := rfl
@[simp] theorem setEsp_sa (s : State) (v : Word) : (setEsp s v).sa = s.sa := rfl
@[simp] theorem setEsp_lc (s : State) (v : Word) : (setEsp s v).lc = s.lc := rfl
@[simp] theorem setEsp_mem (s : State) (v : Word) : (setEsp s v).mem = s.mem := rfl
@[simp] theorem setEsp_proc (s : State) (v : Word) : (setEsp s v).proc = s.proc := rfl
@[simp] theorem setEsp_ras (s : State) (v : Word) : (setEsp s v).ras = s.ras := rfl
@[simp] theorem setEsp_rasValid (s : State) (v : Word) : (setEsp s v).rasValid = s.rasValid := rfl
@[simp] theorem setEsp_nspShadow (s : State) (v : Word) : (setEsp s v).nspShadow = s.nspShadow := rfl
@[simp] theorem setEsp_espShadow (s : State) (v : Word) : (setEsp s v).espShadow = s.espShadow := rfl
@[simp] theorem setEsp_reqIllegal (s : State) (v : Word) : (setEsp s v).reqIllegal = s.reqIllegal := rfl
@[simp] theorem setEsp_reqOverflow (s : State) (v : Word) : (setEsp s v).reqOverflow = s.reqOverflow := rfl
@[simp] theorem setEsp_reqDebug (s : State) (v : Word) : (setEsp s v).reqDebug = s.reqDebug := rfl
@[simp] theorem setEsp_window (s : State) (v : Word) : (setEsp s v).window = s.window := rfl
@[simp] theorem setEsp_delay (s : State) (v : Word) : (setEsp s v).delay = s.delay := rfl
@[simp] theorem setEsp_loopJump (s : State) (v : Word) : (setEsp s v).loopJump = s.loopJump := rfl
@[simp] theorem setEsp_ignoreA (s : State) (v : Word) : (setEsp s v).ignoreA = s.ignoreA := rfl
@[simp] theorem setEsp_ignoreB (s : State) (v : Word) : (setEsp s v).ignoreB = s.ignoreB := rfl
@[simp] theorem setEsp_inputs (s : State) (v : Word) : (setEsp s v).inputs = s.inputs := rfl
@[simp] theorem setEsp_events (s : State) (v : Word) : (setEsp s v).events = s.events := rfl
@[simp] theorem setEsp_eonce (s : State) (v : Word) : (setEsp s v).eonce = s.eonce := rfl
@[simp] theorem setEsp_params (s : State) (v : Word) : (setEsp s v).params = s.params := rfl
@[simp] theorem setEsp_lastPc (s : State) (v : Word) : (setEsp s v).lastPc = s.lastPc := rfl
@[simp] theorem setEsp_flowed (s : State) (v : Word) : (setEsp s v).flowed = s.flowed := rfl
@[simp] theorem setEsp_ifc (s : State) (v : Word) : (setEsp s v).ifc = s.ifc := rfl
@[simp] theorem setEsp_acc (s : State) (v : Word) : (setEsp s v).acc = s.acc := rfl
@[simp] theorem setEsp_emrEv (s : State) (v : Word) : (setEsp s v).emrEv = s.emrEv := rfl
@[simp] theorem setEsp_fresh (s : State) (v : Word) : (setEsp s v).fresh = s.fresh := rfl
@[simp] theorem dreg_setEsp (s : State) (v : Word) (k' : DReg) : dreg (setEsp s v) k' = dreg s k' := rfl
@[simp] theorem ltag_setEsp (s : State) (v : Word) (k' : DReg) : ltag (setEsp s v) k' = ltag s k' := rfl
@[simp] theorem rreg_setEsp (s : State) (v : Word) (k' : RReg) : rreg (setEsp s v) k' = rreg s k' := rfl
@[simp] theorem nreg_setEsp (s : State) (v : Word) (k' : Fin 4) : nreg (setEsp s v) k' = nreg s k' := rfl
@[simp] theorem mreg_setEsp (s : State) (v : Word) (k' : Fin 4) : mreg (setEsp s v) k' = mreg s k' := rfl
@[simp] theorem saReg_setEsp (s : State) (v : Word) (k' : LoopIx) : saReg (setEsp s v) k' = saReg s k' := rfl
@[simp] theorem lcReg_setEsp (s : State) (v : Word) (k' : LoopIx) : lcReg (setEsp s v) k' = lcReg s k' := rfl
@[simp] theorem byteAt_setEsp (s : State) (v : Word) (a' : Word) : byteAt (setEsp s v) a' = byteAt s a' := rfl
@[simp] theorem srBit_setEsp (s : State) (v : Word) (i' : Nat) : srBit (setEsp s v) i' = srBit s i' := rfl
@[simp] theorem expMode_setEsp (s : State) (v : Word) : expMode (setEsp s v) = expMode s := rfl
@[simp] theorem satMode_setEsp (s : State) (v : Word) : satMode (setEsp s v) = satMode s := rfl
@[simp] theorem scaling_setEsp (s : State) (v : Word) : scaling (setEsp s v) = scaling s := rfl
@[simp] theorem carry_setEsp (s : State) (v : Word) : carry (setEsp s v) = carry s := rfl
@[simp] theorem tBit_setEsp (s : State) (v : Word) : tBit (setEsp s v) = tBit s := rfl
@[simp] theorem bigEndian_setEsp (s : State) (v : Word) : bigEndian (setEsp s v) = bigEndian s := rfl
@[simp] theorem intMask_setEsp (s : State) (v : Word) : intMask (setEsp s v) = intMask s := rfl
@[simp] theorem shortLoop_setEsp (s : State) (v : Word) : shortLoop (setEsp s v) = shortLoop s := rfl

/-! ### dropRas -/

@[simp] theorem dropRas_d (s : State) : (dropRas s).d = s.d := rfl
@[simp] theorem dropRas_l (s : State) : (dropRas s).l = s.l := rfl
@[simp] theorem dropRas_r (s : State) : (dropRas s).r = s.r := rfl
@[simp] theorem dropRas_n (s : State) : (dropRas s).n = s.n := rfl
@[simp] theorem dropRas_m (s : State) : (dropRas s).m = s.m := rfl
@[simp] theorem dropRas_mctl (s : State) : (dropRas s).mctl = s.mctl := rfl
@[simp] theorem dropRas_nsp (s : State) : (dropRas s).nsp = s.nsp := rfl
@[simp] theorem dropRas_esp (s : State) : (dropRas s).esp = s.esp := rfl
@[simp] theorem dropRas_pc (s : State) : (dropRas s).pc = s.pc := rfl
@[simp] theorem dropRas_npc (s : State) : (dropRas s).npc = s.npc := rfl
@[simp] theorem dropRas_sr (s : State) : (dropRas s).sr = s.sr := rfl
@[simp] theorem dropRas_emr (s : State) : (dropRas s).emr = s.emr := rfl
@[simp] theorem dropRas_vba (s : State) : (dropRas s).vba = s.vba := rfl
@[simp] theorem dropRas_sa (s : State) : (dropRas s).sa = s.sa := rfl
@[simp] theorem dropRas_lc (s : State) : (dropRas s).lc = s.lc := rfl
@[simp] theorem dropRas_mem (s : State) : (dropRas s).mem = s.mem := rfl
@[simp] theorem dropRas_proc (s : State) : (dropRas s).proc = s.proc := rfl
@[simp] theorem dropRas_ras (s : State) : (dropRas s).ras = s.ras := rfl
@[simp] theorem dropRas_rasValid (s : State) : (dropRas s).rasValid = false := rfl
@[simp] theorem dropRas_nspShadow (s : State) : (dropRas s).nspShadow = s.nspShadow := rfl
@[simp] theorem dropRas_espShadow (s : State) : (dropRas s).espShadow = s.espShadow := rfl
@[simp] theorem dropRas_reqIllegal (s : State) : (dropRas s).reqIllegal = s.reqIllegal := rfl
@[simp] theorem dropRas_reqOverflow (s : State) : (dropRas s).reqOverflow = s.reqOverflow := rfl
@[simp] theorem dropRas_reqDebug (s : State) : (dropRas s).reqDebug = s.reqDebug := rfl
@[simp] theorem dropRas_window (s : State) : (dropRas s).window = s.window := rfl
@[simp] theorem dropRas_delay (s : State) : (dropRas s).delay = s.delay := rfl
@[simp] theorem dropRas_loopJump (s : State) : (dropRas s).loopJump = s.loopJump := rfl
@[simp] theorem dropRas_ignoreA (s : State) : (dropRas s).ignoreA = s.ignoreA := rfl
@[simp] theorem dropRas_ignoreB (s : State) : (dropRas s).ignoreB = s.ignoreB := rfl
@[simp] theorem dropRas_inputs (s : State) : (dropRas s).inputs = s.inputs := rfl
@[simp] theorem dropRas_events (s : State) : (dropRas s).events = s.events := rfl
@[simp] theorem dropRas_eonce (s : State) : (dropRas s).eonce = s.eonce := rfl
@[simp] theorem dropRas_params (s : State) : (dropRas s).params = s.params := rfl
@[simp] theorem dropRas_lastPc (s : State) : (dropRas s).lastPc = s.lastPc := rfl
@[simp] theorem dropRas_flowed (s : State) : (dropRas s).flowed = s.flowed := rfl
@[simp] theorem dropRas_ifc (s : State) : (dropRas s).ifc = s.ifc := rfl
@[simp] theorem dropRas_acc (s : State) : (dropRas s).acc = s.acc := rfl
@[simp] theorem dropRas_emrEv (s : State) : (dropRas s).emrEv = s.emrEv := rfl
@[simp] theorem dropRas_fresh (s : State) : (dropRas s).fresh = s.fresh := rfl
@[simp] theorem dreg_dropRas (s : State) (k' : DReg) : dreg (dropRas s) k' = dreg s k' := rfl
@[simp] theorem ltag_dropRas (s : State) (k' : DReg) : ltag (dropRas s) k' = ltag s k' := rfl
@[simp] theorem rreg_dropRas (s : State) (k' : RReg) : rreg (dropRas s) k' = rreg s k' := rfl
@[simp] theorem nreg_dropRas (s : State) (k' : Fin 4) : nreg (dropRas s) k' = nreg s k' := rfl
@[simp] theorem mreg_dropRas (s : State) (k' : Fin 4) : mreg (dropRas s) k' = mreg s k' := rfl
@[simp] theorem saReg_dropRas (s : State) (k' : LoopIx) : saReg (dropRas s) k' = saReg s k' := rfl
@[simp] theorem lcReg_dropRas (s : State) (k' : LoopIx) : lcReg (dropRas s) k' = lcReg s k' := rfl
@[simp] theorem byteAt_dropRas (s : State) (a' : Word) : byteAt (dropRas s) a' = byteAt s a' := rfl
@[simp] theorem srBit_dropRas (s : State) (i' : Nat) : srBit (dropRas s) i' = srBit s i' := rfl
@[simp] theorem spOf_dropRas (s : State) : spOf (dropRas s) = spOf s := rfl
@[simp] theorem expMode_dropRas (s : State) : expMode (dropRas s) = expMode s := rfl
@[simp] theorem satMode_dropRas (s : State) : satMode (dropRas s) = satMode s := rfl
@[simp] theorem scaling_dropRas (s : State) : scaling (dropRas s) = scaling s := rfl
@[simp] theorem carry_dropRas (s : State) : carry (dropRas s) = carry s := rfl
@[simp] theorem tBit_dropRas (s : State) : tBit (dropRas s) = tBit s := rfl
@[simp] theorem bigEndian_dropRas (s : State) : bigEndian (dropRas s) = bigEndian s := rfl
@[simp] theorem intMask_dropRas (s : State) : intMask (dropRas s) = intMask s := rfl
@[simp] theorem shortLoop_dropRas (s : State) : shortLoop (dropRas s) = shortLoop s := rfl

/-! ### setNspShadow -/

@[simp] theorem setNspShadow_d (s : State) (b : Bool) : (setNspShadow s b).d = s.d := rfl
@[simp] theorem setNspShadow_l (s : State) (b : Bool) : (setNspShadow s b).l = s.l := rfl
@[simp] theorem setNspShadow_r (s : State) (b : Bool) : (setNspShadow s b).r = s.r := rfl
@[simp] theorem setNspShadow_n (s : State) (b : Bool) : (setNspShadow s b).n = s.n := rfl
@[simp] theorem setNspShadow_m (s : State) (b : Bool) : (setNspShadow s b).m = s.m := rfl
@[simp] theorem setNspShadow_mctl (s : State) (b : Bool) : (setNspShadow s b).mctl = s.mctl := rfl
@[simp] theorem setNspShadow_nsp (s : State) (b : Bool) : (setNspShadow s b).nsp = s.nsp := rfl
@[simp] theorem setNspShadow_esp (s : State) (b : Bool) : (setNspShadow s b).esp = s.esp := rfl
@[simp] theorem setNspShadow_pc (s : State) (b : Bool) : (setNspShadow s b).pc = s.pc := rfl
@[simp] theorem setNspShadow_npc (s : State) (b : Bool) : (setNspShadow s b).npc = s.npc := rfl
@[simp] theorem setNspShadow_sr (s : State) (b : Bool) : (setNspShadow s b).sr = s.sr := rfl
@[simp] theorem setNspShadow_emr (s : State) (b : Bool) : (setNspShadow s b).emr = s.emr := rfl
@[simp] theorem setNspShadow_vba (s : State) (b : Bool) : (setNspShadow s b).vba = s.vba := rfl
@[simp] theorem setNspShadow_sa (s : State) (b : Bool) : (setNspShadow s b).sa = s.sa := rfl
@[simp] theorem setNspShadow_lc (s : State) (b : Bool) : (setNspShadow s b).lc = s.lc := rfl
@[simp] theorem setNspShadow_mem (s : State) (b : Bool) : (setNspShadow s b).mem = s.mem := rfl
@[simp] theorem setNspShadow_proc (s : State) (b : Bool) : (setNspShadow s b).proc = s.proc := rfl
@[simp] theorem setNspShadow_ras (s : State) (b : Bool) : (setNspShadow s b).ras = s.ras := rfl
@[simp] theorem setNspShadow_rasValid (s : State) (b : Bool) : (setNspShadow s b).rasValid = s.rasValid := rfl
@[simp] theorem setNspShadow_nspShadow (s : State) (b : Bool) : (setNspShadow s b).nspShadow = b := rfl
@[simp] theorem setNspShadow_espShadow (s : State) (b : Bool) : (setNspShadow s b).espShadow = s.espShadow := rfl
@[simp] theorem setNspShadow_reqIllegal (s : State) (b : Bool) : (setNspShadow s b).reqIllegal = s.reqIllegal := rfl
@[simp] theorem setNspShadow_reqOverflow (s : State) (b : Bool) : (setNspShadow s b).reqOverflow = s.reqOverflow := rfl
@[simp] theorem setNspShadow_reqDebug (s : State) (b : Bool) : (setNspShadow s b).reqDebug = s.reqDebug := rfl
@[simp] theorem setNspShadow_window (s : State) (b : Bool) : (setNspShadow s b).window = s.window := rfl
@[simp] theorem setNspShadow_delay (s : State) (b : Bool) : (setNspShadow s b).delay = s.delay := rfl
@[simp] theorem setNspShadow_loopJump (s : State) (b : Bool) : (setNspShadow s b).loopJump = s.loopJump := rfl
@[simp] theorem setNspShadow_ignoreA (s : State) (b : Bool) : (setNspShadow s b).ignoreA = s.ignoreA := rfl
@[simp] theorem setNspShadow_ignoreB (s : State) (b : Bool) : (setNspShadow s b).ignoreB = s.ignoreB := rfl
@[simp] theorem setNspShadow_inputs (s : State) (b : Bool) : (setNspShadow s b).inputs = s.inputs := rfl
@[simp] theorem setNspShadow_events (s : State) (b : Bool) : (setNspShadow s b).events = s.events := rfl
@[simp] theorem setNspShadow_eonce (s : State) (b : Bool) : (setNspShadow s b).eonce = s.eonce := rfl
@[simp] theorem setNspShadow_params (s : State) (b : Bool) : (setNspShadow s b).params = s.params := rfl
@[simp] theorem setNspShadow_lastPc (s : State) (b : Bool) : (setNspShadow s b).lastPc = s.lastPc := rfl
@[simp] theorem setNspShadow_flowed (s : State) (b : Bool) : (setNspShadow s b).flowed = s.flowed := rfl
@[simp] theorem setNspShadow_ifc (s : State) (b : Bool) : (setNspShadow s b).ifc = s.ifc := rfl
@[simp] theorem setNspShadow_acc (s : State) (b : Bool) : (setNspShadow s b).acc = s.acc := rfl
@[simp] theorem setNspShadow_emrEv (s : State) (b : Bool) : (setNspShadow s b).emrEv = s.emrEv := rfl
@[simp] theorem setNspShadow_fresh (s : State) (b : Bool) : (setNspShadow s b).fresh = s.fresh := rfl
@[simp] theorem dreg_setNspShadow (s : State) (b : Bool) (k' : DReg) : dreg (setNspShadow s b) k' = dreg s k' := rfl
@[simp] theorem ltag_setNspShadow (s : State) (b : Bool) (k' : DReg) : ltag (setNspShadow s b) k' = ltag s k' := rfl
@[simp] theorem rreg_setNspShadow (s : State) (b : Bool) (k' : RReg) : rreg (setNspShadow s b) k' = rreg s k' := rfl
@[simp] theorem nreg_setNspShadow (s : State) (b : Bool) (k' : Fin 4) : nreg (setNspShadow s b) k' = nreg s k' := rfl
@[simp] theorem mreg_setNspShadow (s : State) (b : Bool) (k' : Fin 4) : mreg (setNspShadow s b) k' = mreg s k' := rfl
@[simp] theorem saReg_setNspShadow (s : State) (b : Bool) (k' : LoopIx) : saReg (setNspShadow s b) k' = saReg s k' := rfl
@[simp] theorem lcReg_setNspShadow (s : State) (b : Bool) (k' : LoopIx) : lcReg (setNspShadow s b) k' = lcReg s k' := rfl
@[simp] theorem byteAt_setNspShadow (s : State) (b : Bool) (a' : Word) : byteAt (setNspShadow s b) a' = byteAt s a' := rfl
@[simp] theorem srBit_setNspShadow (s : State) (b : Bool) (i' : Nat) : srBit (setNspShadow s b) i' = srBit s i' := rfl
@[simp] theorem spOf_setNspShadow (s : State) (b : Bool) : spOf (setNspShadow s b) = spOf s := rfl
@[simp] theorem expMode_setNspShadow (s : State) (b : Bool) : expMode (setNspShadow s b) = expMode s := rfl
@[simp] theorem satMode_setNspShadow (s : State) (b : Bool) : satMode (setNspShadow s b) = satMode s := rfl
@[simp] theorem scaling_setNspShadow (s : State) (b : Bool) : scaling (setNspShadow s b) = scaling s := rfl
@[simp] theorem carry_setNspShadow (s : State) (b : Bool) : carry (setNspShadow s b) = carry s := rfl
@[simp] theorem tBit_setNspShadow (s : State) (b : Bool) : tBit (setNspShadow s b) = tBit s := rfl
@[simp] theorem bigEndian_setNspShadow (s : State) (b : Bool) : bigEndian (setNspShadow s b) = bigEndian s := rfl
@[simp] theorem intMask_setNspShadow (s : State) (b : Bool) : intMask (setNspShadow s b) = intMask s := rfl
@[simp] theorem shortLoop_setNspShadow (s : State) (b : Bool) : shortLoop (setNspShadow s b) = shortLoop s := rfl

/-! ### setEspShadow -/

@[simp] theorem setEspShadow_d (s : State) (b : Bool) : (setEspShadow s b).d = s.d := rfl
@[simp] theorem setEspShadow_l (s : State) (b : Bool) : (setEspShadow s b).l = s.l := rfl
@[simp] theorem setEspShadow_r (s : State) (b : Bool) : (setEspShadow s b).r = s.r := rfl
@[simp] theorem setEspShadow_n (s : State) (b : Bool) : (setEspShadow s b).n = s.n := rfl
@[simp] theorem setEspShadow_m (s : State) (b : Bool) : (setEspShadow s b).m = s.m := rfl
@[simp] theorem setEspShadow_mctl (s : State) (b : Bool) : (setEspShadow s b).mctl = s.mctl := rfl
@[simp] theorem setEspShadow_nsp (s : State) (b : Bool) : (setEspShadow s b).nsp = s.nsp := rfl
@[simp] theorem setEspShadow_esp (s : State) (b : Bool) : (setEspShadow s b).esp = s.esp := rfl
@[simp] theorem setEspShadow_pc (s : State) (b : Bool) : (setEspShadow s b).pc = s.pc := rfl
@[simp] theorem setEspShadow_npc (s : State) (b : Bool) : (setEspShadow s b).npc = s.npc := rfl
@[simp] theorem setEspShadow_sr (s : State) (b : Bool) : (setEspShadow s b).sr = s.sr := rfl
@[simp] theorem setEspShadow_emr (s : State) (b : Bool) : (setEspShadow s b).emr = s.emr := rfl
@[simp] theorem setEspShadow_vba (s : State) (b : Bool) : (setEspShadow s b).vba = s.vba := rfl
@[simp] theorem setEspShadow_sa (s : State) (b : Bool) : (setEspShadow s b).sa = s.sa := rfl
@[simp] theorem setEspShadow_lc (s : State) (b : Bool) : (setEspShadow s b).lc = s.lc := rfl
@[simp] theorem setEspShadow_mem (s : State) (b : Bool) : (setEspShadow s b).mem = s.mem := rfl
@[simp] theorem setEspShadow_proc (s : State) (b : Bool) : (setEspShadow s b).proc = s.proc := rfl
@[simp] theorem setEspShadow_ras (s : State) (b : Bool) : (setEspShadow s b).ras = s.ras := rfl
@[simp] theorem setEspShadow_rasValid (s : State) (b : Bool) : (setEspShadow s b).rasValid = s.rasValid := rfl
@[simp] theorem setEspShadow_nspShadow (s : State) (b : Bool) : (setEspShadow s b).nspShadow = s.nspShadow := rfl
@[simp] theorem setEspShadow_espShadow (s : State) (b : Bool) : (setEspShadow s b).espShadow = b := rfl
@[simp] theorem setEspShadow_reqIllegal (s : State) (b : Bool) : (setEspShadow s b).reqIllegal = s.reqIllegal := rfl
@[simp] theorem setEspShadow_reqOverflow (s : State) (b : Bool) : (setEspShadow s b).reqOverflow = s.reqOverflow := rfl
@[simp] theorem setEspShadow_reqDebug (s : State) (b : Bool) : (setEspShadow s b).reqDebug = s.reqDebug := rfl
@[simp] theorem setEspShadow_window (s : State) (b : Bool) : (setEspShadow s b).window = s.window := rfl
@[simp] theorem setEspShadow_delay (s : State) (b : Bool) : (setEspShadow s b).delay = s.delay := rfl
@[simp] theorem setEspShadow_loopJump (s : State) (b : Bool) : (setEspShadow s b).loopJump = s.loopJump := rfl
@[simp] theorem setEspShadow_ignoreA (s : State) (b : Bool) : (setEspShadow s b).ignoreA = s.ignoreA := rfl
@[simp] theorem setEspShadow_ignoreB (s : State) (b : Bool) : (setEspShadow s b).ignoreB = s.ignoreB := rfl
@[simp] theorem setEspShadow_inputs (s : State) (b : Bool) : (setEspShadow s b).inputs = s.inputs := rfl
@[simp] theorem setEspShadow_events (s : State) (b : Bool) : (setEspShadow s b).events = s.events := rfl
@[simp] theorem setEspShadow_eonce (s : State) (b : Bool) : (setEspShadow s b).eonce = s.eonce := rfl
@[simp] theorem setEspShadow_params (s : State) (b : Bool) : (setEspShadow s b).params = s.params := rfl
@[simp] theorem setEspShadow_lastPc (s : State) (b : Bool) : (setEspShadow s b).lastPc = s.lastPc := rfl
@[simp] theorem setEspShadow_flowed (s : State) (b : Bool) : (setEspShadow s b).flowed = s.flowed := rfl
@[simp] theorem setEspShadow_ifc (s : State) (b : Bool) : (setEspShadow s b).ifc = s.ifc := rfl
@[simp] theorem setEspShadow_acc (s : State) (b : Bool) : (setEspShadow s b).acc = s.acc := rfl
@[simp] theorem setEspShadow_emrEv (s : State) (b : Bool) : (setEspShadow s b).emrEv = s.emrEv := rfl
@[simp] theorem setEspShadow_fresh (s : State) (b : Bool) : (setEspShadow s b).fresh = s.fresh := rfl
@[simp] theorem dreg_setEspShadow (s : State) (b : Bool) (k' : DReg) : dreg (setEspShadow s b) k' = dreg s k' := rfl
@[simp] theorem ltag_setEspShadow (s : State) (b : Bool) (k' : DReg) : ltag (setEspShadow s b) k' = ltag s k' := rfl
@[simp] theorem rreg_setEspShadow (s : State) (b : Bool) (k' : RReg) : rreg (setEspShadow s b) k' = rreg s k' := rfl
@[simp] theorem nreg_setEspShadow (s : State) (b : Bool) (k' : Fin 4) : nreg (setEspShadow s b) k' = nreg s k' := rfl
@[simp] theorem mreg_setEspShadow (s : State) (b : Bool) (k' : Fin 4) : mreg (setEspShadow s b) k' = mreg s k' := rfl
@[simp] theorem saReg_setEspShadow (s : State) (b : Bool) (k' : LoopIx) : saReg (setEspShadow s b) k' = saReg s k' := rfl
@[simp] theorem lcReg_setEspShadow (s : State) (b : Bool) (k' : LoopIx) : lcReg (setEspShadow s b) k' = lcReg s k' := rfl
@[simp] theorem byteAt_setEspShadow (s : State) (b : Bool) (a' : Word) : byteAt (setEspShadow s b) a' = byteAt s a' := rfl
@[simp] theorem srBit_setEspShadow (s : State) (b : Bool) (i' : Nat) : srBit (setEspShadow s b) i' = srBit s i' := rfl
@[simp] theorem spOf_setEspShadow (s : State) (b : Bool) : spOf (setEspShadow s b) = spOf s := rfl
@[simp] theorem expMode_setEspShadow (s : State) (b : Bool) : expMode (setEspShadow s b) = expMode s := rfl
@[simp] theorem satMode_setEspShadow (s : State) (b : Bool) : satMode (setEspShadow s b) = satMode s := rfl
@[simp] theorem scaling_setEspShadow (s : State) (b : Bool) : scaling (setEspShadow s b) = scaling s := rfl
@[simp] theorem carry_setEspShadow (s : State) (b : Bool) : carry (setEspShadow s b) = carry s := rfl
@[simp] theorem tBit_setEspShadow (s : State) (b : Bool) : tBit (setEspShadow s b) = tBit s := rfl
@[simp] theorem bigEndian_setEspShadow (s : State) (b : Bool) : bigEndian (setEspShadow s b) = bigEndian s := rfl
@[simp] theorem intMask_setEspShadow (s : State) (b : Bool) : intMask (setEspShadow s b) = intMask s := rfl
@[simp] theorem shortLoop_setEspShadow (s : State) (b : Bool) : shortLoop (setEspShadow s b) = shortLoop s := rfl

/-! ### goTo -/

@[simp] theorem goTo_d (s : State) (v : Word) : (goTo s v).d = s.d := rfl
@[simp] theorem goTo_l (s : State) (v : Word) : (goTo s v).l = s.l := rfl
@[simp] theorem goTo_r (s : State) (v : Word) : (goTo s v).r = s.r := rfl
@[simp] theorem goTo_n (s : State) (v : Word) : (goTo s v).n = s.n := rfl
@[simp] theorem goTo_m (s : State) (v : Word) : (goTo s v).m = s.m := rfl
@[simp] theorem goTo_mctl (s : State) (v : Word) : (goTo s v).mctl = s.mctl := rfl
@[simp] theorem goTo_nsp (s : State) (v : Word) : (goTo s v).nsp = s.nsp := rfl
@[simp] theorem goTo_esp (s : State) (v : Word) : (goTo s v).esp = s.esp := rfl
@[simp] theorem goTo_pc (s : State) (v : Word) : (goTo s v).pc = s.pc := rfl
@[simp] theorem goTo_npc (s : State) (v : Word) : (goTo s v).npc = v &&& pcMask := rfl
@[simp] theorem goTo_sr (s : State) (v : Word) : (goTo s v).sr = s.sr := rfl
@[simp] theorem goTo_emr (s : State) (v : Word) : (goTo s v).emr = s.emr := rfl
@[simp] theorem goTo_vba (s : State) (v : Word) : (goTo s v).vba = s.vba := rfl
@[simp] theorem goTo_sa (s : State) (v : Word) : (goTo s v).sa = s.sa := rfl
@[simp] theorem goTo_lc (s : State) (v : Word) : (goTo s v).lc = s.lc := rfl
@[simp] theorem goTo_mem (s : State) (v : Word) : (goTo s v).mem = s.mem := rfl
@[simp] theorem goTo_proc (s : State) (v : Word) : (goTo s v).proc = s.proc := rfl
@[simp] theorem goTo_ras (s : State) (v : Word) : (goTo s v).ras = s.ras := rfl
@[simp] theorem goTo_rasValid (s : State) (v : Word) : (goTo s v).rasValid = s.rasValid := rfl
@[simp] theorem goTo_nspShadow (s : State) (v : Word) : (goTo s v).nspShadow = s.nspShadow := rfl
@[simp] theorem goTo_espShadow (s : State) (v : Word) : (goTo s v).espShadow = s.espShadow := rfl
@[simp] theorem goTo_reqIllegal (s : State) (v : Word) : (goTo s v).reqIllegal = s.reqIllegal := rfl
@[simp] theorem goTo_reqOverflow (s : State) (v : Word) : (goTo s v).reqOverflow = s.reqOverflow := rfl
@[simp] theorem goTo_reqDebug (s : State) (v : Word) : (goTo s v).reqDebug = s.reqDebug := rfl
@[simp] theorem goTo_window (s : State) (v : Word) : (goTo s v).window = s.window := rfl
@[simp] theorem goTo_delay (s : State) (v : Word) : (goTo s v).delay = s.delay := rfl
@[simp] theorem goTo_loopJump (s : State) (v : Word) : (goTo s v).loopJump = s.loopJump := rfl
@[simp] theorem goTo_ignoreA (s : State) (v : Word) : (goTo s v).ignoreA = s.ignoreA := rfl
@[simp] theorem goTo_ignoreB (s : State) (v : Word) : (goTo s v).ignoreB = s.ignoreB := rfl
@[simp] theorem goTo_inputs (s : State) (v : Word) : (goTo s v).inputs = s.inputs := rfl
@[simp] theorem goTo_events (s : State) (v : Word) : (goTo s v).events = s.events := rfl
@[simp] theorem goTo_eonce (s : State) (v : Word) : (goTo s v).eonce = s.eonce := rfl
@[simp] theorem goTo_params (s : State) (v : Word) : (goTo s v).params = s.params := rfl
@[simp] theorem goTo_lastPc (s : State) (v : Word) : (goTo s v).lastPc = s.lastPc := rfl
@[simp] theorem goTo_flowed (s : State) (v : Word) : (goTo s v).flowed = s.flowed := rfl
@[simp] theorem goTo_ifc (s : State) (v : Word) : (goTo s v).ifc = s.ifc := rfl
@[simp] theorem goTo_acc (s : State) (v : Word) : (goTo s v).acc = s.acc := rfl
@[simp] theorem goTo_emrEv (s : State) (v : Word) : (goTo s v).emrEv = s.emrEv := rfl
@[simp] theorem goTo_fresh (s : State) (v : Word) : (goTo s v).fresh = s.fresh := rfl
@[simp] theorem dreg_goTo (s : State) (v : Word) (k' : DReg) : dreg (goTo s v) k' = dreg s k' := rfl
@[simp] theorem ltag_goTo (s : State) (v : Word) (k' : DReg) : ltag (goTo s v) k' = ltag s k' := rfl
@[simp] theorem rreg_goTo (s : State) (v : Word) (k' : RReg) : rreg (goTo s v) k' = rreg s k' := rfl
@[simp] theorem nreg_goTo (s : State) (v : Word) (k' : Fin 4) : nreg (goTo s v) k' = nreg s k' := rfl
@[simp] theorem mreg_goTo (s : State) (v : Word) (k' : Fin 4) : mreg (goTo s v) k' = mreg s k' := rfl
@[simp] theorem saReg_goTo (s : State) (v : Word) (k' : LoopIx) : saReg (goTo s v) k' = saReg s k' := rfl
@[simp] theorem lcReg_goTo (s : State) (v : Word) (k' : LoopIx) : lcReg (goTo s v) k' = lcReg s k' := rfl
@[simp] theorem byteAt_goTo (s : State) (v : Word) (a' : Word) : byteAt (goTo s v) a' = byteAt s a' := rfl
@[simp] theorem srBit_goTo (s : State) (v : Word) (i' : Nat) : srBit (goTo s v) i' = srBit s i' := rfl
@[simp] theorem spOf_goTo (s : State) (v : Word) : spOf (goTo s v) = spOf s := rfl
@[simp] theorem expMode_goTo (s : State) (v : Word) : expMode (goTo s v) = expMode s := rfl
@[simp] theorem satMode_goTo (s : State) (v : Word) : satMode (goTo s v) = satMode s := rfl
@[simp] theorem scaling_goTo (s : State) (v : Word) : scaling (goTo s v) = scaling s := rfl
@[simp] theorem carry_goTo (s : State) (v : Word) : carry (goTo s v) = carry s := rfl
@[simp] theorem tBit_goTo (s : State) (v : Word) : tBit (goTo s v) = tBit s := rfl
@[simp] theorem bigEndian_goTo (s : State) (v : Word) : bigEndian (goTo s v) = bigEndian s := rfl
@[simp] theorem intMask_goTo (s : State) (v : Word) : intMask (goTo s v) = intMask s := rfl
@[simp] theorem shortLoop_goTo (s : State) (v : Word) : shortLoop (goTo s v) = shortLoop s := rfl

/-! ### jumpTo -/

@[simp] theorem jumpTo_d (s : State) (v : Word) : (jumpTo s v).d = s.d := rfl
@[simp] theorem jumpTo_l (s : State) (v : Word) : (jumpTo s v).l = s.l := rfl
@[simp] theorem jumpTo_r (s : State) (v : Word) : (jumpTo s v).r = s.r := rfl
@[simp] theorem jumpTo_n (s : State) (v : Word) : (jumpTo s v).n = s.n := rfl
@[simp] theorem jumpTo_m (s : State) (v : Word) : (jumpTo s v).m = s.m := rfl
@[simp] theorem jumpTo_mctl (s : State) (v : Word) : (jumpTo s v).mctl = s.mctl := rfl
@[simp] theorem jumpTo_nsp (s : State) (v : Word) : (jumpTo s v).nsp = s.nsp := rfl
@[simp] theorem jumpTo_esp (s : State) (v : Word) : (jumpTo s v).esp = s.esp := rfl
@[simp] theorem jumpTo_pc (s : State) (v : Word) : (jumpTo s v).pc = s.pc := rfl
@[simp] theorem jumpTo_npc (s : State) (v : Word) : (jumpTo s v).npc = v &&& pcMask := rfl
@[simp] theorem jumpTo_sr (s : State) (v : Word) : (jumpTo s v).sr = s.sr := rfl
@[simp] theorem jumpTo_emr (s : State) (v : Word) : (jumpTo s v).emr = s.emr := rfl
@[simp] theorem jumpTo_vba (s : State) (v : Word) : (jumpTo s v).vba = s.vba := rfl
@[simp] theorem jumpTo_sa (s : State) (v : Word) : (jumpTo s v).sa = s.sa := rfl
@[simp] theorem jumpTo_lc (s : State) (v : Word) : (jumpTo s v).lc = s.lc := rfl
@[simp] theorem jumpTo_mem (s : State) (v : Word) : (jumpTo s v).mem = s.mem := rfl
@[simp] theorem jumpTo_proc (s : State) (v : Word) : (jumpTo s v).proc = s.proc := rfl
@[simp] theorem jumpTo_ras (s : State) (v : Word) : (jumpTo s v).ras = s.ras := rfl
@[simp] theorem jumpTo_rasValid (s : State) (v : Word) : (jumpTo s v).rasValid = s.rasValid := rfl
@[simp] theorem jumpTo_nspShadow (s : State) (v : Word) : (jumpTo s v).nspShadow = s.nspShadow := rfl
@[simp] theorem jumpTo_espShadow (s : State) (v : Word) : (jumpTo s v).espShadow = s.espShadow := rfl
@[simp] theorem jumpTo_reqIllegal (s : State) (v : Word) : (jumpTo s v).reqIllegal = s.reqIllegal := rfl
@[simp] theorem jumpTo_reqOverflow (s : State) (v : Word) : (jumpTo s v).reqOverflow = s.reqOverflow := rfl
@[simp] theorem jumpTo_reqDebug (s : State) (v : Word) : (jumpTo s v).reqDebug = s.reqDebug := rfl
@[simp] theorem jumpTo_window (s : State) (v : Word) : (jumpTo s v).window = s.window := rfl
@[simp] theorem jumpTo_delay (s : State) (v : Word) : (jumpTo s v).delay = s.delay := rfl
@[simp] theorem jumpTo_loopJump (s : State) (v : Word) : (jumpTo s v).loopJump = s.loopJump := rfl
@[simp] theorem jumpTo_ignoreA (s : State) (v : Word) : (jumpTo s v).ignoreA = s.ignoreA := rfl
@[simp] theorem jumpTo_ignoreB (s : State) (v : Word) : (jumpTo s v).ignoreB = s.ignoreB := rfl
@[simp] theorem jumpTo_inputs (s : State) (v : Word) : (jumpTo s v).inputs = s.inputs := rfl
@[simp] theorem jumpTo_events (s : State) (v : Word) : (jumpTo s v).events = s.events := rfl
@[simp] theorem jumpTo_eonce (s : State) (v : Word) : (jumpTo s v).eonce = s.eonce := rfl
@[simp] theorem jumpTo_params (s : State) (v : Word) : (jumpTo s v).params = s.params := rfl
@[simp] theorem jumpTo_lastPc (s : State) (v : Word) : (jumpTo s v).lastPc = s.lastPc := rfl
@[simp] theorem jumpTo_flowed (s : State) (v : Word) : (jumpTo s v).flowed = true := rfl
@[simp] theorem jumpTo_ifc (s : State) (v : Word) : (jumpTo s v).ifc = s.ifc := rfl
@[simp] theorem jumpTo_acc (s : State) (v : Word) : (jumpTo s v).acc = s.acc := rfl
@[simp] theorem jumpTo_emrEv (s : State) (v : Word) : (jumpTo s v).emrEv = s.emrEv := rfl
@[simp] theorem jumpTo_fresh (s : State) (v : Word) : (jumpTo s v).fresh = s.fresh := rfl
@[simp] theorem dreg_jumpTo (s : State) (v : Word) (k' : DReg) : dreg (jumpTo s v) k' = dreg s k' := rfl
@[simp] theorem ltag_jumpTo (s : State) (v : Word) (k' : DReg) : ltag (jumpTo s v) k' = ltag s k' := rfl
@[simp] theorem rreg_jumpTo (s : State) (v : Word) (k' : RReg) : rreg (jumpTo s v) k' = rreg s k' := rfl
@[simp] theorem nreg_jumpTo (s : State) (v : Word) (k' : Fin 4) : nreg (jumpTo s v) k' = nreg s k' := rfl
@[simp] theorem mreg_jumpTo (s : State) (v : Word) (k' : Fin 4) : mreg (jumpTo s v) k' = mreg s k' := rfl
@[simp] theorem saReg_jumpTo (s : State) (v : Word) (k' : LoopIx) : saReg (jumpTo s v) k' = saReg s k' := rfl
@[simp] theorem lcReg_jumpTo (s : State) (v : Word) (k' : LoopIx) : lcReg (jumpTo s v) k' = lcReg s k' := rfl
@[simp] theorem byteAt_jumpTo (s : State) (v : Word) (a' : Word) : byteAt (jumpTo s v) a' = byteAt s a' := rfl
@[simp] theorem srBit_jumpTo (s : State) (v : Word) (i' : Nat) : srBit (jumpTo s v) i' = srBit s i' := rfl
@[simp] theorem spOf_jumpTo (s : State) (v : Word) : spOf (jumpTo s v) = spOf s := rfl
@[simp] theorem expMode_jumpTo (s : State) (v : Word) : expMode (jumpTo s v) = expMode s := rfl
@[simp] theorem satMode_jumpTo (s : State) (v : Word) : satMode (jumpTo s v) = satMode s := rfl
@[simp] theorem scaling_jumpTo (s : State) (v : Word) : scaling (jumpTo s v) = scaling s := rfl
@[simp] theorem carry_jumpTo (s : State) (v : Word) : carry (jumpTo s v) = carry s := rfl
@[simp] theorem tBit_jumpTo (s : State) (v : Word) : tBit (jumpTo s v) = tBit s := rfl
@[simp] theorem bigEndian_jumpTo (s : State) (v : Word) : bigEndian (jumpTo s v) = bigEndian s := rfl
@[simp] theorem intMask_jumpTo (s : State) (v : Word) : intMask (jumpTo s v) = intMask s := rfl
@[simp] theorem shortLoop_jumpTo (s : State) (v : Word) : shortLoop (jumpTo s v) = shortLoop s := rfl

/-! ### putByte -/

@[simp] theorem putByte_d (s : State) (a : Word) (v : Byte) : (putByte s a v).d = s.d := rfl
@[simp] theorem putByte_l (s : State) (a : Word) (v : Byte) : (putByte s a v).l = s.l := rfl
@[simp] theorem putByte_r (s : State) (a : Word) (v : Byte) : (putByte s a v).r = s.r := rfl
@[simp] theorem putByte_n (s : State) (a : Word) (v : Byte) : (putByte s a v).n = s.n := rfl
@[simp] theorem putByte_m (s : State) (a : Word) (v : Byte) : (putByte s a v).m = s.m := rfl
@[simp] theorem putByte_mctl (s : State) (a : Word) (v : Byte) : (putByte s a v).mctl = s.mctl := rfl
@[simp] theorem putByte_nsp (s : State) (a : Word) (v : Byte) : (putByte s a v).nsp = s.nsp := rfl
@[simp] theorem putByte_esp (s : State) (a : Word) (v : Byte) : (putByte s a v).esp = s.esp := rfl
@[simp] theorem putByte_pc (s : State) (a : Word) (v : Byte) : (putByte s a v).pc = s.pc := rfl
@[simp] theorem putByte_npc (s : State) (a : Word) (v : Byte) : (putByte s a v).npc = s.npc := rfl
@[simp] theorem putByte_sr (s : State) (a : Word) (v : Byte) : (putByte s a v).sr = s.sr := rfl
@[simp] theorem putByte_emr (s : State) (a : Word) (v : Byte) : (putByte s a v).emr = s.emr := rfl
@[simp] theorem putByte_vba (s : State) (a : Word) (v : Byte) : (putByte s a v).vba = s.vba := rfl
@[simp] theorem putByte_sa (s : State) (a : Word) (v : Byte) : (putByte s a v).sa = s.sa := rfl
@[simp] theorem putByte_lc (s : State) (a : Word) (v : Byte) : (putByte s a v).lc = s.lc := rfl
@[simp] theorem putByte_mem (s : State) (a : Word) (v : Byte) : (putByte s a v).mem = s.mem.put a.toNat v := rfl
@[simp] theorem putByte_proc (s : State) (a : Word) (v : Byte) : (putByte s a v).proc = s.proc := rfl
@[simp] theorem putByte_ras (s : State) (a : Word) (v : Byte) : (putByte s a v).ras = s.ras := rfl
@[simp] theorem putByte_rasValid (s : State) (a : Word) (v : Byte) : (putByte s a v).rasValid = s.rasValid := rfl
@[simp] theorem putByte_nspShadow (s : State) (a : Word) (v : Byte) : (putByte s a v).nspShadow = s.nspShadow := rfl
@[simp] theorem putByte_espShadow (s : State) (a : Word) (v : Byte) : (putByte s a v).espShadow = s.espShadow := rfl
@[simp] theorem putByte_reqIllegal (s : State) (a : Word) (v : Byte) : (putByte s a v).reqIllegal = s.reqIllegal := rfl
@[simp] theorem putByte_reqOverflow (s : State) (a : Word) (v : Byte) : (putByte s a v).reqOverflow = s.reqOverflow := rfl
@[simp] theorem putByte_reqDebug (s : State) (a : Word) (v : Byte) : (putByte s a v).reqDebug = s.reqDebug := rfl
@[simp] theorem putByte_window (s : State) (a : Word) (v : Byte) : (putByte s a v).window = s.window := rfl
@[simp] theorem putByte_delay (s : State) (a : Word) (v : Byte) : (putByte s a v).delay = s.delay := rfl
@[simp] theorem putByte_loopJump (s : State) (a : Word) (v : Byte) : (putByte s a v).loopJump = s.loopJump := rfl
@[simp] theorem putByte_ignoreA (s : State) (a : Word) (v : Byte) : (putByte s a v).ignoreA = s.ignoreA := rfl
@[simp] theorem putByte_ignoreB (s : State) (a : Word) (v : Byte) : (putByte s a v).ignoreB = s.ignoreB := rfl
@[simp] theorem putByte_inputs (s : State) (a : Word) (v : Byte) : (putByte s a v).inputs = s.inputs := rfl
@[simp] theorem putByte_events (s : State) (a : Word) (v : Byte) : (putByte s a v).events = s.events := rfl
@[simp] theorem putByte_eonce (s : State) (a : Word) (v : Byte) : (putByte s a v).eonce = s.eonce := rfl
@[simp] theorem putByte_params (s : State) (a : Word) (v : Byte) : (putByte s a v).params = s.params := rfl
@[simp] theorem putByte_lastPc (s : State) (a : Word) (v : Byte) : (putByte s a v).lastPc = s.lastPc := rfl
@[simp] theorem putByte_flowed (s : State) (a : Word) (v : Byte) : (putByte s a v).flowed = s.flowed := rfl
@[simp] theorem putByte_ifc (s : State) (a : Word) (v : Byte) : (putByte s a v).ifc = s.ifc := rfl
@[simp] theorem putByte_acc (s : State) (a : Word) (v : Byte) : (putByte s a v).acc = s.acc := rfl
@[simp] theorem putByte_emrEv (s : State) (a : Word) (v : Byte) : (putByte s a v).emrEv = s.emrEv := rfl
@[simp] theorem putByte_fresh (s : State) (a : Word) (v : Byte) : (putByte s a v).fresh = s.fresh := rfl
@[simp] theorem dreg_putByte (s : State) (a : Word) (v : Byte) (k' : DReg) : dreg (putByte s a v) k' = dreg s k' := rfl
@[simp] theorem ltag_putByte (s : State) (a : Word) (v : Byte) (k' : DReg) : ltag (putByte s a v) k' = ltag s k' := rfl
@[simp] theorem rreg_putByte (s : State) (a : Word) (v : Byte) (k' : RReg) : rreg (putByte s a v) k' = rreg s k' := rfl
@[simp] theorem nreg_putByte (s : State) (a : Word) (v : Byte) (k' : Fin 4) : nreg (putByte s a v) k' = nreg s k' := rfl
@[simp] theorem mreg_putByte (s : State) (a : Word) (v : Byte) (k' : Fin 4) : mreg (putByte s a v) k' = mreg s k' := rfl
@[simp] theorem saReg_putByte (s : State) (a : Word) (v : Byte) (k' : LoopIx) : saReg (putByte s a v) k' = saReg s k' := rfl
@[simp] theorem lcReg_putByte (s : State) (a : Word) (v : Byte) (k' : LoopIx) : lcReg (putByte s a v) k' = lcReg s k' := rfl
@[simp] theorem srBit_putByte (s : State) (a : Word) (v : Byte) (i' : Nat) : srBit (putByte s a v) i' = srBit s i' := rfl
@[simp] theorem spOf_putByte (s : State) (a : Word) (v : Byte) : spOf (putByte s a v) = spOf s := rfl
@[simp] theorem expMode_putByte (s : State) (a : Word) (v : Byte) : expMode (putByte s a v) = expMode s := rfl
@[simp] theorem satMode_putByte (s : State) (a : Word) (v : Byte) : satMode (putByte s a v) = satMode s := rfl
@[simp] theorem scaling_putByte (s : State) (a : Word) (v : Byte) : scaling (putByte s a v) = scaling s := rfl
@[simp] theorem carry_putByte (s : State) (a : Word) (v : Byte) : carry (putByte s a v) = carry s := rfl
@[simp] theorem tBit_putByte (s : State) (a : Word) (v : Byte) : tBit (putByte s a v) = tBit s := rfl
@[simp] theorem bigEndian_putByte (s : State) (a : Word) (v : Byte) : bigEndian (putByte s a v) = bigEndian s := rfl
@[simp] theorem intMask_putByte (s : State) (a : Word) (v : Byte) : intMask (putByte s a v) = intMask s := rfl
@[simp] theorem shortLoop_putByte (s : State) (a : Word) (v : Byte) : shortLoop (putByte s a v) = shortLoop s := rfl

/-! ### note -/

@[simp] theorem note_d (s : State) (x : Access) : (note s x).d = s.d := rfl
@[simp] theorem note_l (s : State) (x : Access) : (note s x).l = s.l := rfl
@[simp] theorem note_r (s : State) (x : Access) : (note s x).r = s.r := rfl
@[simp] theorem note_n (s : State) (x : Access) : (note s x).n = s.n := rfl
@[simp] theorem note_m (s : State) (x : Access) : (note s x).m = s.m := rfl
@[simp] theorem note_mctl (s : State) (x : Access) : (note s x).mctl = s.mctl := rfl
@[simp] theorem note_nsp (s : State) (x : Access) : (note s x).nsp = s.nsp := rfl
@[simp] theorem note_esp (s : State) (x : Access) : (note s x).esp = s.esp := rfl
@[simp] theorem note_pc (s : State) (x : Access) : (note s x).pc = s.pc := rfl
@[simp] theorem note_npc (s : State) (x : Access) : (note s x).npc = s.npc := rfl
@[simp] theorem note_sr (s : State) (x : Access) : (note s x).sr = s.sr := rfl
@[simp] theorem note_emr (s : State) (x : Access) : (note s x).emr = s.emr := rfl
@[simp] theorem note_vba (s : State) (x : Access) : (note s x).vba = s.vba := rfl
@[simp] theorem note_sa (s : State) (x : Access) : (note s x).sa = s.sa := rfl
@[simp] theorem note_lc (s : State) (x : Access) : (note s x).lc = s.lc := rfl
@[simp] theorem note_mem (s : State) (x : Access) : (note s x).mem = s.mem := rfl
@[simp] theorem note_proc (s : State) (x : Access) : (note s x).proc = s.proc := rfl
@[simp] theorem note_ras (s : State) (x : Access) : (note s x).ras = s.ras := rfl
@[simp] theorem note_rasValid (s : State) (x : Access) : (note s x).rasValid = s.rasValid := rfl
@[simp] theorem note_nspShadow (s : State) (x : Access) : (note s x).nspShadow = s.nspShadow := rfl
@[simp] theorem note_espShadow (s : State) (x : Access) : (note s x).espShadow = s.espShadow := rfl
@[simp] theorem note_reqIllegal (s : State) (x : Access) : (note s x).reqIllegal = s.reqIllegal := rfl
@[simp] theorem note_reqOverflow (s : State) (x : Access) : (note s x).reqOverflow = s.reqOverflow := rfl
@[simp] theorem note_reqDebug (s : State) (x : Access) : (note s x).reqDebug = s.reqDebug := rfl
@[simp] theorem note_window (s : State) (x : Access) : (note s x).window = s.window := rfl
@[simp] theorem note_delay (s : State) (x : Access) : (note s x).delay = s.delay := rfl
@[simp] theorem note_loopJump (s : State) (x : Access) : (note s x).loopJump = s.loopJump := rfl
@[simp] theorem note_ignoreA (s : State) (x : Access) : (note s x).ignoreA = s.ignoreA := rfl
@[simp] theorem note_ignoreB (s : State) (x : Access) : (note s x).ignoreB = s.ignoreB := rfl
@[simp] theorem note_inputs (s : State) (x : Access) : (note s x).inputs = s.inputs := rfl
@[simp] theorem note_events (s : State) (x : Access) : (note s x).events = s.events := rfl
@[simp] theorem note_eonce (s : State) (x : Access) : (note s x).eonce = s.eonce := rfl
@[simp] theorem note_params (s : State) (x : Access) : (note s x).params = s.params := rfl
@[simp] theorem note_lastPc (s : State) (x : Access) : (note s x).lastPc = s.lastPc := rfl
@[simp] theorem note_flowed (s : State) (x : Access) : (note s x).flowed = s.flowed := rfl
@[simp] theorem note_ifc (s : State) (x : Access) : (note s x).ifc = s.ifc := rfl
@[simp] theorem note_acc (s : State) (x : Access) : (note s x).acc = s.acc ++ [x] := rfl
@[simp] theorem note_emrEv (s : State) (x : Access) : (note s x).emrEv = s.emrEv := rfl
@[simp] theorem note_fresh (s : State) (x : Access) : (note s x).fresh = s.fresh := rfl
@[simp] theorem dreg_note (s : State) (x : Access) (k' : DReg) : dreg (note s x) k' = dreg s k' := rfl
@[simp] theorem ltag_note (s : State) (x : Access) (k' : DReg) : ltag (note s x) k' = ltag s k' := rfl
@[simp] theorem rreg_note (s : State) (x : Access) (k' : RReg) : rreg (note s x) k' = rreg s k' := rfl
@[simp] theorem nreg_note (s : State) (x : Access) (k' : Fin 4) : nreg (note s x) k' = nreg s k' := rfl
@[simp] theorem mreg_note (s : State) (x : Access) (k' : Fin 4) : mreg (note s x) k' = mreg s k' := rfl
@[simp] theorem saReg_note (s : State) (x : Access) (k' : LoopIx) : saReg (note s x) k' = saReg s k' := rfl
@[simp] theorem lcReg_note (s : State) (x : Access) (k' : LoopIx) : lcReg (note s x) k' = lcReg s k' := rfl
@[simp] theorem byteAt_note (s : State) (x : Access) (a' : Word) : byteAt (note s x) a' = byteAt s a' := rfl
@[simp] theorem srBit_note (s : State) (x : Access) (i' : Nat) : srBit (note s x) i' = srBit s i' := rfl
@[simp] theorem spOf_note (s : State) (x : Access) : spOf (note s x) = spOf s := rfl
@[simp] theorem expMode_note (s : State) (x : Access) : expMode (note s x) = expMode s := rfl
@[simp] theorem satMode_note (s : State) (x : Access) : satMode (note s x) = satMode s := rfl
@[simp] theorem scaling_note (s : State) (x : Access) : scaling (note s x) = scaling s := rfl
@[simp] theorem carry_note (s : State) (x : Access) : carry (note s x) = carry s := rfl
@[simp] theorem tBit_note (s : State) (x : Access) : tBit (note s x) = tBit s := rfl
@[simp] theorem bigEndian_note (s : State) (x : Access) : bigEndian (note s x) = bigEndian s := rfl
@[simp] theorem intMask_note (s : State) (x : Access) : intMask (note s x) = intMask s := rfl
@[simp] theorem shortLoop_note (s : State) (x : Access) : shortLoop (note s x) = shortLoop s := rfl

/-! ### delayed -/

@[simp] theorem delayed_d (s : State) (x : Delay) : (delayed s x).d = s.d := rfl
@[simp] theorem delayed_l (s : State) (x : Delay) : (delayed s x).l = s.l := rfl
@[simp] theorem delayed_r (s : State) (x : Delay) : (delayed s x).r = s.r := rfl
@[simp] theorem delayed_n (s : State) (x : Delay) : (delayed s x).n = s.n := rfl
@[simp] theorem delayed_m (s : State) (x : Delay) : (delayed s x).m = s.m := rfl
@[simp] theorem delayed_mctl (s : State) (x : Delay) : (delayed s x).mctl = s.mctl := rfl
@[simp] theorem delayed_nsp (s : State) (x : Delay) : (delayed s x).nsp = s.nsp := rfl
@[simp] theorem delayed_esp (s : State) (x : Delay) : (delayed s x).esp = s.esp := rfl
@[simp] theorem delayed_pc (s : State) (x : Delay) : (delayed s x).pc = s.pc := rfl
@[simp] theorem delayed_npc (s : State) (x : Delay) : (delayed s x).npc = s.npc := rfl
@[simp] theorem delayed_sr (s : State) (x : Delay) : (delayed s x).sr = s.sr := rfl
@[simp] theorem delayed_emr (s : State) (x : Delay) : (delayed s x).emr = s.emr := rfl
@[simp] theorem delayed_vba (s : State) (x : Delay) : (delayed s x).vba = s.vba := rfl
@[simp] theorem delayed_sa (s : State) (x : Delay) : (delayed s x).sa = s.sa := rfl
@[simp] theorem delayed_lc (s : State) (x : Delay) : (delayed s x).lc = s.lc := rfl
@[simp] theorem delayed_mem (s : State) (x : Delay) : (delayed s x).mem = s.mem := rfl
@[simp] theorem delayed_proc (s : State) (x : Delay) : (delayed s x).proc = s.proc := rfl
@[simp] theorem delayed_ras (s : State) (x : Delay) : (delayed s x).ras = s.ras := rfl
@[simp] theorem delayed_rasValid (s : State) (x : Delay) : (delayed s x).rasValid = s.rasValid := rfl
@[simp] theorem delayed_nspShadow (s : State) (x : Delay) : (delayed s x).nspShadow = s.nspShadow := rfl
@[simp] theorem delayed_espShadow (s : State) (x : Delay) : (delayed s x).espShadow = s.espShadow := rfl
@[simp] theorem delayed_reqIllegal (s : State) (x : Delay) : (delayed s x).reqIllegal = s.reqIllegal := rfl
@[simp] theorem delayed_reqOverflow (s : State) (x : Delay) : (delayed s x).reqOverflow = s.reqOverflow := rfl
@[simp] theorem delayed_reqDebug (s : State) (x : Delay) : (delayed s x).reqDebug = s.reqDebug := rfl
@[simp] theorem delayed_window (s : State) (x : Delay) : (delayed s x).window = s.window := rfl
@[simp] theorem delayed_delay (s : State) (x : Delay) : (delayed s x).delay = x := rfl
@[simp] theorem delayed_loopJump (s : State) (x : Delay) : (delayed s x).loopJump = s.loopJump := rfl
@[simp] theorem delayed_ignoreA (s : State) (x : Delay) : (delayed s x).ignoreA = s.ignoreA := rfl
@[simp] theorem delayed_ignoreB (s : State) (x : Delay) : (delayed s x).ignoreB = s.ignoreB := rfl
@[simp] theorem delayed_inputs (s : State) (x : Delay) : (delayed s x).inputs = s.inputs := rfl
@[simp] theorem delayed_events (s : State) (x : Delay) : (delayed s x).events = s.events := rfl
@[simp] theorem delayed_eonce (s : State) (x : Delay) : (delayed s x).eonce = s.eonce := rfl
@[simp] theorem delayed_params (s : State) (x : Delay) : (delayed s x).params = s.params := rfl
@[simp] theorem delayed_lastPc (s : State) (x : Delay) : (delayed s x).lastPc = s.lastPc := rfl
@[simp] theorem delayed_flowed (s : State) (x : Delay) : (delayed s x).flowed = s.flowed := rfl
@[simp] theorem delayed_ifc (s : State) (x : Delay) : (delayed s x).ifc = s.ifc := rfl
@[simp] theorem delayed_acc (s : State) (x : Delay) : (delayed s x).acc = s.acc := rfl
@[simp] theorem delayed_emrEv (s : State) (x : Delay) : (delayed s x).emrEv = s.emrEv := rfl
@[simp] theorem delayed_fresh (s : State) (x : Delay) : (delayed s x).fresh = s.fresh := rfl
@[simp] theorem dreg_delayed (s : State) (x : Delay) (k' : DReg) : dreg (delayed s x) k' = dreg s k' := rfl
@[simp] theorem ltag_delayed (s : State) (x : Delay) (k' : DReg) : ltag (delayed s x) k' = ltag s k' := rfl
@[simp] theorem rreg_delayed (s : State) (x : Delay) (k' : RReg) : rreg (delayed s x) k' = rreg s k' := rfl
@[simp] theorem nreg_delayed (s : State) (x : Delay) (k' : Fin 4) : nreg (delayed s x) k' = nreg s k' := rfl
@[simp] theorem mreg_delayed (s : State) (x : Delay) (k' : Fin 4) : mreg (delayed s x) k' = mreg s k' := rfl
@[simp] theorem saReg_delayed (s : State) (x : Delay) (k' : LoopIx) : saReg (delayed s x) k' = saReg s k' := rfl
@[simp] theorem lcReg_delayed (s : State) (x : Delay) (k' : LoopIx) : lcReg (delayed s x) k' = lcReg s k' := rfl
@[simp] theorem byteAt_delayed (s : State) (x : Delay) (a' : Word) : byteAt (delayed s x) a' = byteAt s a' := rfl
@[simp] theorem srBit_delayed (s : State) (x : Delay) (i' : Nat) : srBit (delayed s x) i' = srBit s i' := rfl
@[simp] theorem spOf_delayed (s : State) (x : Delay) : spOf (delayed s x) = spOf s := rfl
@[simp] theorem expMode_delayed (s : State) (x : Delay) : expMode (delayed s x) = expMode s := rfl
@[simp] theorem satMode_delayed (s : State) (x : Delay) : satMode (delayed s x) = satMode s := rfl
@[simp] theorem scaling_delayed (s : State) (x : Delay) : scaling (delayed s x) = scaling s := rfl
@[simp] theorem carry_delayed (s : State) (x : Delay) : carry (delayed s x) = carry s := rfl
@[simp] theorem tBit_delayed (s : State) (x : Delay) : tBit (delayed s x) = tBit s := rfl
@[simp] theorem bigEndian_delayed (s : State) (x : Delay) : bigEndian (delayed s x) = bigEndian s := rfl
@[simp] theorem intMask_delayed (s : State) (x : Delay) : intMask (delayed s x) = intMask s := rfl
@[simp] theorem shortLoop_delayed (s : State) (x : Delay) : shortLoop (delayed s x) = shortLoop s := rfl

/-! ### clearNmid -/

@[simp] theorem clearNmid_d (s : State) : (clearNmid s).d = s.d := rfl
@[simp] theorem clearNmid_l (s : State) : (clearNmid s).l = s.l := rfl
@[simp] theorem clearNmid_r (s : State) : (clearNmid s).r = s.r := rfl
@[simp] theorem clearNmid_n (s : State) : (clearNmid s).n = s.n := rfl
@[simp] theorem clearNmid_m (s : State) : (clearNmid s).m = s.m := rfl
@[simp] theorem clearNmid_mctl (s : State) : (clearNmid s).mctl = s.mctl := rfl
@[simp] theorem clearNmid_nsp (s : State) : (clearNmid s).nsp = s.nsp := rfl
@[simp] theorem clearNmid_esp (s : State) : (clearNmid s).esp = s.esp := rfl
@[simp] theorem clearNmid_pc (s : State) : (clearNmid s).pc = s.pc := rfl
@[simp] theorem clearNmid_npc (s : State) : (clearNmid s).npc = s.npc := rfl
@[simp] theorem clearNmid_sr (s : State) : (clearNmid s).sr = s.sr := rfl
@[simp] theorem clearNmid_emr (s : State) : (clearNmid s).emr = withBit s.emr 3 false := rfl
@[simp] theorem clearNmid_vba (s : State) : (clearNmid s).vba = s.vba := rfl
@[simp] theorem clearNmid_sa (s : State) : (clearNmid s).sa = s.sa := rfl
@[simp] theorem clearNmid_lc (s : State) : (clearNmid s).lc = s.lc := rfl
@[simp] theorem clearNmid_mem (s : State) : (clearNmid s).mem = s.mem := rfl
@[simp] theorem clearNmid_proc (s : State) : (clearNmid s).proc = s.proc := rfl
@[simp] theorem clearNmid_ras (s : State) : (clearNmid s).ras = s.ras := rfl
@[simp] theorem clearNmid_rasValid (s : State) : (clearNmid s).rasValid = s.rasValid := rfl
@[simp] theorem clearNmid_nspShadow (s : State) : (clearNmid s).nspShadow = s.nspShadow := rfl
@[simp] theorem clearNmid_espShadow (s : State) : (clearNmid s).espShadow = s.espShadow := rfl
@[simp] theorem clearNmid_reqIllegal (s : State) : (clearNmid s).reqIllegal = s.reqIllegal := rfl
@[simp] theorem clearNmid_reqOverflow (s : State) : (clearNmid s).reqOverflow = s.reqOverflow := rfl
@[simp] theorem clearNmid_reqDebug (s : State) : (clearNmid s).reqDebug = s.reqDebug := rfl
@[simp] theorem clearNmid_window (s : State) : (clearNmid s).window = s.window := rfl
@[simp] theorem clearNmid_delay (s : State) : (clearNmid s).delay = s.delay := rfl
@[simp] theorem clearNmid_loopJump (s : State) : (clearNmid s).loopJump = s.loopJump := rfl
@[simp] theorem clearNmid_ignoreA (s : State) : (clearNmid s).ignoreA = s.ignoreA := rfl
@[simp] theorem clearNmid_ignoreB (s : State) : (clearNmid s).ignoreB = s.ignoreB := rfl
@[simp] theorem clearNmid_inputs (s : State) : (clearNmid s).inputs = s.inputs := rfl
@[simp] theorem clearNmid_events (s : State) : (clearNmid s).events = s.events := rfl
@[simp] theorem clearNmid_eonce (s : State) : (clearNmid s).eonce = s.eonce := rfl
@[simp] theorem clearNmid_params (s : State) : (clearNmid s).params = s.params := rfl
@[simp] theorem clearNmid_lastPc (s : State) : (clearNmid s).lastPc = s.lastPc := rfl
@[simp] theorem clearNmid_flowed (s : State) : (clearNmid s).flowed = s.flowed := rfl
@[simp] theorem clearNmid_ifc (s : State) : (clearNmid s).ifc = s.ifc := rfl
@[simp] theorem clearNmid_acc (s : State) : (clearNmid s).acc = s.acc := rfl
@[simp] theorem clearNmid_emrEv (s : State) : (clearNmid s).emrEv = s.emrEv := rfl
@[simp] theorem clearNmid_fresh (s : State) : (clearNmid s).fresh = s.fresh := rfl
@[simp] theorem dreg_clearNmid (s : State) (k' : DReg) : dreg (clearNmid s) k' = dreg s k' := rfl
@[simp] theorem ltag_clearNmid (s : State) (k' : DReg) : ltag (clearNmid s) k' = ltag s k' := rfl
@[simp] theorem rreg_clearNmid (s : State) (k' : RReg) : rreg (clearNmid s) k' = rreg s k' := rfl
@[simp] theorem nreg_clearNmid (s : State) (k' : Fin 4) : nreg (clearNmid s) k' = nreg s k' := rfl
@[simp] theorem mreg_clearNmid (s : State) (k' : Fin 4) : mreg (clearNmid s) k' = mreg s k' := rfl
@[simp] theorem saReg_clearNmid (s : State) (k' : LoopIx) : saReg (clearNmid s) k' = saReg s k' := rfl
@[simp] theorem lcReg_clearNmid (s : State) (k' : LoopIx) : lcReg (clearNmid s) k' = lcReg s k' := rfl
@[simp] theorem byteAt_clearNmid (s : State) (a' : Word) : byteAt (clearNmid s) a' = byteAt s a' := rfl
@[simp] theorem srBit_clearNmid (s : State) (i' : Nat) : srBit (clearNmid s) i' = srBit s i' := rfl
@[simp] theorem spOf_clearNmid (s : State) : spOf (clearNmid s) = spOf s := rfl
@[simp] theorem expMode_clearNmid (s : State) : expMode (clearNmid s) = expMode s := rfl
@[simp] theorem satMode_clearNmid (s : State) : satMode (clearNmid s) = satMode s := rfl
@[simp] theorem scaling_clearNmid (s : State) : scaling (clearNmid s) = scaling s := rfl
@[simp] theorem carry_clearNmid (s : State) : carry (clearNmid s) = carry s := rfl
@[simp] theorem tBit_clearNmid (s : State) : tBit (clearNmid s) = tBit s := rfl
@[simp] theorem intMask_clearNmid (s : State) : intMask (clearNmid s) = intMask s := rfl
@[simp] theorem shortLoop_clearNmid (s : State) : shortLoop (clearNmid s) = shortLoop s := rfl

/-! ### withIfc -/

@[simp] theorem withIfc_d (s : State) (c : BitVec 3) : (withIfc s c).d = s.d := rfl
@[simp] theorem withIfc_l (s : State) (c : BitVec 3) : (withIfc s c).l = s.l := rfl
@[simp] theorem withIfc_r (s : State) (c : BitVec 3) : (withIfc s c).r = s.r := rfl
@[simp] theorem withIfc_n (s : State) (c : BitVec 3) : (withIfc s c).n = s.n := rfl
@[simp] theorem withIfc_m (s : State) (c : BitVec 3) : (withIfc s c).m = s.m := rfl
@[simp] theorem withIfc_mctl (s : State) (c : BitVec 3) : (withIfc s c).mctl = s.mctl := rfl
@[simp] theorem withIfc_nsp (s : State) (c : BitVec 3) : (withIfc s c).nsp = s.nsp := rfl
@[simp] theorem withIfc_esp (s : State) (c : BitVec 3) : (withIfc s c).esp = s.esp := rfl
@[simp] theorem withIfc_pc (s : State) (c : BitVec 3) : (withIfc s c).pc = s.pc := rfl
@[simp] theorem withIfc_npc (s : State) (c : BitVec 3) : (withIfc s c).npc = s.npc := rfl
@[simp] theorem withIfc_sr (s : State) (c : BitVec 3) : (withIfc s c).sr = s.sr := rfl
@[simp] theorem withIfc_emr (s : State) (c : BitVec 3) : (withIfc s c).emr = s.emr := rfl
@[simp] theorem withIfc_vba (s : State) (c : BitVec 3) : (withIfc s c).vba = s.vba := rfl
@[simp] theorem withIfc_sa (s : State) (c : BitVec 3) : (withIfc s c).sa = s.sa := rfl
@[simp] theorem withIfc_lc (s : State) (c : BitVec 3) : (withIfc s c).lc = s.lc := rfl
@[simp] theorem withIfc_mem (s : State) (c : BitVec 3) : (withIfc s c).mem = s.mem := rfl
@[simp] theorem withIfc_proc (s : State) (c : BitVec 3) : (withIfc s c).proc = s.proc := rfl
@[simp] theorem withIfc_ras (s : State) (c : BitVec 3) : (withIfc s c).ras = s.ras := rfl
@[simp] theorem withIfc_rasValid (s : State) (c : BitVec 3) : (withIfc s c).rasValid = s.rasValid := rfl
@[simp] theorem withIfc_nspShadow (s : State) (c : BitVec 3) : (withIfc s c).nspShadow = s.nspShadow := rfl
@[simp] theorem withIfc_espShadow (s : State) (c : BitVec 3) : (withIfc s c).espShadow = s.espShadow := rfl
@[simp] theorem withIfc_reqIllegal (s : State) (c : BitVec 3) : (withIfc s c).reqIllegal = s.reqIllegal := rfl
@[simp] theorem withIfc_reqOverflow (s : State) (c : BitVec 3) : (withIfc s c).reqOverflow = s.reqOverflow := rfl
@[simp] theorem withIfc_reqDebug (s : State) (c : BitVec 3) : (withIfc s c).reqDebug = s.reqDebug := rfl
@[simp] theorem withIfc_window (s : State) (c : BitVec 3) : (withIfc s c).window = s.window := rfl
@[simp] theorem withIfc_delay (s : State) (c : BitVec 3) : (withIfc s c).delay = s.delay := rfl
@[simp] theorem withIfc_loopJump (s : State) (c : BitVec 3) : (withIfc s c).loopJump = s.loopJump := rfl
@[simp] theorem withIfc_ignoreA (s : State) (c : BitVec 3) : (withIfc s c).ignoreA = s.ignoreA := rfl
@[simp] theorem withIfc_ignoreB (s : State) (c : BitVec 3) : (withIfc s c).ignoreB = s.ignoreB := rfl
@[simp] theorem withIfc_inputs (s : State) (c : BitVec 3) : (withIfc s c).inputs = s.inputs := rfl
@[simp] theorem withIfc_events (s : State) (c : BitVec 3) : (withIfc s c).events = s.events := rfl
@[simp] theorem withIfc_eonce (s : State) (c : BitVec 3) : (withIfc s c).eonce = s.eonce := rfl
@[simp] theorem withIfc_params (s : State) (c : BitVec 3) : (withIfc s c).params = s.params := rfl
@[simp] theorem withIfc_lastPc (s : State) (c : BitVec 3) : (withIfc s c).lastPc = s.lastPc := rfl
@[simp] theorem withIfc_flowed (s : State) (c : BitVec 3) : (withIfc s c).flowed = s.flowed := rfl
@[simp] theorem withIfc_ifc (s : State) (c : BitVec 3) : (withIfc s c).ifc = c := rfl
@[simp] theorem withIfc_acc (s : State) (c : BitVec 3) : (withIfc s c).acc = s.acc := rfl
@[simp] theorem withIfc_emrEv (s : State) (c : BitVec 3) : (withIfc s c).emrEv = s.emrEv := rfl
@[simp] theorem withIfc_fresh (s : State) (c : BitVec 3) : (withIfc s c).fresh = s.fresh := rfl
@[simp] theorem dreg_withIfc (s : State) (c : BitVec 3) (k' : DReg) : dreg (withIfc s c) k' = dreg s k' := rfl
@[simp] theorem ltag_withIfc (s : State) (c : BitVec 3) (k' : DReg) : ltag (withIfc s c) k' = ltag s k' := rfl
@[simp] theorem rreg_withIfc (s : State) (c : BitVec 3) (k' : RReg) : rreg (withIfc s c) k' = rreg s k' := rfl
@[simp] theorem nreg_withIfc (s : State) (c : BitVec 3) (k' : Fin 4) : nreg (withIfc s c) k' = nreg s k' := rfl
@[simp] theorem mreg_withIfc (s : State) (c : BitVec 3) (k' : Fin 4) : mreg (withIfc s c) k' = mreg s k' := rfl
@[simp] theorem saReg_withIfc (s : State) (c : BitVec 3) (k' : LoopIx) : saReg (withIfc s c) k' = saReg s k' := rfl
@[simp] theorem lcReg_withIfc (s : State) (c : BitVec 3) (k' : LoopIx) : lcReg (withIfc s c) k' = lcReg s k' := rfl
@[simp] theorem byteAt_withIfc (s : State) (c : BitVec 3) (a' : Word) : byteAt (withIfc s c) a' = byteAt s a' := rfl
@[simp] theorem srBit_withIfc (s : State) (c : BitVec 3) (i' : Nat) : srBit (withIfc s c) i' = srBit s i' := rfl
@[simp] theorem spOf_withIfc (s : State) (c : BitVec 3) : spOf (withIfc s c) = spOf s := rfl
@[simp] theorem expMode_withIfc (s : State) (c : BitVec 3) : expMode (withIfc s c) = expMode s := rfl
@[simp] theorem satMode_withIfc (s : State) (c : BitVec 3) : satMode (withIfc s c) = satMode s := rfl
@[simp] theorem scaling_withIfc (s : State) (c : BitVec 3) : scaling (withIfc s c) = scaling s := rfl
@[simp] theorem carry_withIfc (s : State) (c : BitVec 3) : carry (withIfc s c) = carry s := rfl
@[simp] theorem tBit_withIfc (s : State) (c : BitVec 3) : tBit (withIfc s c) = tBit s := rfl
@[simp] theorem bigEndian_withIfc (s : State) (c : BitVec 3) : bigEndian (withIfc s c) = bigEndian s := rfl
@[simp] theorem intMask_withIfc (s : State) (c : BitVec 3) : intMask (withIfc s c) = intMask s := rfl
@[simp] theorem shortLoop_withIfc (s : State) (c : BitVec 3) : shortLoop (withIfc s c) = shortLoop s := rfl

/-! ### The shadow of the active or the other stack pointer -/

@[simp] theorem setSpShadow_d (s : State) (b : Bool) : (setSpShadow s b).d = s.d := by unfold setSpShadow; split <;> rfl
@[simp] theorem setSpShadow_l (s : State) (b : Bool) : (setSpShadow s b).l = s.l := by unfold setSpShadow; split <;> rfl
@[simp] theorem setSpShadow_r (s : State) (b : Bool) : (setSpShadow s b).r = s.r := by unfold setSpShadow; split <;> rfl
@[simp] theorem setSpShadow_n (s : State) (b : Bool) : (setSpShadow s b).n = s.n := by unfold setSpShadow; split <;> rfl
@[simp] theorem setSpShadow_m (s : State) (b : Bool) : (setSpShadow s b).m = s.m := by unfold setSpShadow; split <;> rfl
@[simp] theorem setSpShadow_mctl (s : State) (b : Bool) : (setSpShadow s b).mctl = s.mctl := by unfold setSpShadow; split <;> rfl
@[simp] theorem setSpShadow_nsp (s : State) (b : Bool) : (setSpShadow s b).nsp = s.nsp := by unfold setSpShadow; split <;> rfl
@[simp] theorem setSpShadow_esp (s : State) (b : Bool) : (setSpShadow s b).esp = s.esp := by unfold setSpShadow; split <;> rfl
@[simp] theorem setSpShadow_pc (s : State) (b : Bool) : (setSpShadow s b).pc = s.pc := by unfold setSpShadow; split <;> rfl
@[simp] theorem setSpShadow_npc (s : State) (b : Bool) : (setSpShadow s b).npc = s.npc := by unfold setSpShadow; split <;> rfl
@[simp] theorem setSpShadow_sr (s : State) (b : Bool) : (setSpShadow s b).sr = s.sr := by unfold setSpShadow; split <;> rfl
@[simp] theorem setSpShadow_emr (s : State) (b : Bool) : (setSpShadow s b).emr = s.emr := by unfold setSpShadow; split <;> rfl
@[simp] theorem setSpShadow_vba (s : State) (b : Bool) : (setSpShadow s b).vba = s.vba := by unfold setSpShadow; split <;> rfl
@[simp] theorem setSpShadow_sa (s : State) (b : Bool) : (setSpShadow s b).sa = s.sa := by unfold setSpShadow; split <;> rfl
@[simp] theorem setSpShadow_lc (s : State) (b : Bool) : (setSpShadow s b).lc = s.lc := by unfold setSpShadow; split <;> rfl
@[simp] theorem setSpShadow_mem (s : State) (b : Bool) : (setSpShadow s b).mem = s.mem := by unfold setSpShadow; split <;> rfl
@[simp] theorem setSpShadow_proc (s : State) (b : Bool) : (setSpShadow s b).proc = s.proc := by unfold setSpShadow; split <;> rfl
@[simp] theorem setSpShadow_ras (s : State) (b : Bool) : (setSpShadow s b).ras = s.ras := by unfold setSpShadow; split <;> rfl
@[simp] theorem setSpShadow_rasValid (s : State) (b : Bool) : (setSpShadow s b).rasValid = s.rasValid := by unfold setSpShadow; split <;> rfl
@[simp] theorem setSpShadow_reqIllegal (s : State) (b : Bool) : (setSpShadow s b).reqIllegal = s.reqIllegal := by unfold setSpShadow; split <;> rfl
@[simp] theorem setSpShadow_reqOverflow (s : State) (b : Bool) : (setSpShadow s b).reqOverflow = s.reqOverflow := by unfold setSpShadow; split <;> rfl
@[simp] theorem setSpShadow_reqDebug (s : State) (b : Bool) : (setSpShadow s b).reqDebug = s.reqDebug := by unfold setSpShadow; split <;> rfl
@[simp] theorem setSpShadow_window (s : State) (b : Bool) : (setSpShadow s b).window = s.window := by unfold setSpShadow; split <;> rfl
@[simp] theorem setSpShadow_delay (s : State) (b : Bool) : (setSpShadow s b).delay = s.delay := by unfold setSpShadow; split <;> rfl
@[simp] theorem setSpShadow_loopJump (s : State) (b : Bool) : (setSpShadow s b).loopJump = s.loopJump := by unfold setSpShadow; split <;> rfl
@[simp] theorem setSpShadow_ignoreA (s : State) (b : Bool) : (setSpShadow s b).ignoreA = s.ignoreA := by unfold setSpShadow; split <;> rfl
@[simp] theorem setSpShadow_ignoreB (s : State) (b : Bool) : (setSpShadow s b).ignoreB = s.ignoreB := by unfold setSpShadow; split <;> rfl
@[simp] theorem setSpShadow_inputs (s : State) (b : Bool) : (setSpShadow s b).inputs = s.inputs := by unfold setSpShadow; split <;> rfl
@[simp] theorem setSpShadow_events (s : State) (b : Bool) : (setSpShadow s b).events = s.events := by unfold setSpShadow; split <;> rfl
@[simp] theorem setSpShadow_eonce (s : State) (b : Bool) : (setSpShadow s b).eonce = s.eonce := by unfold setSpShadow; split <;> rfl
@[simp] theorem setSpShadow_params (s : State) (b : Bool) : (setSpShadow s b).params = s.params := by unfold setSpShadow; split <;> rfl
@[simp] theorem setSpShadow_lastPc (s : State) (b : Bool) : (setSpShadow s b).lastPc = s.lastPc := by unfold setSpShadow; split <;> rfl
@[simp] theorem setSpShadow_flowed (s : State) (b : Bool) : (setSpShadow s b).flowed = s.flowed := by unfold setSpShadow; split <;> rfl
@[simp] theorem setSpShadow_ifc (s : State) (b : Bool) : (setSpShadow s b).ifc = s.ifc := by unfold setSpShadow; split <;> rfl
@[simp] theorem setSpShadow_acc (s : State) (b : Bool) : (setSpShadow s b).acc = s.acc := by unfold setSpShadow; split <;> rfl
@[simp] theorem setSpShadow_emrEv (s : State) (b : Bool) : (setSpShadow s b).emrEv = s.emrEv := by unfold setSpShadow; split <;> rfl
@[simp] theorem setSpShadow_fresh (s : State) (b : Bool) : (setSpShadow s b).fresh = s.fresh := by unfold setSpShadow; split <;> rfl
@[simp] theorem dreg_setSpShadow (s : State) (b : Bool) (k' : DReg) : dreg (setSpShadow s b) k' = dreg s k' := by unfold setSpShadow; split <;> rfl
@[simp] theorem ltag_setSpShadow (s : State) (b : Bool) (k' : DReg) : ltag (setSpShadow s b) k' = ltag s k' := by unfold setSpShadow; split <;> rfl
@[simp] theorem rreg_setSpShadow (s : State) (b : Bool) (k' : RReg) : rreg (setSpShadow s b) k' = rreg s k' := by unfold setSpShadow; split <;> rfl
@[simp] theorem nreg_setSpShadow (s : State) (b : Bool) (k' : Fin 4) : nreg (setSpShadow s b) k' = nreg s k' := by unfold setSpShadow; split <;> rfl
@[simp] theorem mreg_setSpShadow (s : State) (b : Bool) (k' : Fin 4) : mreg (setSpShadow s b) k' = mreg s k' := by unfold setSpShadow; split <;> rfl
@[simp] theorem saReg_setSpShadow (s : State) (b : Bool) (k' : LoopIx) : saReg (setSpShadow s b) k' = saReg s k' := by unfold setSpShadow; split <;> rfl
@[simp] theorem lcReg_setSpShadow (s : State) (b : Bool) (k' : LoopIx) : lcReg (setSpShadow s b) k' = lcReg s k' := by unfold setSpShadow; split <;> rfl
@[simp] theorem byteAt_setSpShadow (s : State) (b : Bool) (a' : Word) : byteAt (setSpShadow s b) a' = byteAt s a' := by unfold setSpShadow; split <;> rfl
@[simp] theorem srBit_setSpShadow (s : State) (b : Bool) (i' : Nat) : srBit (setSpShadow s b) i' = srBit s i' := by unfold setSpShadow; split <;> rfl
@[simp] theorem spOf_setSpShadow (s : State) (b : Bool) : spOf (setSpShadow s b) = spOf s := by unfold setSpShadow; split <;> rfl
@[simp] theorem expMode_setSpShadow (s : State) (b : Bool) : expMode (setSpShadow s b) = expMode s := by unfold setSpShadow; split <;> rfl
@[simp] theorem satMode_setSpShadow (s : State) (b : Bool) : satMode (setSpShadow s b) = satMode s := by unfold setSpShadow; split <;> rfl
@[simp] theorem scaling_setSpShadow (s : State) (b : Bool) : scaling (setSpShadow s b) = scaling s := by unfold setSpShadow; split <;> rfl
@[simp] theorem carry_setSpShadow (s : State) (b : Bool) : carry (setSpShadow s b) = carry s := by unfold setSpShadow; split <;> rfl
@[simp] theorem tBit_setSpShadow (s : State) (b : Bool) : tBit (setSpShadow s b) = tBit s := by unfold setSpShadow; split <;> rfl
@[simp] theorem bigEndian_setSpShadow (s : State) (b : Bool) : bigEndian (setSpShadow s b) = bigEndian s := by unfold setSpShadow; split <;> rfl
@[simp] theorem intMask_setSpShadow (s : State) (b : Bool) : intMask (setSpShadow s b) = intMask s := by unfold setSpShadow; split <;> rfl
@[simp] theorem shortLoop_setSpShadow (s : State) (b : Bool) : shortLoop (setSpShadow s b) = shortLoop s := by unfold setSpShadow; split <;> rfl

@[simp] theorem setOspShadow_d (s : State) (b : Bool) : (setOspShadow s b).d = s.d := by unfold setOspShadow; split <;> rfl
@[simp] theorem setOspShadow_l (s : State) (b : Bool) : (setOspShadow s b).l = s.l := by unfold setOspShadow; split <;> rfl
@[simp] theorem setOspShadow_r (s : State) (b : Bool) : (setOspShadow s b).r = s.r := by unfold setOspShadow; split <;> rfl
@[simp] theorem setOspShadow_n (s : State) (b : Bool) : (setOspShadow s b).n = s.n := by unfold setOspShadow; split <;> rfl
@[simp] theorem setOspShadow_m (s : State) (b : Bool) : (setOspShadow s b).m = s.m := by unfold setOspShadow; split <;> rfl
@[simp] theorem setOspShadow_mctl (s : State) (b : Bool) : (setOspShadow s b).mctl = s.mctl := by unfold setOspShadow; split <;> rfl
@[simp] theorem setOspShadow_nsp (s : State) (b : Bool) : (setOspShadow s b).nsp = s.nsp := by unfold setOspShadow; split <;> rfl
@[simp] theorem setOspShadow_esp (s : State) (b : Bool) : (setOspShadow s b).esp = s.esp := by unfold setOspShadow; split <;> rfl
@[simp] theorem setOspShadow_pc (s : State) (b : Bool) : (setOspShadow s b).pc = s.pc := by unfold setOspShadow; split <;> rfl
@[simp] theorem setOspShadow_npc (s : State) (b : Bool) : (setOspShadow s b).npc = s.npc := by unfold setOspShadow; split <;> rfl
@[simp] theorem setOspShadow_sr (s : State) (b : Bool) : (setOspShadow s b).sr = s.sr := by unfold setOspShadow; split <;> rfl
@[simp] theorem setOspShadow_emr (s : State) (b : Bool) : (setOspShadow s b).emr = s.emr := by unfold setOspShadow; split <;> rfl
@[simp] theorem setOspShadow_vba (s : State) (b : Bool) : (setOspShadow s b).vba = s.vba := by unfold setOspShadow; split <;> rfl
@[simp] theorem setOspShadow_sa (s : State) (b : Bool) : (setOspShadow s b).sa = s.sa := by unfold setOspShadow; split <;> rfl
@[simp] theorem setOspShadow_lc (s : State) (b : Bool) : (setOspShadow s b).lc = s.lc := by unfold setOspShadow; split <;> rfl
@[simp] theorem setOspShadow_mem (s : State) (b : Bool) : (setOspShadow s b).mem = s.mem := by unfold setOspShadow; split <;> rfl
@[simp] theorem setOspShadow_proc (s : State) (b : Bool) : (setOspShadow s b).proc = s.proc := by unfold setOspShadow; split <;> rfl
@[simp] theorem setOspShadow_ras (s : State) (b : Bool) : (setOspShadow s b).ras = s.ras := by unfold setOspShadow; split <;> rfl
@[simp] theorem setOspShadow_rasValid (s : State) (b : Bool) : (setOspShadow s b).rasValid = s.rasValid := by unfold setOspShadow; split <;> rfl
@[simp] theorem setOspShadow_reqIllegal (s : State) (b : Bool) : (setOspShadow s b).reqIllegal = s.reqIllegal := by unfold setOspShadow; split <;> rfl
@[simp] theorem setOspShadow_reqOverflow (s : State) (b : Bool) : (setOspShadow s b).reqOverflow = s.reqOverflow := by unfold setOspShadow; split <;> rfl
@[simp] theorem setOspShadow_reqDebug (s : State) (b : Bool) : (setOspShadow s b).reqDebug = s.reqDebug := by unfold setOspShadow; split <;> rfl
@[simp] theorem setOspShadow_window (s : State) (b : Bool) : (setOspShadow s b).window = s.window := by unfold setOspShadow; split <;> rfl
@[simp] theorem setOspShadow_delay (s : State) (b : Bool) : (setOspShadow s b).delay = s.delay := by unfold setOspShadow; split <;> rfl
@[simp] theorem setOspShadow_loopJump (s : State) (b : Bool) : (setOspShadow s b).loopJump = s.loopJump := by unfold setOspShadow; split <;> rfl
@[simp] theorem setOspShadow_ignoreA (s : State) (b : Bool) : (setOspShadow s b).ignoreA = s.ignoreA := by unfold setOspShadow; split <;> rfl
@[simp] theorem setOspShadow_ignoreB (s : State) (b : Bool) : (setOspShadow s b).ignoreB = s.ignoreB := by unfold setOspShadow; split <;> rfl
@[simp] theorem setOspShadow_inputs (s : State) (b : Bool) : (setOspShadow s b).inputs = s.inputs := by unfold setOspShadow; split <;> rfl
@[simp] theorem setOspShadow_events (s : State) (b : Bool) : (setOspShadow s b).events = s.events := by unfold setOspShadow; split <;> rfl
@[simp] theorem setOspShadow_eonce (s : State) (b : Bool) : (setOspShadow s b).eonce = s.eonce := by unfold setOspShadow; split <;> rfl
@[simp] theorem setOspShadow_params (s : State) (b : Bool) : (setOspShadow s b).params = s.params := by unfold setOspShadow; split <;> rfl
@[simp] theorem setOspShadow_lastPc (s : State) (b : Bool) : (setOspShadow s b).lastPc = s.lastPc := by unfold setOspShadow; split <;> rfl
@[simp] theorem setOspShadow_flowed (s : State) (b : Bool) : (setOspShadow s b).flowed = s.flowed := by unfold setOspShadow; split <;> rfl
@[simp] theorem setOspShadow_ifc (s : State) (b : Bool) : (setOspShadow s b).ifc = s.ifc := by unfold setOspShadow; split <;> rfl
@[simp] theorem setOspShadow_acc (s : State) (b : Bool) : (setOspShadow s b).acc = s.acc := by unfold setOspShadow; split <;> rfl
@[simp] theorem setOspShadow_emrEv (s : State) (b : Bool) : (setOspShadow s b).emrEv = s.emrEv := by unfold setOspShadow; split <;> rfl
@[simp] theorem setOspShadow_fresh (s : State) (b : Bool) : (setOspShadow s b).fresh = s.fresh := by unfold setOspShadow; split <;> rfl
@[simp] theorem dreg_setOspShadow (s : State) (b : Bool) (k' : DReg) : dreg (setOspShadow s b) k' = dreg s k' := by unfold setOspShadow; split <;> rfl
@[simp] theorem ltag_setOspShadow (s : State) (b : Bool) (k' : DReg) : ltag (setOspShadow s b) k' = ltag s k' := by unfold setOspShadow; split <;> rfl
@[simp] theorem rreg_setOspShadow (s : State) (b : Bool) (k' : RReg) : rreg (setOspShadow s b) k' = rreg s k' := by unfold setOspShadow; split <;> rfl
@[simp] theorem nreg_setOspShadow (s : State) (b : Bool) (k' : Fin 4) : nreg (setOspShadow s b) k' = nreg s k' := by unfold setOspShadow; split <;> rfl
@[simp] theorem mreg_setOspShadow (s : State) (b : Bool) (k' : Fin 4) : mreg (setOspShadow s b) k' = mreg s k' := by unfold setOspShadow; split <;> rfl
@[simp] theorem saReg_setOspShadow (s : State) (b : Bool) (k' : LoopIx) : saReg (setOspShadow s b) k' = saReg s k' := by unfold setOspShadow; split <;> rfl
@[simp] theorem lcReg_setOspShadow (s : State) (b : Bool) (k' : LoopIx) : lcReg (setOspShadow s b) k' = lcReg s k' := by unfold setOspShadow; split <;> rfl
@[simp] theorem byteAt_setOspShadow (s : State) (b : Bool) (a' : Word) : byteAt (setOspShadow s b) a' = byteAt s a' := by unfold setOspShadow; split <;> rfl
@[simp] theorem srBit_setOspShadow (s : State) (b : Bool) (i' : Nat) : srBit (setOspShadow s b) i' = srBit s i' := by unfold setOspShadow; split <;> rfl
@[simp] theorem spOf_setOspShadow (s : State) (b : Bool) : spOf (setOspShadow s b) = spOf s := by unfold setOspShadow; split <;> rfl
@[simp] theorem expMode_setOspShadow (s : State) (b : Bool) : expMode (setOspShadow s b) = expMode s := by unfold setOspShadow; split <;> rfl
@[simp] theorem satMode_setOspShadow (s : State) (b : Bool) : satMode (setOspShadow s b) = satMode s := by unfold setOspShadow; split <;> rfl
@[simp] theorem scaling_setOspShadow (s : State) (b : Bool) : scaling (setOspShadow s b) = scaling s := by unfold setOspShadow; split <;> rfl
@[simp] theorem carry_setOspShadow (s : State) (b : Bool) : carry (setOspShadow s b) = carry s := by unfold setOspShadow; split <;> rfl
@[simp] theorem tBit_setOspShadow (s : State) (b : Bool) : tBit (setOspShadow s b) = tBit s := by unfold setOspShadow; split <;> rfl
@[simp] theorem bigEndian_setOspShadow (s : State) (b : Bool) : bigEndian (setOspShadow s b) = bigEndian s := by unfold setOspShadow; split <;> rfl
@[simp] theorem intMask_setOspShadow (s : State) (b : Bool) : intMask (setOspShadow s b) = intMask s := by unfold setOspShadow; split <;> rfl
@[simp] theorem shortLoop_setOspShadow (s : State) (b : Bool) : shortLoop (setOspShadow s b) = shortLoop s := by unfold setOspShadow; split <;> rfl

@[simp] theorem spShadow_setSpShadow (s : State) (b : Bool) : spShadow (setSpShadow s b) = b := by
  unfold spShadow
  rw [expMode_setSpShadow]
  unfold setSpShadow
  split <;> simp_all

/-- The other stack pointer's shadow stays. -/
theorem setSpShadow_other (s : State) (b : Bool) :
    (expMode s = true → (setSpShadow s b).nspShadow = s.nspShadow) ∧ (expMode s = false → (setSpShadow s b).espShadow = s.espShadow) := by
  unfold setSpShadow
  constructor <;> intro h <;> simp [h]

/-! ### A register that was written -/

/-- Reading a register file after one register was written. -/
theorem Vector_get_set {α : Type} {w : Nat} (v : Vector α w) (k i : Fin w) (x : α) :
    (v.set k.val x k.isLt).get i = if i = k then x else v.get i := by
  show (v.set k.val x k.isLt)[i.val] = if i = k then x else v[i.val]
  rw [Vector.getElem_set]
  simp only [Fin.ext_iff, eq_comm]

theorem dreg_setD (s : State) (k : DReg) (v : DWord) (b : Bool) (n : DReg) :
    dreg (setD s k v b) n = if n = k then v else dreg s n := by
  simp only [dreg, setD_d, Vector_get_set]

theorem ltag_setD (s : State) (k : DReg) (v : DWord) (b : Bool) (n : DReg) :
    ltag (setD s k v b) n = if n = k then b else ltag s n := by
  have h := n.isLt
  have h' := k.isLt
  by_cases e : n = k
  · subst e
    cases b <;> simp [ltag, setTag, h]
  · have e' : ¬ n.val = k.val := fun x => e (Fin.ext x)
    have e2 : n.val < k.val ∨ (¬ n.val < k.val ∧ n.val - k.val ≠ 0) := by omega
    rcases e2 with e2 | ⟨e2, e3⟩ <;> cases b <;> simp [ltag, setTag, h, e, e2] <;> omega

theorem rreg_setR (s : State) (k : RReg) (v : Word) (n : RReg) :
    rreg (setR s k v) n = if n = k then v else rreg s n := by
  simp only [rreg, setR_r, Vector_get_set]

theorem nreg_setN (s : State) (k : Fin 4) (v : Word) (n : Fin 4) :
    nreg (setN s k v) n = if n = k then v else nreg s n := by
  simp only [nreg, setN_n, Vector_get_set]

theorem mreg_setM (s : State) (k : Fin 4) (v : Word) (n : Fin 4) :
    mreg (setM s k v) n = if n = k then v else mreg s n := by
  simp only [mreg, setM_m, Vector_get_set]

theorem saReg_setSa (s : State) (k : LoopIx) (v : Word) (n : LoopIx) :
    saReg (setSa s k v) n = if n = k then v else saReg s n := by
  simp only [saReg, setSa_sa, Vector_get_set]

theorem lcReg_setLc (s : State) (k : LoopIx) (v : Word) (n : LoopIx) :
    lcReg (setLc s k v) n = if n = k then v else lcReg s n := by
  simp only [lcReg, setLc_lc, Vector_get_set]

@[simp] theorem dreg_setD_same (s : State) (k : DReg) (v : DWord) (b : Bool) : dreg (setD s k v b) k = v := by
  simp [dreg_setD]

@[simp] theorem ltag_setD_same (s : State) (k : DReg) (v : DWord) (b : Bool) : ltag (setD s k v b) k = b := by
  simp [ltag_setD]

@[simp] theorem rreg_setR_same (s : State) (k : RReg) (v : Word) : rreg (setR s k v) k = v := by simp [rreg_setR]

@[simp] theorem nreg_setN_same (s : State) (k : Fin 4) (v : Word) : nreg (setN s k v) k = v := by simp [nreg_setN]

@[simp] theorem mreg_setM_same (s : State) (k : Fin 4) (v : Word) : mreg (setM s k v) k = v := by simp [mreg_setM]

@[simp] theorem saReg_setSa_same (s : State) (k : LoopIx) (v : Word) : saReg (setSa s k v) k = v := by simp [saReg_setSa]

@[simp] theorem lcReg_setLc_same (s : State) (k : LoopIx) (v : Word) : lcReg (setLc s k v) k = v := by simp [lcReg_setLc]

/-! ### Bits of SR -/

/-- A bit of a word in which one bit was written. -/
theorem getLsbD_withBit (x : Word) (i : Nat) (b : Bool) (j : Nat) (h : i < 32) :
    (withBit x i b).getLsbD j = if j = i then b else x.getLsbD j := by
  by_cases e : j = i
  · subst e
    cases b <;> simp [withBit, h]
  · have e2 : j < i ∨ (¬ j < i ∧ j - i ≠ 0) := by omega
    by_cases hj : j < 32
    · rcases e2 with e2 | ⟨e2, e3⟩ <;> cases b <;> simp [withBit, hj, e, e2] <;> omega
    · have := BitVec.getLsbD_of_ge x j (by omega)
      cases b <;> simp [withBit, hj, e, this]

/-- A bit of SR after a bit of it was written. -/
theorem srBit_setSrBit (s : State) (i : Nat) (b : Bool) (j : Nat) (h : i < 32) :
    srBit (setSrBit s i b) j = if j = i then b else srBit s j := getLsbD_withBit s.sr i b j h

/-- A word with a bit written equals the old one outside that bit. -/
theorem withBit_outside (x : Word) (i : Nat) (b : Bool) (m : Word) (h : i < 32) (hm : m.getLsbD i = true) :
    withBit x i b &&& ~~~m = x &&& ~~~m := by
  apply BitVec.eq_of_getLsbD_eq
  intro j hj
  simp only [BitVec.getLsbD_and, BitVec.getLsbD_not, getLsbD_withBit x i b j h]
  by_cases e : j = i
  · subst e
    simp [hm]
  · simp [e]

end Sys2Proof.Machine
end

