-- ==== Sys2Proof/Laws/Memory.lean ====
section
/-! SUPPORT. Memory: a byte read after a byte was written, the canonical form and what keeps it, words and longs in both byte
orders. -/

namespace Sys2Proof.Machine

/-! ### The list -/

theorem Memory.wfFrom_cons (lo : Nat) (c : Host.Cell) (m : Memory) : Memory.wfFrom lo (c :: m) = true ↔
    lo ≤ c.1 ∧ c.1 < 2 ^ 32 ∧ c.2 ≠ Config.blankByte ∧ Memory.wfFrom (c.1 + 1) m = true := by
  simp [Memory.wfFrom, and_assoc]

/-- A lower bound can be lowered. -/
theorem Memory.wfFrom_le {lo lo' : Nat} (h : lo ≤ lo') {m : Memory} (hm : Memory.wfFrom lo' m = true) :
    Memory.wfFrom lo m = true := by
  cases m with
  | nil => rfl
  | cons c m =>
    rw [Memory.wfFrom_cons] at hm ⊢
    exact ⟨Nat.le_trans h hm.1, hm.2⟩

/-- Below its lower bound a memory lists nothing. -/
theorem Memory.byte_below {lo a : Nat} {m : Memory} (hm : Memory.wfFrom lo m = true) (h : a < lo) :
    m.byte a = Config.blankByte := by
  induction m generalizing lo with
  | nil => rfl
  | cons c m ih =>
    rw [Memory.wfFrom_cons] at hm
    have hne : c.1 ≠ a := by omega
    simp only [Memory.byte, hne, if_false]
    exact ih hm.2.2.2 (by omega)

/-- A byte read after a byte was written. -/
theorem Memory.byte_put {lo : Nat} {m : Memory} (hm : Memory.wfFrom lo m = true) (a : Nat) (v : Byte) (b : Nat) :
    (m.put a v).byte b = if b = a then v else m.byte b := by
  induction m generalizing lo with
  | nil =>
    by_cases hv : v = Config.blankByte <;> by_cases hb : b = a <;> simp [Memory.put, Memory.byte, hv, hb, eq_comm]
    intro e
    exact absurd e.symm hb
  | cons c m ih =>
    have hc := (Memory.wfFrom_cons lo c m).mp hm
    simp only [Memory.put]
    split
    · rename_i hlt
      split
      · rename_i hv
        by_cases hb : b = a
        · subst hb
          have : c.1 ≠ b := by omega
          simp [Memory.byte, this, hv, Memory.byte_below hc.2.2.2 (show b < c.1 + 1 by omega)]
        · simp [hb]
      · by_cases hb : b = a
        · simp [Memory.byte, hb]
        · have : a ≠ b := fun e => hb e.symm
          simp [Memory.byte, hb, this]
    · split
      · rename_i _ heq
        split
        · rename_i hv
          by_cases hb : b = a
          · subst hb
            simp [hv, Memory.byte_below hc.2.2.2 (show b < c.1 + 1 by omega)]
          · have : c.1 ≠ b := by omega
            simp [Memory.byte, hb, this]
        · by_cases hb : b = a
          · simp [Memory.byte, hb]
          · have : a ≠ b := fun e => hb e.symm
            have : c.1 ≠ b := by omega
            simp [Memory.byte, *]
      · rename_i hlt hne
        have := ih hc.2.2.2
        by_cases hb : c.1 = b
        · have : b ≠ a := by omega
          simp [Memory.byte, hb, this]
        · simp [Memory.byte, hb, this]

/-- Writing a byte keeps the canonical form. -/
theorem Memory.wfFrom_put {lo : Nat} {m : Memory} (hm : Memory.wfFrom lo m = true) (a : Nat) (v : Byte) (hlo : lo ≤ a)
    (ha : a < 2 ^ 32) : Memory.wfFrom lo (m.put a v) = true := by
  induction m generalizing lo with
  | nil =>
    simp only [Memory.put]
    split
    · rfl
    · rename_i hv
      exact (Memory.wfFrom_cons _ _ _).mpr ⟨hlo, ha, hv, rfl⟩
  | cons c m ih =>
    have hc := (Memory.wfFrom_cons lo c m).mp hm
    simp only [Memory.put]
    split
    · rename_i hlt
      split
      · exact hm
      · rename_i hv
        exact (Memory.wfFrom_cons _ _ _).mpr ⟨hlo, ha, hv, (Memory.wfFrom_cons _ _ _).mpr ⟨hlt, hc.2⟩⟩
    · split
      · rename_i hlt heq
        split
        · exact Memory.wfFrom_le (by omega) hc.2.2.2
        · rename_i hv
          exact (Memory.wfFrom_cons _ _ _).mpr ⟨hlo, ha, hv, by simpa [heq] using hc.2.2.2⟩
      · rename_i hlt hne
        exact (Memory.wfFrom_cons _ _ _).mpr ⟨hc.1, hc.2.1, hc.2.2.1, ih hc.2.2.2 (by omega)⟩

theorem Memory.wf_put {m : Memory} (hm : m.wf = true) (a : Word) (v : Byte) : (m.put a.toNat v).wf = true :=
  Memory.wfFrom_put hm _ _ (Nat.zero_le _) a.isLt

/-- Canonical memories that read alike are equal. -/
theorem Memory.eq_of_byte_eq {lo : Nat} {m m' : Memory} (hm : Memory.wfFrom lo m = true)
    (hm' : Memory.wfFrom lo m' = true) (h : ∀ a, Memory.byte m a = Memory.byte m' a) : m = m' := by
  induction m generalizing lo m' with
  | nil =>
    cases m' with
    | nil => rfl
    | cons c m' =>
      have hc := (Memory.wfFrom_cons lo c m').mp hm'
      have := h c.1
      simp [Memory.byte] at this
      exact absurd this.symm hc.2.2.1
  | cons c m ih =>
    have hc := (Memory.wfFrom_cons lo c m).mp hm
    cases m' with
    | nil =>
      have := h c.1
      simp [Memory.byte] at this
      exact absurd this hc.2.2.1
    | cons c' m' =>
      have hc' := (Memory.wfFrom_cons lo c' m').mp hm'
      have hk : c.1 = c'.1 := by
        rcases Nat.lt_trichotomy c.1 c'.1 with hlt | heq | hgt
        · have h1 := h c.1
          have : c'.1 ≠ c.1 := by omega
          simp [Memory.byte, this, Memory.byte_below hc'.2.2.2 (show c.1 < c'.1 + 1 by omega)] at h1
          exact absurd h1 hc.2.2.1
        · exact heq
        · have h1 := h c'.1
          have : c.1 ≠ c'.1 := by omega
          simp [Memory.byte, this, Memory.byte_below hc.2.2.2 (show c'.1 < c.1 + 1 by omega)] at h1
          exact absurd h1.symm hc'.2.2.1
      have hv : c.2 = c'.2 := by simpa [Memory.byte, hk] using h c.1
      have hrest : ∀ a, Memory.byte m a = Memory.byte m' a := by
        intro a
        by_cases e : c.1 = a
        · rw [Memory.byte_below hc.2.2.2 (by omega), Memory.byte_below hc'.2.2.2 (by omega)]
        · simpa [Memory.byte, e, ← hk] using h a
      rw [ih hc.2.2.2 (by rw [hk]; exact hc'.2.2.2) hrest]
      exact congrArg (· :: m') (Prod.ext hk hv)

/-! ### Bytes of a state -/

theorem byteAt_putByte {s : State} (hm : s.mem.wf = true) (a : Word) (v : Byte) (b : Word) :
    byteAt (putByte s a v) b = if b = a then v else byteAt s b := by
  simp only [byteAt, putByte_mem, Memory.byte_put hm, BitVec.toNat_inj]

@[simp] theorem putByte_wf {s : State} (hm : s.mem.wf = true) (a : Word) (v : Byte) : (putByte s a v).mem.wf = true :=
  Memory.wf_put hm a v

/-- An address and a nearby one differ. -/
theorem add_ne_add (a x y : Word) (h : x ≠ y) : a + x ≠ a + y := fun e => h (by simpa using e)

theorem ne_add (a x : Word) (h : x ≠ 0#32) : a ≠ a + x := fun e => h (by simpa using e.symm)

/-! ### Words and longs -/

theorem put16_eq (s : State) (a : Word) (v : Word16) : put16 s a v =
    putByte (putByte s a (v.extractLsb' (if bigEndian s then 8 else 0) 8)) (a + 1)
      (v.extractLsb' (if bigEndian s then 0 else 8) 8) := by
  have hlo : v.setWidth 8 = v.extractLsb' 0 8 := by ext i hi; simp
  have hhi : (v >>> 8).setWidth 8 = v.extractLsb' 8 8 := by ext i hi; simp
  cases h : bigEndian s <;> simp [put16, h, hlo, hhi]

theorem put32_eq (s : State) (a : Word) (v : Word) : put32 s a v =
    putByte (putByte (putByte (putByte s a (v.extractLsb' (if bigEndian s then 24 else 0) 8)) (a + 1)
      (v.extractLsb' (if bigEndian s then 16 else 8) 8)) (a + 2) (v.extractLsb' (if bigEndian s then 8 else 16) 8)) (a + 3)
      (v.extractLsb' (if bigEndian s then 0 else 24) 8) := by
  have hb : ∀ i, (v >>> (8 * i)).setWidth 8 = v.extractLsb' (8 * i) 8 := by intro i; ext j hj; simp
  have h0 := hb 0
  have h1 := hb 1
  have h2 := hb 2
  have h3 := hb 3
  cases h : bigEndian s <;> simp_all [put32]

@[simp] theorem put16_wf {s : State} (hm : s.mem.wf = true) (a : Word) (v : Word16) : (put16 s a v).mem.wf = true := by
  rw [put16_eq]
  exact putByte_wf (putByte_wf hm _ _) _ _

@[simp] theorem put32_wf {s : State} (hm : s.mem.wf = true) (a : Word) (v : Word) : (put32 s a v).mem.wf = true := by
  rw [put32_eq]
  exact putByte_wf (putByte_wf (putByte_wf (putByte_wf hm _ _) _ _) _ _) _ _

/-- The bytes outside a stored word. -/
theorem put16_outside {s : State} (hm : s.mem.wf = true) (a : Word) (v : Word16) : SameMemBut a 2 s (put16 s a v) := by
  intro x hx
  have h0 : x ≠ a := by simpa using hx 0 (by decide)
  have h1 : x ≠ a + 1 := by simpa using hx 1 (by decide)
  rw [put16_eq, byteAt_putByte (putByte_wf hm _ _), byteAt_putByte hm, if_neg h1, if_neg h0]

/-- The bytes outside a stored long. -/
theorem put32_outside {s : State} (hm : s.mem.wf = true) (a : Word) (v : Word) : SameMemBut a 4 s (put32 s a v) := by
  intro x hx
  have h0 : x ≠ a := by simpa using hx 0 (by decide)
  have h1 : x ≠ a + 1 := by simpa using hx 1 (by decide)
  have h2 : x ≠ a + 2 := by simpa using hx 2 (by decide)
  have h3 : x ≠ a + 3 := by simpa using hx 3 (by decide)
  rw [put32_eq, byteAt_putByte (putByte_wf (putByte_wf (putByte_wf hm _ _) _ _) _ _),
    byteAt_putByte (putByte_wf (putByte_wf hm _ _) _ _), byteAt_putByte (putByte_wf hm _ _), byteAt_putByte hm,
    if_neg h3, if_neg h2, if_neg h1, if_neg h0]

@[simp] theorem bigEndian_putByte' (s : State) (a : Word) (v : Byte) : bigEndian (putByte s a v) = bigEndian s := rfl

theorem bytes_of_word (v : Word16) : v.extractLsb' 8 8 ++ v.extractLsb' 0 8 = v := by
  rw [BitVec.extractLsb'_append_extractLsb'_eq_extractLsb' (show 8 = 0 + 8 from rfl)]
  exact BitVec.extractLsb'_eq_self

theorem bytes_of_long (v : Word) :
    v.extractLsb' 24 8 ++ v.extractLsb' 16 8 ++ v.extractLsb' 8 8 ++ v.extractLsb' 0 8 = v := by
  rw [BitVec.extractLsb'_append_extractLsb'_eq_extractLsb' (show 24 = 16 + 8 from rfl),
    BitVec.extractLsb'_append_extractLsb'_eq_extractLsb' (show 16 = 8 + 8 from rfl),
    BitVec.extractLsb'_append_extractLsb'_eq_extractLsb' (show 8 = 0 + 8 from rfl)]
  exact BitVec.extractLsb'_eq_self

/-- A stored word is read back. -/
theorem mem16_put16 {s : State} (hm : s.mem.wf = true) (a : Word) (v : Word16) : mem16 (put16 s a v) a = v := by
  have h1 : a ≠ a + 1 := ne_add a 1 (by decide)
  rw [put16_eq]
  simp only [mem16, bigEndian_putByte', byteAt_putByte (putByte_wf hm _ _), byteAt_putByte hm, h1, h1.symm, if_true,
    if_false]
  cases bigEndian s <;> exact bytes_of_word v

/-- A stored long is read back. -/
theorem mem32_put32 {s : State} (hm : s.mem.wf = true) (a : Word) (v : Word) : mem32 (put32 s a v) a = v := by
  have h1 : a ≠ a + 1 := ne_add a 1 (by decide)
  have h2 : a ≠ a + 2 := ne_add a 2 (by decide)
  have h3 : a ≠ a + 3 := ne_add a 3 (by decide)
  have h12 : a + 1 ≠ a + 2 := add_ne_add a 1 2 (by decide)
  have h13 : a + 1 ≠ a + 3 := add_ne_add a 1 3 (by decide)
  have h23 : a + 2 ≠ a + 3 := add_ne_add a 2 3 (by decide)
  have hw := putByte_wf hm a (v.extractLsb' (if bigEndian s then 24 else 0) 8)
  have hw2 := putByte_wf hw (a + 1) (v.extractLsb' (if bigEndian s then 16 else 8) 8)
  have hw3 := putByte_wf hw2 (a + 2) (v.extractLsb' (if bigEndian s then 8 else 16) 8)
  rw [put32_eq]
  simp only [mem32, bigEndian_putByte', byteAt_putByte hw3, byteAt_putByte hw2, byteAt_putByte hw, byteAt_putByte hm, h1, h2,
    h3, h12, h13, h23, h1.symm, h2.symm, h3.symm, h12.symm, h13.symm, h23.symm, if_true, if_false]
  cases bigEndian s <;> exact bytes_of_long v

/-- Every byte but two ranges that follow each other. -/
theorem SameMemBut.trans {a : Word} {v w : Nat} {s t u : State} (h : SameMemBut a v s t)
    (h' : SameMemBut (a + BitVec.ofNat 32 v) w t u) : SameMemBut a (v + w) s u := by
  intro x hx
  rw [h' x, h x (fun k hk => hx k (by omega))]
  intro k hk
  have := hx (v + k) (by omega)
  rwa [BitVec.add_assoc, ← BitVec.ofNat_add]

theorem SameMemBut.of_sameMem {a : Word} {w : Nat} {s t : State} (h : SameMem s t) : SameMemBut a w s t := fun x _ => h x

theorem SameMem.refl (s : State) : SameMem s s := fun _ => rfl

theorem SameMem.trans {s t u : State} (h : SameMem s t) (h' : SameMem t u) : SameMem s u := fun a => (h' a).trans (h a)

theorem SameMem.of_mem_eq {s t : State} (h : t.mem = s.mem) : SameMem s t := fun a => by simp [byteAt, h]

/-- The memory of the state after reset is canonical. -/
theorem reset_mem_wf (p : Params) : (State.resetWith p).mem.wf = true := rfl

/-! ### Updates that do not touch memory, and reads of words -/

theorem mem16_congr {s t : State} (hb : bigEndian t = bigEndian s) (a : Word)
    (h : ∀ k, k < 2 → byteAt t (a + BitVec.ofNat 32 k) = byteAt s (a + BitVec.ofNat 32 k)) : mem16 t a = mem16 s a := by
  have h0 : byteAt t a = byteAt s a := by simpa using h 0 (by decide)
  have h1 : byteAt t (a + 1) = byteAt s (a + 1) := h 1 (by decide)
  simp only [mem16, hb, h0, h1]

theorem mem32_congr {s t : State} (hb : bigEndian t = bigEndian s) (a : Word)
    (h : ∀ k, k < 4 → byteAt t (a + BitVec.ofNat 32 k) = byteAt s (a + BitVec.ofNat 32 k)) : mem32 t a = mem32 s a := by
  have h0 : byteAt t a = byteAt s a := by simpa using h 0 (by decide)
  have h1 : byteAt t (a + 1) = byteAt s (a + 1) := h 1 (by decide)
  have h2 : byteAt t (a + 2) = byteAt s (a + 2) := h 2 (by decide)
  have h3 : byteAt t (a + 3) = byteAt s (a + 3) := h 3 (by decide)
  simp only [mem32, hb, h0, h1, h2, h3]

end Sys2Proof.Machine
end

