-- ==== Sys2Proof/Laws/Frame.lean ====
section
/-! SUPPORT. The frames of Safety: they hold of no change, they compose, they weaken; and the frame of each single update. -/

namespace Sys2Proof.Machine

/-! ### Composition -/

theorem and_not_zero (x : Word) : x &&& ~~~0#32 = x := BitVec.and_allOnes

theorem Untouched.refl (ds : List Dest) (b c : Word) (s : State) : Untouched ds b c s s := by
  constructor <;> intros <;> simp

theorem Untouched.trans {ds es : List Dest} {b b' c c' : Word} {s t u : State} (h : Untouched ds b c s t)
    (h' : Untouched es b' c' t u) : Untouched (ds ++ es) (b ||| b') (c ||| c') s u := by
  have mask : ∀ x y z m m' : Word, y &&& ~~~m = x &&& ~~~m → z &&& ~~~m' = y &&& ~~~m' →
      z &&& ~~~(m ||| m') = x &&& ~~~(m ||| m') := by
    intro x y z m m' h1 h2
    rw [BitVec.not_or, ← BitVec.and_assoc, ← BitVec.and_assoc, BitVec.and_assoc, BitVec.and_comm (~~~m), ← BitVec.and_assoc,
      h2, BitVec.and_assoc, BitVec.and_comm (~~~m'), ← BitVec.and_assoc, h1]
  constructor
  · intro n hn
    rw [List.mem_append, not_or] at hn
    exact ⟨(h'.d n hn.2).1.trans (h.d n hn.1).1, (h'.d n hn.2).2.trans (h.d n hn.1).2⟩
  · intro n hn
    rw [List.mem_append, not_or] at hn
    exact (h'.r n hn.2).trans (h.r n hn.1)
  · intro n hn
    rw [List.mem_append, not_or] at hn
    exact (h'.n n hn.2).trans (h.n n hn.1)
  · intro n hn
    rw [List.mem_append, not_or] at hn
    exact (h'.m n hn.2).trans (h.m n hn.1)
  · intro hn
    rw [List.mem_append, not_or] at hn
    exact (h'.mctl hn.2).trans (h.mctl hn.1)
  · intro hn
    rw [List.mem_append, not_or] at hn
    exact (h'.nsp hn.2).trans (h.nsp hn.1)
  · intro hn
    rw [List.mem_append, not_or] at hn
    exact (h'.esp hn.2).trans (h.esp hn.1)
  · intro n hn
    rw [List.mem_append, not_or] at hn
    exact (h'.sa n hn.2).trans (h.sa n hn.1)
  · intro n hn
    rw [List.mem_append, not_or] at hn
    exact (h'.lc n hn.2).trans (h.lc n hn.1)
  · intro hn
    rw [List.mem_append, not_or] at hn
    exact (h'.vba hn.2).trans (h.vba hn.1)
  · exact mask _ _ _ _ _ h.sr h'.sr
  · exact mask _ _ _ _ _ h.emr h'.emr

/-- A frame with more registers and bits. -/
theorem Untouched.mono {ds es : List Dest} {b b' c c' : Word} {s t : State} (h : Untouched ds b c s t) (hd : ∀ x ∈ ds, x ∈ es)
    (hb : ∀ i : Nat, b.getLsbD i = true → b'.getLsbD i = true) (hc : ∀ i : Nat, c.getLsbD i = true → c'.getLsbD i = true) :
    Untouched es b' c' s t := by
  have mask : ∀ x y m m' : Word, (∀ i : Nat, m.getLsbD i = true → m'.getLsbD i = true) → y &&& ~~~m = x &&& ~~~m →
      y &&& ~~~m' = x &&& ~~~m' := by
    intro x y m m' hm hxy
    apply BitVec.eq_of_getLsbD_eq
    intro i hi
    have := congrArg (fun z => z.getLsbD i) hxy
    simp only [BitVec.getLsbD_and, BitVec.getLsbD_not] at this ⊢
    cases h' : m.getLsbD i
    · simp only [h', Bool.not_false, Bool.and_true, hi, decide_true] at this
      rw [this]
    · simp [hm i h']
  exact ⟨fun n hn => h.d n fun x => hn (hd _ x), fun n hn => h.r n fun x => hn (hd _ x), fun n hn => h.n n fun x => hn (hd _ x),
    fun n hn => h.m n fun x => hn (hd _ x), fun hn => h.mctl fun x => hn (hd _ x), fun hn => h.nsp fun x => hn (hd _ x),
    fun hn => h.esp fun x => hn (hd _ x), fun n hn => h.sa n fun x => hn (hd _ x), fun n hn => h.lc n fun x => hn (hd _ x),
    fun hn => h.vba fun x => hn (hd _ x), mask _ _ _ _ hb h.sr, mask _ _ _ _ hc h.emr⟩

theorem SameCore.refl (s : State) : SameCore s s := by constructor <;> rfl

theorem SameCore.trans {s t u : State} (h : SameCore s t) (h' : SameCore t u) : SameCore s u :=
  ⟨h'.pc.trans h.pc, h'.proc.trans h.proc, h'.reqIllegal.trans h.reqIllegal, h'.reqDebug.trans h.reqDebug,
    h'.window.trans h.window, h'.loopJump.trans h.loopJump, h'.ignoreA.trans h.ignoreA, h'.ignoreB.trans h.ignoreB,
    h'.inputs.trans h.inputs, h'.events.trans h.events, h'.params.trans h.params, h'.lastPc.trans h.lastPc⟩

theorem SameRas.refl (s : State) : SameRas s s := ⟨rfl, rfl, rfl, rfl⟩

theorem SameRas.trans {s t u : State} (h : SameRas s t) (h' : SameRas t u) : SameRas s u :=
  ⟨h'.1.trans h.1, h'.2.1.trans h.2.1, h'.2.2.1.trans h.2.2.1, h'.2.2.2.trans h.2.2.2⟩

theorem Plain.refl (ds : List Dest) (b : Word) (s : State) : Plain ds b s s :=
  ⟨Untouched.refl _ _ _ _, SameCore.refl s, ⟨rfl, rfl⟩, SameRas.refl s, ⟨rfl, rfl⟩, SameMem.refl s⟩

theorem Plain.trans {ds es : List Dest} {b b' : Word} {s t u : State} (h : Plain ds b s t) (h' : Plain es b' t u) :
    Plain (ds ++ es) (b ||| b') s u := by
  obtain ⟨h1, h2, h3, h4, h5, h6⟩ := h
  obtain ⟨g1, g2, g3, g4, g5, g6⟩ := h'
  exact ⟨by simpa using h1.trans g1, h2.trans g2, ⟨g3.1.trans h3.1, g3.2.trans h3.2⟩, h4.trans g4,
    ⟨g5.1.trans h5.1, g5.2.trans h5.2⟩, h6.trans g6⟩

/-- Nothing that may overflow changed: a plain frame is an arithmetic one. -/
theorem Plain.arith {ds : List Dest} {b : Word} {s t : State} (h : Plain ds b s t) : Arith ds b s t := by
  obtain ⟨h1, h2, h3, h4, h5, h6⟩ := h
  have he : t.emr = s.emr := by simpa only [and_not_zero] using h1.emr
  refine ⟨h1.mono (fun _ x => x) (fun _ x => x) (fun i x => by simp at x), h2, h3, h4, ?_, h6⟩
  constructor <;> simp [dovf, he, h5.1, h5.2]

/-! ### Single updates -/

theorem setD_frame (s : State) (k : DReg) (v : DWord) (b : Bool) : Plain [.d k] 0#32 s (setD s k v b) := by
  refine ⟨?_, ?_, ⟨rfl, rfl⟩, ⟨rfl, rfl, rfl, rfl⟩, ⟨rfl, rfl⟩, fun _ => rfl⟩
  · constructor <;> intros <;> simp_all [dreg_setD, ltag_setD]
  · constructor <;> rfl

theorem setR_frame (s : State) (k : RReg) (v : Word) : Plain [.r k] 0#32 s (setR s k v) := by
  refine ⟨?_, ?_, ⟨rfl, rfl⟩, ⟨rfl, rfl, rfl, rfl⟩, ⟨rfl, rfl⟩, fun _ => rfl⟩
  · constructor <;> intros <;> simp_all [rreg_setR]
  · constructor <;> rfl

theorem setN_frame (s : State) (k : Fin 4) (v : Word) : Plain [.n k] 0#32 s (setN s k v) := by
  refine ⟨?_, ?_, ⟨rfl, rfl⟩, ⟨rfl, rfl, rfl, rfl⟩, ⟨rfl, rfl⟩, fun _ => rfl⟩
  · constructor <;> intros <;> simp_all [nreg_setN]
  · constructor <;> rfl

theorem setM_frame (s : State) (k : Fin 4) (v : Word) : Plain [.m k] 0#32 s (setM s k v) := by
  refine ⟨?_, ?_, ⟨rfl, rfl⟩, ⟨rfl, rfl, rfl, rfl⟩, ⟨rfl, rfl⟩, fun _ => rfl⟩
  · constructor <;> intros <;> simp_all [mreg_setM]
  · constructor <;> rfl

theorem setSa_frame (s : State) (k : LoopIx) (v : Word) : Plain [.sa k] 0#32 s (setSa s k v) := by
  refine ⟨?_, ?_, ⟨rfl, rfl⟩, ⟨rfl, rfl, rfl, rfl⟩, ⟨rfl, rfl⟩, fun _ => rfl⟩
  · constructor <;> intros <;> simp_all [saReg_setSa]
  · constructor <;> rfl

theorem setLc_frame (s : State) (k : LoopIx) (v : Word) : Plain [.lc k] 0#32 s (setLc s k v) := by
  refine ⟨?_, ?_, ⟨rfl, rfl⟩, ⟨rfl, rfl, rfl, rfl⟩, ⟨rfl, rfl⟩, fun _ => rfl⟩
  · constructor <;> intros <;> simp_all [lcReg_setLc]
  · constructor <;> rfl

theorem writeVba_frame (s : State) (v : Word) : Plain [.vba] 0#32 s (writeVba s v) := by
  refine ⟨?_, ?_, ⟨rfl, rfl⟩, ⟨rfl, rfl, rfl, rfl⟩, ⟨rfl, rfl⟩, fun _ => rfl⟩
  · constructor <;> intros <;> simp_all
  · constructor <;> rfl

theorem writeMctl_frame (s : State) (v : Word) : Plain [.mctl] 0#32 s (writeMctl s v) := by
  refine ⟨?_, ?_, ⟨rfl, rfl⟩, ⟨rfl, rfl, rfl, rfl⟩, ⟨rfl, rfl⟩, fun _ => rfl⟩
  · constructor <;> intros <;> simp_all
  · constructor <;> rfl

theorem setNsp_frame (s : State) (v : Word) : Plain [.nsp] 0#32 s (setNsp s v) := by
  refine ⟨?_, ?_, ⟨rfl, rfl⟩, ⟨rfl, rfl, rfl, rfl⟩, ⟨rfl, rfl⟩, fun _ => rfl⟩
  · constructor <;> intros <;> simp_all
  · constructor <;> rfl

theorem setEsp_frame (s : State) (v : Word) : Plain [.esp] 0#32 s (setEsp s v) := by
  refine ⟨?_, ?_, ⟨rfl, rfl⟩, ⟨rfl, rfl, rfl, rfl⟩, ⟨rfl, rfl⟩, fun _ => rfl⟩
  · constructor <;> intros <;> simp_all
  · constructor <;> rfl

/-- Writing the active stack pointer. -/
theorem setSp_frame (s : State) (v : Word) : Plain [spDest s] 0#32 s (setSp s v) := by
  unfold setSp spDest
  split
  · exact setEsp_frame s v
  · exact setNsp_frame s v

/-- Writing the other stack pointer. -/
theorem setOsp_frame (s : State) (v : Word) : Plain [ospDest s] 0#32 s (setOsp s v) := by
  unfold setOsp ospDest
  split
  · exact setNsp_frame s v
  · exact setEsp_frame s v

/-- Writing one bit of SR. -/
theorem setSrBit_frame (s : State) (i : Nat) (b : Bool) (m : Word) (h : i < 32) (hm : m.getLsbD i = true) :
    Plain [] m s (setSrBit s i b) := by
  refine ⟨?_, ?_, ⟨rfl, rfl⟩, ⟨rfl, rfl, rfl, rfl⟩, ⟨rfl, rfl⟩, fun _ => rfl⟩
  · constructor <;> intros <;> try simp
    exact withBit_outside s.sr i b m h hm
  · constructor <;> rfl

theorem setT_frame (s : State) (b : Bool) : Plain [] bitT s (setT s b) := setSrBit_frame s 1 b bitT (by decide) (by decide)

theorem setC_frame (s : State) (b : Bool) : Plain [] bitC s (setC s b) := setSrBit_frame s 0 b bitC (by decide) (by decide)

@[simp] theorem tBit_setT (s : State) (b : Bool) : tBit (setT s b) = b := by
  simp [tBit, setT, srBit_setSrBit]

@[simp] theorem carry_setC (s : State) (b : Bool) : carry (setC s b) = b := by
  simp [carry, setC, srBit_setSrBit]

/-- A legal value of SR is kept by a write of SR outside the reserved bits. -/
theorem writeSr_frame (s : State) (v : Word) (h : SrLegal s) : Plain [] srMask s (writeSr s v) := by
  refine ⟨?_, ?_, ⟨rfl, rfl⟩, ⟨rfl, rfl, rfl, rfl⟩, ⟨rfl, rfl⟩, fun _ => rfl⟩
  · constructor <;> intros <;> try simp
    rw [BitVec.and_assoc, ← h, BitVec.and_assoc]
    simp
  · constructor <;> rfl

end Sys2Proof.Machine
end

