-- ==== Sys2Proof/Laws/Access.lean ====
section
/-! SUPPORT. Effective addresses and data accesses: what each leaves alone, and what it reads or stores outside the EOnCE
window. -/

namespace Sys2Proof.Machine

/-! ### Effective addresses (R120, R351) -/

/-- In linear mode, and for R8..R15, an address addition is the plain sum (R121). -/
theorem aguAdd_linear (s : State) (i : RReg) (r o : Word) (w : Nat) (b : Bool) (tag : Nat) (h : 8 ≤ i.val ∨ amOf s i = 0) :
    aguAdd s i r o w b tag = r + o := by
  unfold aguAdd
  rcases h with h | h
  · simp [h]
  · simp [h]

theorem eaMode_frame (s : State) (m : EaMode) (rn : RReg) (w : Nat) : Plain (eaDests m rn) 0#32 s (eaMode s m rn w).st := by
  cases m with
  | indexN0 => exact Plain.refl _ _ s
  | plain => exact Plain.refl _ _ s
  | postDec => exact setR_frame ..
  | postInc => exact setR_frame ..
  | postN k => exact setR_frame ..

theorem memEa_frame (s : State) (m : Mem) (w : Nat) : Plain (memDests m) 0#32 s (memEa s m w).st := by
  cases m with
  | ea em rn => exact eaMode_frame ..
  | _ => exact Plain.refl _ _ s

@[simp] theorem extEa_st (s : State) (m : ExtMem) : (extEa s m).st = s := by cases m <;> rfl

@[simp] theorem bmuEa_st (s : State) (m : BmuMem) : (bmuEa s m).st = s := by cases m <;> rfl

/-- What an effective address keeps beside the frame: memory, the EOnCE, the parameters, the byte order. -/
theorem eaMode_st (s : State) (m : EaMode) (rn : RReg) (w : Nat) : ∃ r, (eaMode s m rn w).st = { s with r := r } := by
  cases m <;> exact ⟨_, rfl⟩

theorem memEa_st (s : State) (m : Mem) (w : Nat) : ∃ r, (memEa s m w).st = { s with r := r } := by
  cases m with
  | ea em rn => exact eaMode_st ..
  | _ => exact ⟨_, rfl⟩

/-- An aligned access goes on. -/
theorem withEa_aligned {e : Ea} {w : Nat} (h : aligned e.addr w = true) (k : Ea → Res State) : withEa e w k = k e := by
  simp [withEa, h]

/-- A misaligned one is refused (R110). -/
theorem withEa_misaligned {e : Ea} {w : Nat} (h : aligned e.addr w = false) (k : Ea → Res State) :
    withEa e w k = .refused .misalignedAccess := by
  simp [withEa, h]

/-! ### The EOnCE window -/

/-- Only the EOnCE may differ. -/
def OnlyEonce (s t : State) : Prop := t = { s with eonce := t.eonce }

/-- Only memory and the EOnCE may differ. -/
def OnlyMemEonce (s t : State) : Prop := t = { s with mem := t.mem, eonce := t.eonce }

theorem OnlyEonce.refl (s : State) : OnlyEonce s s := rfl

theorem OnlyEonce.trans {s t u : State} (h : OnlyEonce s t) (h' : OnlyEonce t u) : OnlyEonce s u := by
  unfold OnlyEonce at *
  rw [h'] ; rw [h]

theorem OnlyEonce.memEonce {s t : State} (h : OnlyEonce s t) : OnlyMemEonce s t := by
  unfold OnlyEonce OnlyMemEonce at *
  rw [h]

theorem OnlyMemEonce.trans {s t u : State} (h : OnlyMemEonce s t) (h' : OnlyMemEonce t u) : OnlyMemEonce s u := by
  unfold OnlyMemEonce at *
  rw [h'] ; rw [h]

theorem OnlyMemEonce.untouched {s t : State} (h : OnlyMemEonce s t) (ds : List Dest) (b c : Word) : Untouched ds b c s t := by
  unfold OnlyMemEonce at h
  rw [h]
  constructor <;> intros <;> first | rfl | exact ⟨rfl, rfl⟩

theorem OnlyMemEonce.core {s t : State} (h : OnlyMemEonce s t) : SameCore s t := by
  unfold OnlyMemEonce at h
  rw [h]
  constructor <;> rfl

theorem outside_zero {s : State} {a : Word} {w : Nat} (h : OutsideEonce s a w) (hw : 0 < w) : eonceOffset s a = none := by
  simpa using h 0 hw

/-- A part of an access outside the window is outside it. -/
theorem OutsideEonce.part {s : State} {a : Word} {w : Nat} (h : OutsideEonce s a w) (k v : Nat) (hk : k + v ≤ w) :
    OutsideEonce s (a + BitVec.ofNat 32 k) v := by
  intro i hi
  have := h (k + i) (by omega)
  rwa [BitVec.ofNat_add, ← BitVec.add_assoc] at this

theorem OutsideEonce.congr {s t : State} {a : Word} {w : Nat} (h : OutsideEonce s a w) (hp : t.params = s.params) :
    OutsideEonce t a w := by
  intro i hi
  have := h i hi
  simpa only [eonceOffset, hp] using this

theorem eonceReadEffect_only (s : State) (k : Nat) : OnlyEonce s (eonceReadEffect s k) := by
  unfold eonceReadEffect tbAdvance
  split
  · rfl
  · split <;> rfl

theorem eonceRead32_only (s : State) (off tag : Nat) : OnlyEonce s (eonceRead32 s off tag).2 := by
  unfold eonceRead32
  split
  · rfl
  · split
    · rfl
    · exact eonceReadEffect_only ..

theorem eonceRead16_only (s : State) (off tag : Nat) : OnlyEonce s (eonceRead16 s off tag).2 := by
  unfold eonceRead16
  dsimp only
  split
  · rfl
  · split
    · rfl
    · split <;> rfl

theorem eonceWrite_only (s : State) (k : Nat) (v : Word) : OnlyEonce s (eonceWrite s k v) := by
  unfold eonceWrite
  split <;> rfl

theorem eonceWrite32_only (s : State) (off : Nat) (v : Word) : OnlyEonce s (eonceWrite32 s off v) := by
  unfold eonceWrite32
  split
  · exact eonceWrite_only ..
  · rfl

theorem eonceWrite16_only (s : State) (off : Nat) (v : Word16) : OnlyEonce s (eonceWrite16 s off v) := by
  unfold eonceWrite16
  dsimp only
  split
  · rfl
  · split
    · split <;> exact eonceWrite_only ..
    · split
      · exact eonceWrite_only ..
      · rfl

/-! ### Loads -/

theorem load8_only (s : State) (a : Word) (tag : Nat) : OnlyEonce s (load8 s a tag).2 := by
  unfold load8
  split <;> rfl

theorem load16_only (s : State) (a : Word) (tag : Nat) : OnlyEonce s (load16 s a tag).2 := by
  unfold load16
  split
  · rfl
  · exact eonceRead16_only ..

theorem load32_only (s : State) (a : Word) (tag : Nat) : OnlyEonce s (load32 s a tag).2 := by
  unfold load32
  split
  · rfl
  · exact eonceRead32_only ..

theorem load8_outside {s : State} {a : Word} (h : eonceOffset s a = none) (tag : Nat) : load8 s a tag = (byteAt s a, s) := by
  simp [load8, h]

theorem load16_outside {s : State} {a : Word} (h : eonceOffset s a = none) (tag : Nat) : load16 s a tag = (mem16 s a, s) := by
  simp [load16, h]

theorem load32_outside {s : State} {a : Word} (h : eonceOffset s a = none) (tag : Nat) : load32 s a tag = (mem32 s a, s) := by
  simp [load32, h]

/-- The two words of four bytes. -/
theorem halves_bytes (a b c d : Byte) :
    (a ++ b ++ c ++ d).extractLsb' 0 16 = c ++ d ∧ (a ++ b ++ c ++ d).extractLsb' 16 16 = a ++ b := by
  constructor <;> refine BitVec.eq_of_getLsbD_eq fun i hi => ?_ <;>
    simp only [BitVec.getLsbD_extractLsb', BitVec.getLsbD_append, hi, decide_true, Bool.true_and]
  · rw [Nat.zero_add]
    by_cases h : i < 8
    · simp [h]
    · simp [h, show i - 8 < 8 by omega]
  · simp [show ¬ 16 + i < 8 by omega, show ¬ 16 + i - 8 < 8 by omega, show 16 + i - 8 - 8 = i by omega]

/-- The words of a long in memory are the words at its address and 2 above it. -/
theorem halves_mem32 (s : State) (a : Word) : halves s (mem32 s a) = (mem16 s a, mem16 s (a + 2)) := by
  have h3 : a + 2 + 1 = a + 3#32 := by bv_omega
  have h (w x y z : Byte) := halves_bytes w x y z
  unfold halves mem32 mem16
  rw [h3]
  cases bigEndian s
  · exact Prod.ext (h _ _ _ _).1 (h _ _ _ _).2
  · exact Prod.ext (h _ _ _ _).2 (h _ _ _ _).1

theorem loadWords_only (s : State) (a : Word) (t k : Nat) : OnlyEonce s (loadWords s a t k).2 := by
  induction k using Nat.twoStepInduction generalizing s a t with
  | zero => rfl
  | one => exact load16_only s a t
  | more k ih _ => exact (load32_only s a t).trans (ih _ _ _)

/-- Words read outside the window, at rising addresses. -/
theorem loadWords_outside {s : State} {a : Word} {k : Nat} (h : OutsideEonce s a (2 * k)) (t : Nat) :
    loadWords s a t k = ((List.range k).map fun i => mem16 s (a + BitVec.ofNat 32 (2 * i)), s) := by
  induction k using Nat.twoStepInduction generalizing a t with
  | zero => rfl
  | one => simp [loadWords, load16_outside (outside_zero h (by omega))]
  | more k ih _ =>
    have hr := ih (a := a + 4) (h.part 4 (2 * k) (by omega)) (t + 1)
    simp only [loadWords, load32_outside (outside_zero h (by omega)), hr, halves_mem32, List.range_succ_eq_map, List.map_cons,
      List.map_map]
    refine Prod.ext (congrArg₂ List.cons (by simp) (congrArg₂ List.cons rfl (List.map_congr_left fun i _ => ?_))) rfl
    simp only [Function.comp_apply, Nat.succ_eq_add_one]
    rw [show 2 * (i + 1 + 1) = 4 + 2 * i by omega, BitVec.ofNat_add, ← BitVec.add_assoc]
    rfl

/-! ### Stores -/

theorem putByte_only (s : State) (a : Word) (v : Byte) : OnlyMemEonce s (putByte s a v) := rfl

theorem put16_only (s : State) (a : Word) (v : Word16) : OnlyMemEonce s (put16 s a v) := by
  rw [put16_eq]; rfl

theorem put32_only (s : State) (a : Word) (v : Word) : OnlyMemEonce s (put32 s a v) := by
  rw [put32_eq]; rfl

theorem store8_only (s : State) (a : Word) (v : Byte) : OnlyMemEonce s (store8 s a v) := by
  unfold store8
  split
  · rfl
  · rfl

theorem store16_only (s : State) (a : Word) (v : Word16) : OnlyMemEonce s (store16 s a v) := by
  unfold store16
  split
  · exact put16_only ..
  · exact (eonceWrite16_only ..).memEonce

theorem store32_only (s : State) (a : Word) (v : Word) : OnlyMemEonce s (store32 s a v) := by
  unfold store32
  split
  · exact put32_only ..
  · exact (eonceWrite32_only ..).memEonce

theorem OnlyEonce.mem {s t : State} (h : OnlyEonce s t) : t.mem = s.mem := by
  unfold OnlyEonce at h
  rw [h]

theorem OnlyEonce.sameMem {s t : State} (h : OnlyEonce s t) : SameMem s t := SameMem.of_mem_eq h.mem

theorem OnlyMemEonce.params {s t : State} (h : OnlyMemEonce s t) : t.params = s.params := by
  unfold OnlyMemEonce at h
  rw [h]

theorem OnlyMemEonce.bigEndian {s t : State} (h : OnlyMemEonce s t) : bigEndian t = bigEndian s := by
  unfold OnlyMemEonce at h
  rw [h]
  rfl

@[simp] theorem store8_wf {s : State} (hm : s.mem.wf = true) (a : Word) (v : Byte) : (store8 s a v).mem.wf = true := by
  unfold store8
  split
  · exact putByte_wf hm _ _
  · exact hm

@[simp] theorem store16_wf {s : State} (hm : s.mem.wf = true) (a : Word) (v : Word16) : (store16 s a v).mem.wf = true := by
  unfold store16
  split
  · exact put16_wf hm _ _
  · rw [(eonceWrite16_only ..).mem]; exact hm

@[simp] theorem store32_wf {s : State} (hm : s.mem.wf = true) (a : Word) (v : Word) : (store32 s a v).mem.wf = true := by
  unfold store32
  split
  · exact put32_wf hm _ _
  · rw [(eonceWrite32_only ..).mem]; exact hm

theorem putByte_outside {s : State} (hm : s.mem.wf = true) (a : Word) (v : Byte) : SameMemBut a 1 s (putByte s a v) := by
  intro x hx
  have h0 : x ≠ a := by simpa using hx 0 (by decide)
  rw [byteAt_putByte hm, if_neg h0]

theorem store8_outside {s : State} (hm : s.mem.wf = true) (a : Word) (v : Byte) : SameMemBut a 1 s (store8 s a v) := by
  unfold store8
  split
  · exact putByte_outside hm a v
  · exact .of_sameMem (SameMem.refl s)

theorem store16_outside {s : State} (hm : s.mem.wf = true) (a : Word) (v : Word16) : SameMemBut a 2 s (store16 s a v) := by
  unfold store16
  split
  · exact put16_outside hm a v
  · exact .of_sameMem (eonceWrite16_only ..).sameMem

theorem store32_outside {s : State} (hm : s.mem.wf = true) (a : Word) (v : Word) : SameMemBut a 4 s (store32 s a v) := by
  unfold store32
  split
  · exact put32_outside hm a v
  · exact .of_sameMem (eonceWrite32_only ..).sameMem

theorem store8_put {s : State} {a : Word} (h : eonceOffset s a = none) (v : Byte) : store8 s a v = putByte s a v := by
  simp [store8, h]

theorem store16_put {s : State} {a : Word} (h : eonceOffset s a = none) (v : Word16) : store16 s a v = put16 s a v := by
  simp [store16, h]

theorem store32_put {s : State} {a : Word} (h : eonceOffset s a = none) (v : Word) : store32 s a v = put32 s a v := by
  simp [store32, h]

@[simp] theorem eonce_put16 (s : State) (a : Word) (v : Word16) : (put16 s a v).eonce = s.eonce := by rw [put16_eq]; rfl

@[simp] theorem eonce_put32 (s : State) (a : Word) (v : Word) : (put32 s a v).eonce = s.eonce := by rw [put32_eq]; rfl

theorem storeWords_only (s : State) (a : Word) (vs : List Word16) : OnlyMemEonce s (storeWords s a vs) := by
  induction vs using List.twoStepInduction generalizing s a with
  | nil => rfl
  | singleton v => exact store16_only s a v
  | cons_cons v w vs ih _ => exact (store32_only s a _).trans (ih _ _)

theorem storeWords_wf {s : State} (hm : s.mem.wf = true) (a : Word) (vs : List Word16) : (storeWords s a vs).mem.wf = true := by
  induction vs using List.twoStepInduction generalizing s a with
  | nil => exact hm
  | singleton v => exact store16_wf hm a v
  | cons_cons v w vs ih _ => exact ih (store32_wf hm a _) _

theorem storeWords_outside {s : State} (hm : s.mem.wf = true) (a : Word) (vs : List Word16) :
    SameMemBut a (2 * vs.length) s (storeWords s a vs) := by
  induction vs using List.twoStepInduction generalizing s a with
  | nil => exact .of_sameMem (SameMem.refl s)
  | singleton v => exact store16_outside hm a v
  | cons_cons v w vs ih _ =>
    have h := (store32_outside hm a (joined s v w)).trans (ih (store32_wf hm a _) (a + 4))
    rw [List.length_cons, List.length_cons, show 2 * (vs.length + 1 + 1) = 4 + 2 * vs.length by omega]
    exact h

theorem storeWords_eonce {s : State} {a : Word} {vs : List Word16} (h : OutsideEonce s a (2 * vs.length)) :
    (storeWords s a vs).eonce = s.eonce := by
  induction vs using List.twoStepInduction generalizing s a with
  | nil => rfl
  | singleton v => exact (congrArg State.eonce (store16_put (outside_zero h (by simp)) v)).trans (eonce_put16 ..)
  | cons_cons v w vs ih _ =>
    rw [List.length_cons, List.length_cons] at h
    have h0 := outside_zero h (by omega)
    simp only [storeWords, store32_put h0]
    exact (ih ((h.part 4 (2 * vs.length) (by omega)).congr (put32_only s a _).params)).trans (eonce_put32 ..)

/-- The bytes of two words. -/
theorem bytes_joined (x y : Word16) : (x ++ y).extractLsb' 0 8 = y.extractLsb' 0 8 ∧ (x ++ y).extractLsb' 8 8 = y.extractLsb' 8 8
    ∧ (x ++ y).extractLsb' 16 8 = x.extractLsb' 0 8 ∧ (x ++ y).extractLsb' 24 8 = x.extractLsb' 8 8 := by
  refine ⟨?_, ?_, ?_, ?_⟩ <;> refine BitVec.eq_of_getLsbD_eq fun i hi => ?_ <;>
    simp only [BitVec.getLsbD_extractLsb', BitVec.getLsbD_append, hi, decide_true, Bool.true_and]
  · rw [if_pos (by omega)]
  · rw [if_pos (by omega)]
  · rw [if_neg (by omega), show 16 + i - 16 = 0 + i by omega]
  · rw [if_neg (by omega), show 24 + i - 16 = 8 + i by omega]

/-- Two words stored like a long are the two words stored one above the other. -/
theorem put32_joined (s : State) (a : Word) (v w : Word16) : put32 s a (joined s v w) = put16 (put16 s a v) (a + 2) w := by
  have hb : bigEndian (put16 s a v) = bigEndian s := (put16_only s a v).bigEndian
  have h3 : a + 2 + 1 = a + 3#32 := by bv_omega
  rw [put16_eq (put16 s a v), hb, put16_eq, put32_eq, h3, joined]
  cases bigEndian s <;> simp [bytes_joined]

/-- A range that ends before an address leaves the word there. -/
theorem mem16_of_sameMemBut {a b : Word} {w : Nat} {s t : State} (h : SameMemBut a w s t) (hb : bigEndian t = bigEndian s)
    (hd : ∀ i, i < 2 → ∀ k, k < w → b + BitVec.ofNat 32 i ≠ a + BitVec.ofNat 32 k) : mem16 t b = mem16 s b :=
  mem16_congr hb b fun i hi => h _ (hd i hi)

theorem mem32_of_sameMemBut {a b : Word} {w : Nat} {s t : State} (h : SameMemBut a w s t) (hb : bigEndian t = bigEndian s)
    (hd : ∀ i, i < 4 → ∀ k, k < w → b + BitVec.ofNat 32 i ≠ a + BitVec.ofNat 32 k) : mem32 t b = mem32 s b :=
  mem32_congr hb b fun i hi => h _ (hd i hi)

/-- Offsets below 2^32 that differ give addresses that differ. -/
theorem addr_ne {a : Word} {i k : Nat} (hi : i < 2 ^ 32) (hk : k < 2 ^ 32) (h : i ≠ k) :
    a + BitVec.ofNat 32 i ≠ a + BitVec.ofNat 32 k := by
  intro e
  have e' := BitVec.add_right_inj a |>.mp e
  have := congrArg BitVec.toNat e'
  simp only [BitVec.toNat_ofNat, Nat.mod_eq_of_lt hi, Nat.mod_eq_of_lt hk] at this
  exact h this

/-- Two longs stored one after the other, outside the window: both are read back. -/
theorem two_longs {s : State} {a : Word} (hm : s.mem.wf = true) (h : OutsideEonce s a 8) (v w : Word) :
    mem32 (store32 (store32 s a v) (a + 4) w) a = v ∧ mem32 (store32 (store32 s a v) (a + 4) w) (a + 4) = w
      ∧ (store32 (store32 s a v) (a + 4) w).eonce = s.eonce := by
  have h0 := outside_zero h (by omega)
  have hp := (put32_only s a v).params
  have h4 : eonceOffset (put32 s a v) (a + 4) = none := outside_zero ((h.part 4 4 (by omega)).congr hp) (by omega)
  rw [store32_put h0, store32_put h4]
  refine ⟨?_, mem32_put32 (put32_wf hm a v) (a + 4) w, by simp⟩
  rw [mem32_of_sameMemBut (put32_outside (put32_wf hm a v) (a + 4) w) (put32_only _ _ _).bigEndian, mem32_put32 hm]
  intro i hi k hk
  have : (a + 4) + BitVec.ofNat 32 k = a + BitVec.ofNat 32 (4 + k) := by rw [BitVec.ofNat_add, ← BitVec.add_assoc]; rfl
  rw [this]
  exact addr_ne (by omega) (by omega) (by omega)

/-- All bytes but the eight of two longs. -/
theorem two_longs_outside {s : State} (hm : s.mem.wf = true) (a v w : Word) :
    SameMemBut a 8 s (store32 (store32 s a v) (a + 4) w) :=
  (store32_outside hm a v).trans (store32_outside (store32_wf hm a v) (a + 4) w)

end Sys2Proof.Machine
end

