-- ==== Sys2Proof/Laws/Arith.lean ====
section
/-! SUPPORT. What an overflow event and each of the arithmetic writes does, once: the frame, the value, the limit tag, DOVF. -/

namespace Sys2Proof.Machine

/-! ### The limit tag as a range -/

theorem lnFrom_eq_beyond (v : DWord) (k : Nat) : lnFrom v k = beyond k v.toInt := by
  have hpos : (0 : Int) < 2 ^ k := by positivity
  have hdiv : (v.sshiftRight k).toInt = v.toInt / 2 ^ k := by
    rw [BitVec.toInt_sshiftRight, Int.shiftRight_eq_div_pow]
    norm_cast
  have h0 : v.sshiftRight k = 0#40 ↔ v.toInt / 2 ^ k = 0 := by rw [← hdiv, ← BitVec.toInt_inj]; rfl
  have h1 : v.sshiftRight k = BitVec.allOnes 40 ↔ v.toInt / 2 ^ k = -1 := by
    rw [← hdiv, ← BitVec.toInt_inj]; rfl
  have e := Int.emod_add_mul_ediv v.toInt (2 ^ k)
  have m0 := Int.emod_nonneg v.toInt (ne_of_gt hpos)
  have m1 := Int.emod_lt_of_pos v.toInt hpos
  have hz : v.toInt / 2 ^ k = 0 ↔ 0 ≤ v.toInt ∧ v.toInt < 2 ^ k := by
    rw [Int.ediv_eq_iff_of_pos hpos]; constructor <;> intro h <;> constructor <;> nlinarith [h.1, h.2]
  have hn : v.toInt / 2 ^ k = -1 ↔ -2 ^ k ≤ v.toInt ∧ v.toInt < 0 := by
    rw [Int.ediv_eq_iff_of_pos hpos]; constructor <;> intro h <;> constructor <;> nlinarith [h.1, h.2]
  rw [Bool.eq_iff_iff]
  simp only [lnFrom, beyond, Bool.and_eq_true, bne_iff_ne, ne_eq, h0, h1, hz, hn, Bool.or_eq_true, decide_eq_true_eq]
  constructor
  · rintro ⟨a, b⟩
    by_contra hc
    simp only [not_or, not_lt, not_le] at hc
    rcases lt_or_ge v.toInt 0 with hlt | hge
    · exact b ⟨hc.1, hlt⟩
    · exact a ⟨hge, hc.2⟩
  · rintro (h | h)
    · exact ⟨fun x => by linarith [x.1], fun x => by linarith [x.1]⟩
    · exact ⟨fun x => by linarith [x.2], fun x => by linarith [x.2]⟩

theorem outside40_eq_beyond (x : Int) : outside40 x = beyond 39 x := by
  rw [Bool.eq_iff_iff]
  simp only [outside40, beyond, Bool.or_eq_true, decide_eq_true_eq]
  omega

theorem toInt_wrap40 (x : Int) : (wrap40 x).toInt = x.bmod (2 ^ 40) := BitVec.toInt_ofInt x

/-- The limit tag in a scaling mode that is not the reserved one. -/
theorem lnCalc_eq_beyond (s : State) (v : DWord) (h : scaling s ≠ 3) : lnCalc s v = beyond (limitBits s) v.toInt := by
  have hlt : scaling s < 4 := Nat.mod_lt _ (by decide)
  unfold lnCalc limitBits
  rcases (by omega : scaling s = 0 ∨ scaling s = 1 ∨ scaling s = 2) with h' | h' | h' <;> rw [h'] <;>
    exact lnFrom_eq_beyond v _

/-! ### Overflow events (R512) -/

@[simp] theorem dovf_overflow (s : State) : dovf (overflow s) = true := by
  simp only [dovf, overflow, getLsbD_withBit _ _ _ _ (show 2 < 32 by decide), if_true]

@[simp] theorem dreg_overflow (s : State) (n : DReg) : dreg (overflow s) n = dreg s n := rfl

@[simp] theorem ltag_overflow (s : State) (n : DReg) : ltag (overflow s) n = ltag s n := rfl

@[simp] theorem sr_overflow (s : State) : (overflow s).sr = s.sr := rfl

@[simp] theorem carry_overflow (s : State) : carry (overflow s) = carry s := rfl

@[simp] theorem tBit_overflow (s : State) : tBit (overflow s) = tBit s := rfl

theorem overflow_rule (s : State) : OverflowRule s (overflow s) := by
  constructor
  · exact fun _ => dovf_overflow s
  · rw [dovf_overflow]
    simp [overflow, dovf, Bool.and_comm]
  · simp only [overflow, sampleExcp]
    split
    · split <;> rfl
    · rfl
  · intro h
    have : (ovEnable s && !s.emr.getLsbD 2) = false := by
      rw [dovf_overflow, Bool.true_and, Bool.and_comm] at h
      exact h
    simp only [overflow, this, Bool.false_eq_true, if_false]

theorem overflow_frame (s : State) : Arith [] 0#32 s (overflow s) := by
  refine ⟨?_, by constructor <;> rfl, ⟨rfl, rfl⟩, ⟨rfl, rfl, rfl, rfl⟩, overflow_rule s, fun _ => rfl⟩
  constructor <;> intros <;> first | rfl | exact ⟨rfl, rfl⟩ | skip
  exact withBit_outside s.emr 2 true 4#32 (by decide) (by decide)

/-- An arithmetic change after a plain one. -/
theorem Plain.trans_arith {ds es : List Dest} {b b' : Word} {s t u : State} (h : Plain ds b s t) (h' : Arith es b' t u)
    (hsr : ovEnable t = ovEnable s) : Arith (ds ++ es) (b ||| b') s u := by
  obtain ⟨h1, h2, h3, h4, h5, h6⟩ := h
  obtain ⟨g1, g2, g3, g4, g5, g6⟩ := h'
  have he : t.emr = s.emr := by simpa only [and_not_zero] using h1.emr
  have hd : dovf t = dovf s := by simp only [dovf, he]
  refine ⟨by simpa using h1.trans g1, h2.trans g2, ⟨g3.1.trans h3.1, g3.2.trans h3.2⟩, h4.trans g4, ?_,
    h6.trans g6⟩
  constructor
  · rw [← hd]; exact g5.sticky
  · rw [← hd, ← hsr, ← h5.1]; exact g5.request
  · rw [← h5.2]; exact g5.eonce
  · rw [← hd, ← hsr, ← h5.2]; exact g5.quiet

/-- A plain change after an arithmetic one. -/
theorem Arith.trans_plain {ds es : List Dest} {b b' : Word} {s t u : State} (h : Arith ds b s t) (h' : Plain es b' t u) :
    Arith (ds ++ es) (b ||| b') s u := by
  obtain ⟨h1, h2, h3, h4, h5, h6⟩ := h
  obtain ⟨g1, g2, g3, g4, g5, g6⟩ := h'
  have he : u.emr = t.emr := by simpa only [and_not_zero] using g1.emr
  have hd : dovf u = dovf t := by simp only [dovf, he]
  refine ⟨by simpa using h1.trans g1, h2.trans g2, ⟨g3.1.trans h3.1, g3.2.trans h3.2⟩, h4.trans g4, ?_,
    h6.trans g6⟩
  constructor
  · rw [hd]; exact h5.sticky
  · rw [hd, g5.1]; exact h5.request
  · rw [g5.2]; exact h5.eonce
  · rw [hd, g5.2]; exact h5.quiet

/-! ### The four ways of writing a result -/

/-- An arithmetic write: Dn and its tag, and an overflow event if `b`. -/
theorem overflowIf_setD_frame (s : State) (n : DReg) (v : DWord) (g b : Bool) :
    Arith [.d n] 0#32 s (overflowIf b (setD s n v g)) := by
  cases b
  · exact (setD_frame s n v g).arith
  · simpa [overflowIf] using (setD_frame s n v g).trans_arith (overflow_frame _) rfl

@[simp] theorem dreg_overflowIf (b : Bool) (s : State) (n : DReg) : dreg (overflowIf b s) n = dreg s n := by
  cases b <;> rfl

@[simp] theorem ltag_overflowIf (b : Bool) (s : State) (n : DReg) : ltag (overflowIf b s) n = ltag s n := by
  cases b <;> rfl

@[simp] theorem dovf_overflowIf (b : Bool) (s : State) : dovf (overflowIf b s) = (dovf s || b) := by
  cases b <;> simp [overflowIf]

@[simp] theorem dovf_setD (s : State) (n : DReg) (v : DWord) (g : Bool) : dovf (setD s n v g) = dovf s := rfl

/-- All that a saturable write does (R202, R204). -/
theorem writeSat_spec (s : State) (n : DReg) (x : Int) (top : DWord) :
    Arith [.d n] 0#32 s (writeSat s n x top) ∧ Written n x top.toInt s (writeSat s n x top) := by
  cases hm : satMode s
  · have e : writeSat s n x top = overflowIf (outside40 x) (setD s n (wrap40 x) (lnCalc s (wrap40 x))) := by
      simp [writeSat, hm]
    rw [e]
    refine ⟨overflowIf_setD_frame .., ?_⟩
    constructor <;> simp [hm, outside40_eq_beyond, toInt_wrap40]
    intro h
    rw [lnCalc_eq_beyond s _ h, toInt_wrap40]
    rfl
  · by_cases h1 : 2 ^ 31 - 1 < x
    · have e : writeSat s n x top = overflowIf true (setD s n top false) := by simp only [writeSat, hm, h1, if_true, overflowIf]
      rw [e]
      refine ⟨overflowIf_setD_frame .., ?_⟩
      have hb : beyond 31 x = true := by simp [beyond]; omega
      constructor <;> simp [hm, hb]
      omega
    · by_cases h2 : x < -2 ^ 31
      · have e : writeSat s n x top = overflowIf true (setD s n 0xFF80000000#40 false) := by
          simp only [writeSat, hm, h1, h2, if_true, if_false, overflowIf]
        rw [e]
        refine ⟨overflowIf_setD_frame .., ?_⟩
        have hb : beyond 31 x = true := by simp [beyond]; omega
        constructor <;> simp [hm, hb]
        omega
      · have e : writeSat s n x top = overflowIf false (setD s n (wrap40 x) false) := by
          simp only [writeSat, hm, h1, h2, if_true, if_false, overflowIf]
          rfl
        rw [e]
        refine ⟨overflowIf_setD_frame .., ?_⟩
        have hb : beyond 31 x = false := by simp [beyond]; omega
        have hw : x.bmod (2 ^ 40) = x := Int.bmod_eq_of_le (by omega) (by omega)
        constructor <;> simp only [hm, hb, reduceCtorEq, false_implies, forall_const, dreg_overflowIf, ltag_overflowIf,
          dreg_setD_same, ltag_setD_same, toInt_wrap40, hw, dovf_overflowIf, dovf_setD]
        rw [if_neg (by omega), if_neg (by omega)]

/-- `WriteArith` (R202). -/
theorem writeArith_spec (s : State) (n : DReg) (x : Int) : Saturable n x 0#32 s (writeArith s n x) :=
  writeSat_spec s n x 0x007FFFFFFF#40

/-- `WriteArith` of a rounded result (R204). -/
theorem writeRounded_spec (s : State) (n : DReg) (x : Int) : SaturableRounded n x s (writeRounded s n x) :=
  writeSat_spec s n x 0x007FFF0000#40

/-- `WriteWrap` (R260). -/
theorem writeWrap_spec (s : State) (n : DReg) (x : Int) : Wrapping n x 0#32 s (writeWrap s n x) := by
  refine ⟨overflowIf_setD_frame .., ?_⟩
  simp [writeWrap, outside40_eq_beyond, toInt_wrap40]

/-- `WriteArith6` (R203). -/
theorem writeArith6_spec (s : State) (n : DReg) (x : Int) : Special n x 0#32 s (writeArith6 s n x)
    ∧ dovf (writeArith6 s n x) = (dovf s || beyond 39 x) := by
  refine ⟨⟨overflowIf_setD_frame .., by simp [writeArith6, toInt_wrap40], ?_⟩, by simp [writeArith6, outside40_eq_beyond]⟩
  intro h
  simp only [writeArith6, ltag_overflowIf, ltag_setD_same, lnCalc6, specialTag, ← toInt_wrap40]
  cases hm : satMode s
  · exact lnCalc_eq_beyond s _ (by simpa [hm] using h)
  · exact lnFrom_eq_beyond _ 31

/-- The carry after it was written over a result. -/
theorem Arith.withC {ds : List Dest} {b : Word} {s t : State} (h : Arith ds b s t) (c : Bool) :
    Arith ds (b ||| bitC) s (setC t c) := by
  simpa using h.trans_plain (setC_frame t c)

theorem Arith.withT {ds : List Dest} {b : Word} {s t : State} (h : Arith ds b s t) (c : Bool) :
    Arith ds (b ||| bitT) s (setT t c) := by
  simpa using h.trans_plain (setT_frame t c)

end Sys2Proof.Machine
end

