-- ==== Sys2Proof/Laws/Entry.lean ====
section
/-! SUPPORT. The stack frame of calls and exceptions, taking an exception and returning from one, and the active loop, said once
each. -/

namespace Sys2Proof.Machine

/-! ### Stack pointers -/

theorem SrLegal.sp_congr {s t : State} (h : t.sr = s.sr) (hn : t.nsp = s.nsp) (he : t.esp = s.esp) : spOf t = spOf s := by
  simp [spOf, expMode, srBit, h, hn, he]

@[simp] theorem spOf_setSp (s : State) (v : Word) : spOf (setSp s v) = v &&& spMask := by
  unfold setSp
  cases h : expMode s <;> simp [spOf, h]

@[simp] theorem expMode_setSp (s : State) (v : Word) : expMode (setSp s v) = expMode s := by
  unfold setSp
  split <;> rfl

/-- The active stack pointer is a multiple of 8 when both are. -/
theorem StacksAligned.sp {s : State} (h : StacksAligned s) : spOf s &&& spMask = spOf s := by
  unfold spOf
  split
  · exact h.2
  · exact h.1

/-- A word whose three low bits are clear is a multiple of 8. -/
theorem spMask_iff (z : Word) : z &&& spMask = z ↔ z.toNat % 8 = 0 := by
  have e : z &&& spMask = z >>> 3 <<< 3 := by
    apply BitVec.eq_of_getLsbD_eq
    intro i hi
    rw [BitVec.getLsbD_and, BitVec.getLsbD_shiftLeft, BitVec.getLsbD_ushiftRight]
    by_cases h : i < 3
    · interval_cases i <;> simp [spMask]
    · rw [show 3 + (i - 3) = i by omega]
      have : spMask.getLsbD i = true := by interval_cases i <;> rfl
      simp [this, h, hi]
  rw [e, ← BitVec.toNat_inj, BitVec.toNat_shiftLeft, BitVec.toNat_ushiftRight, Nat.shiftLeft_eq, Nat.shiftRight_eq_div_pow]
  have := z.isLt
  omega

/-- Adding a multiple of 8 to a multiple of 8. -/
theorem spMask_add {x y : Word} (hx : x &&& spMask = x) (hy : y &&& spMask = y) : (x + y) &&& spMask = x + y := by
  rw [spMask_iff] at *
  rw [BitVec.toNat_add]
  omega

theorem spMask_sub {x y : Word} (hx : x &&& spMask = x) (hy : y &&& spMask = y) : (x - y) &&& spMask = x - y := by
  rw [spMask_iff] at *
  rw [BitVec.toNat_sub]
  omega

/-! ### Frames of two longs (R106, R422, R540) -/

theorem pushFrame_only (s : State) (sp ret sr : Word) : ∃ m e a, pushFrame s sp ret sr = { s with mem := m, eonce := e, acc := a } := by
  have h := (store32_only s sp ret).trans (store32_only _ (sp + 4) sr)
  unfold OnlyMemEonce at h
  unfold pushFrame note
  rw [h]
  exact ⟨_, _, _, rfl⟩

theorem pushFrame_outside {s : State} (hm : s.mem.wf = true) (sp ret sr : Word) : SameMemBut sp 8 s (pushFrame s sp ret sr) :=
  fun x hx => two_longs_outside hm sp ret sr x hx

theorem pushFrame_wf {s : State} (hm : s.mem.wf = true) (sp ret sr : Word) : (pushFrame s sp ret sr).mem.wf = true :=
  store32_wf (store32_wf hm _ _) _ _

@[simp] theorem mem32_note (s : State) (x : Access) (a : Word) : mem32 (note s x) a = mem32 s a := rfl

/-- Outside the EOnCE window the frame is read back. -/
theorem pushFrame_frame {s : State} {sp : Word} (hm : s.mem.wf = true) (h : OutsideEonce s sp 8) (ret sr : Word) :
    mem32 (pushFrame s sp ret sr) sp = ret ∧ mem32 (pushFrame s sp ret sr) (sp + 4) = sr
      ∧ (pushFrame s sp ret sr).eonce = s.eonce := by
  unfold pushFrame
  simpa only [mem32_note, note_eonce] using two_longs hm h ret sr

/-! ### Taking an exception (R540, R541) -/

/-- Taking an exception changes memory, the EOnCE (if the frame touches its window), the noted accesses, SR, ESP and the next
address, and nothing else. -/
theorem takeException_only (s : State) (off : BitVec 12) (lvl : BitVec 3) (ret : Word) : ∃ m e a,
    takeException s off lvl ret = { s with
      mem := m, eonce := e, acc := a, sr := entrySr s.sr lvl, esp := (s.esp + 8) &&& spMask
      npc := vectorAddr s off &&& pcMask, flowed := true } := by
  obtain ⟨m, e, a, h⟩ := pushFrame_only s s.esp ret s.sr
  refine ⟨m, e, a, ?_⟩
  unfold takeException
  rw [h]
  rfl

theorem getLsbD_entrySr (sr : Word) (lvl : BitVec 3) (i : Nat) (h : i < 32) (h21 : i ∉ [21, 22, 23]) :
    (entrySr sr lvl).getLsbD i =
      if i = 18 then true else if i ∈ [0, 1, 4, 5, 27, 28, 29, 30, 31] then false else sr.getLsbD i := by
  have e : (lvl.setWidth 32 <<< 21).getLsbD i = false := by
    revert h21 h
    rw [BitVec.getLsbD_shiftLeft]
    intro h h21
    simp only [List.mem_cons, List.not_mem_nil, or_false, not_or] at h21
    by_cases hlt : i < 21
    · simp [hlt]
    · have : (lvl.setWidth 32).getLsbD (i - 21) = false := by
        rw [BitVec.getLsbD_setWidth, BitVec.getLsbD_of_ge lvl _ (by omega), Bool.and_false]
      simp [this]
  unfold entrySr
  rw [BitVec.getLsbD_or, BitVec.getLsbD_or, BitVec.getLsbD_and, e]
  interval_cases i <;> simp_all

theorem intMask_entrySr (s : State) (lvl : BitVec 3) (t : State) (h : t.sr = entrySr s.sr lvl) : intMask t = lvl.toNat := by
  have key : ∀ x : Word, (x.toNat >>> 21) % 8 = (x.extractLsb' 21 3).toNat := by
    intro x
    simp [BitVec.extractLsb'_toNat]
  rw [intMask, h, key]
  congr 1
  apply BitVec.eq_of_getLsbD_eq
  intro i hi
  unfold entrySr
  simp only [BitVec.getLsbD_extractLsb', hi, decide_true, Bool.true_and, BitVec.getLsbD_or, BitVec.getLsbD_and,
    BitVec.getLsbD_shiftLeft, BitVec.getLsbD_setWidth]
  have hi' : i = 0 ∨ i = 1 ∨ i = 2 := by omega
  rcases hi' with rfl | rfl | rfl <;> simp

/-- What taking an exception does (R540). -/
theorem takeException_spec {s : State} (ha : StacksAligned s) (hm : s.mem.wf = true) (off : BitVec 12) (lvl : BitVec 3)
    (ret : Word) : EntryFrame ret s (takeException s off lvl ret) ∧ EntrySr s (takeException s off lvl ret) lvl.toNat
      ∧ EntryKeeps s (takeException s off lvl ret) ∧ (takeException s off lvl ret).npc = vectorAddr s off &&& pcMask
      ∧ (takeException s off lvl ret).mem.wf = true := by
  obtain ⟨m, e, a, h⟩ := takeException_only s off lvl ret
  have hmem : (takeException s off lvl ret).mem = (pushFrame s s.esp ret s.sr).mem := by
    simp only [takeException, jumpTo_mem, setEsp_mem]
  have hemr : (takeException s off lvl ret).emr = s.emr := by rw [h]
  have h8 : (s.esp + 8) &&& spMask = s.esp + 8 := spMask_add ha.2 (by decide)
  have hread : ∀ x, mem32 (takeException s off lvl ret) x = mem32 (pushFrame s s.esp ret s.sr) x := by
    intro x
    have hp : (pushFrame s s.esp ret s.sr).emr = s.emr := by
      obtain ⟨_, _, _, hp⟩ := pushFrame_only s s.esp ret s.sr
      rw [hp]
    exact mem32_congr (by simp [bigEndian, hemr, hp]) x fun k _ => by simp [byteAt, hmem]
  refine ⟨⟨?_, ?_, ?_, ?_⟩, ⟨intMask_entrySr s lvl _ (by rw [h]), ?_⟩, ?_, by rw [h], ?_⟩
  · rw [h]; exact h8
  · rw [h]
  · intro ho
    rw [hread, hread]
    exact ⟨(pushFrame_frame hm ho ret s.sr).1, (pushFrame_frame hm ho ret s.sr).2.1⟩
  · intro x hx
    rw [← pushFrame_outside hm s.esp ret s.sr x hx]
    simp only [byteAt, hmem]
  · intro i hi hni
    rw [h]
    exact getLsbD_entrySr s.sr lvl i hi hni
  · rw [h]
    constructor <;> intros <;> first | rfl | exact ⟨rfl, rfl⟩ | exact ⟨rfl, rfl, rfl, rfl⟩
  · rw [hmem]
    exact pushFrame_wf hm ..

/-! ### Returning from one (R440, R542) -/

theorem returnFromException_only (s : State) : ∃ e a v n p q, returnFromException s = { s with
    eonce := e, acc := a, sr := v &&& srMask, npc := n &&& pcMask, flowed := true, nsp := p, esp := q, emr := withBit s.emr 3 false } := by
  have h := (load32_only s (spOf s - 8) 0).trans (load32_only _ (spOf s - 4) 1)
  unfold returnFromException
  dsimp only
  generalize load32 (load32 s (spOf s - 8) 0).2 (spOf s - 4) 1 = q at *
  obtain ⟨v, t⟩ := q
  unfold OnlyEonce at h
  dsimp only at h ⊢
  generalize t.eonce = e at h
  subst h
  unfold jumpTo goTo writeSr setSp
  dsimp only
  split
  · exact ⟨e, _, v, _, _, _, rfl⟩
  · exact ⟨e, _, v, _, _, _, rfl⟩

/-! ### The active loop (R651) -/

theorem activeLoop_eq_some {s : State} {n : LoopIx} (h : ActiveLoop s n) : activeLoop s = some n := by
  obtain ⟨h1, h2⟩ := h
  unfold activeLoop
  have h3 := h2 3
  have h4 := h2 2
  have h5 := h2 1
  fin_cases n <;> simp_all

theorem activeLoop_eq_none {s : State} (h : ∀ n, loopFlag s n = false) : activeLoop s = none := by
  simp [activeLoop, h]

/-- Bits of SR after a loop flag was written. -/
theorem loopFlag_setLoopFlag (s : State) (n : LoopIx) (b : Bool) (m : LoopIx) :
    loopFlag (setLoopFlag s n b) m = if m = n then b else loopFlag s m := by
  have hn := n.isLt
  simp only [loopFlag, setLoopFlag, srBit_setSrBit _ _ _ _ (show 27 + n.val < 32 by omega), Nat.add_left_cancel_iff, Fin.ext_iff]

theorem shortLoop_setShortLoop (s : State) (b : Bool) : shortLoop (setShortLoop s b) = b := by
  simp [shortLoop, setShortLoop, srBit_setSrBit _ _ _ _ (show 31 < 32 by decide)]

theorem setLoopFlag_frame (s : State) (n : LoopIx) (b : Bool) : Plain [] (bitLf n) s (setLoopFlag s n b) := by
  refine setSrBit_frame s _ b _ (by omega) ?_
  fin_cases n <;> rfl

theorem setShortLoop_frame (s : State) (b : Bool) : Plain [] bitSlf s (setShortLoop s b) :=
  setSrBit_frame s 31 b _ (by decide) (by decide)

end Sys2Proof.Machine
end

