-- ==== Sys2Proof/Laws/PerInstr.lean ====
section
/-! SUPPORT. Statements about every instruction as syntax, one lemma per constructor.  Family `Encoding`: a well-formed instruction
has words, and every value fits the field of its row that it is put in. -/

namespace Sys2Proof.Laws.Encoding

/-- Values fit fields: as many values as fields, each below two to the power of its field's width. -/
def Fits : List (List (Nat × Nat)) → List Nat → Bool
  | [], [] => true
  | f :: fs, v :: vs => decide (v < 2 ^ fieldWidth f) && Fits fs vs
  | _, _ => false

/-- A well-formed instruction is one or two prefix words of 16 bits, or has a row of one to three words whose fields its values
fit. -/
def Statement (i : Instr) : Prop :=
  i.WF = true →
    (∃ ws, prefixWords i = some ws ∧ ws.all (fun w => decide (w < 2 ^ 16)) = true ∧ (ws.length = 1 ∨ ws.length = 2))
    ∨ ∃ e, prefixWords i = none ∧ encodingOf (coreOf i) = some e ∧ (e.row.words = 1 ∨ e.row.words = 2 ∨ e.row.words = 3)
      ∧ Fits e.row.fields e.vals = true

/-! ### Bounds of the codes -/

@[simp] theorem regCode_lt (n : Fin 16) : regCode n < 8 := Nat.mod_lt _ (by decide)
@[simp] theorem eeCode_lt (n : Fin 16) : eeCode n < 4 := by have := regCode_lt n; unfold eeCode; omega
@[simp] theorem sameCode_lt (n : Fin 16) : sameCode n < 4 := by have := regCode_lt n; unfold sameCode; omega
@[simp] theorem ggCode_lt (n : Fin 16) : ggCode n < 4 := Nat.mod_lt _ (by decide)
@[simp] theorem drCode_lt (x : DR) : drCode x < 16 := by cases x <;> simp only [drCode] <;> have := regCode_lt ‹_› <;> omega
@[simp] theorem c4Code_lt (x : C4) : c4Code x < 32 := by
  cases x <;> simp only [c4Code] <;> first | omega | (have := regCode_lt ‹_›; omega)
@[simp] theorem c3Code_lt (x : C3) : c3Code x < 16 := by cases x <;> simp only [c3Code] <;> omega
@[simp] theorem c1Code_lt (x : C1) : c1Code x < 8 := by cases x <;> decide
@[simp] theorem c2Code_lt (x : C2) : c2Code x < 16 := by cases x <;> simp only [c2Code] <;> omega
@[simp] theorem rxCode_lt (x : Rx) : rxCode x < 16 := by
  cases x <;> simp only [rxCode] <;> first | omega | (have := regCode_lt ‹_›; omega)
@[simp] theorem rxSrcCode_lt (x : RxSrc) : rxSrcCode x < 16 := by
  cases x <;> simp only [rxSrcCode] <;> first | omega | (have := regCode_lt ‹_›; omega)
@[simp] theorem eaCode_lt (x : EaMode) : eaCode x < 8 := by cases x <;> simp only [eaCode] <;> omega
@[simp] theorem eaShortCode_lt (x : EaMode) : eaShortCode x < 4 := by cases x <;> simp only [eaShortCode] <;> omega
@[simp] theorem pair8Code_lt (p : Pair) : pair8Code p < 4 := Nat.mod_lt _ (by decide)
@[simp] theorem quadCode_lt (p : Quad) : quadCode p < 2 := Nat.mod_lt _ (by decide)
@[simp] theorem evenCode_lt (x : PushEven) : evenCode x < 32 := by cases x <;> simp only [evenCode] <;> omega
@[simp] theorem oddCode_lt (x : PushOdd) : oddCode x < 32 := by cases x <;> simp only [oddCode] <;> omega
@[simp] theorem dirCode_lt (x : Dir) : dirCode x < 2 := by cases x <;> decide
@[simp] theorem halfCode_lt (x : Half) : halfCode x < 2 := by cases x <;> decide

theorem pairCode_lt {a b : DReg} (h : pairOk a b = true) : pairCode a b < 32 := by
  have : (regCode a, regCode b) ∈ pairTable := by simpa [pairOk, regCode] using h
  exact List.idxOf_lt_length_of_mem this

theorem pairCode_same {a : DReg} (h : a.val % 2 = 0) : pairCode a a < 32 := by
  apply pairCode_lt
  revert a
  decide

theorem bits_lt {w : Nat} (x : BitVec w) : x.toNat < 2 ^ w := x.isLt

theorem bool_le (b : Bool) : b.toNat ≤ 1 := by cases b <;> decide

theorem fits_nil : Fits [] [] = true := rfl

theorem fits_cons {f : List (Nat × Nat)} {fs : List (List (Nat × Nat))} {v : Nat} {vs : List Nat} (h : v < 2 ^ fieldWidth f)
    (hs : Fits fs vs = true) : Fits (f :: fs) (v :: vs) = true := by
  simp only [Fits, Bool.and_eq_true, decide_eq_true_eq]
  exact ⟨h, hs⟩

/-- An instruction with a row. -/
theorem of_row {i : Instr} (e : Encoding) (hp : prefixWords i = none) (he : encodingOf (coreOf i) = some e)
    (hw : e.row.words = 1 ∨ e.row.words = 2 ∨ e.row.words = 3) (hf : Fits e.row.fields e.vals = true) : Statement i :=
  fun _ => .inr ⟨e, hp, he, hw, hf⟩

/-! ### The family -/

theorem abs (n : DReg) : Statement (.abs n) :=
  of_row _ rfl rfl (.inl rfl) (fits_cons (regCode_lt _) fits_nil)
theorem addImm (u : BitVec 5) (n : DReg) : Statement (.addImm u n) :=
  of_row _ rfl rfl (.inl rfl) (fits_cons (bits_lt _) (fits_cons (regCode_lt _) fits_nil))
theorem addReg (a : DReg) (b : DReg) (n : DReg) : Statement (.addReg a b n) := fun h =>
  of_row _ rfl rfl (.inl rfl) (fits_cons (pairCode_lt h) (fits_cons (regCode_lt _) fits_nil)) h
theorem addSame (a : DReg) (b : DReg) (n : DReg) : Statement (.addSame a b n) :=
  of_row _ rfl rfl (.inl rfl) (fits_cons (sameCode_lt _) (fits_cons (regCode_lt _) fits_nil))
theorem add2 (a : DReg) (n : DReg) : Statement (.add2 a n) :=
  of_row _ rfl rfl (.inl rfl) (fits_cons (regCode_lt _) (fits_cons (regCode_lt _) fits_nil))
theorem addnc (s : BitVec 16) (a : DReg) (n : DReg) : Statement (.addnc s a n) :=
  of_row _ rfl rfl (.inr (.inl rfl)) (fits_cons (bits_lt _) (fits_cons (regCode_lt _) (fits_cons (regCode_lt _) fits_nil)))
theorem adr (a : DReg) (n : DReg) : Statement (.adr a n) :=
  of_row _ rfl rfl (.inl rfl) (fits_cons (regCode_lt _) (fits_cons (regCode_lt _) fits_nil))
theorem asl (a : DReg) (n : DReg) : Statement (.asl a n) := by
  by_cases e : a.val % 2 = 0
  · exact of_row _ rfl (by rw [coreOf, if_pos e]; rfl) (.inl rfl) (fits_cons (pairCode_same e) (fits_cons (regCode_lt _) fits_nil))
  · exact of_row _ rfl (by rw [coreOf, if_neg e]; rfl) (.inl rfl) (fits_cons (sameCode_lt _) (fits_cons (regCode_lt _) fits_nil))
theorem asr (a : DReg) (n : DReg) : Statement (.asr a n) :=
  of_row _ rfl rfl (.inl rfl) (fits_cons (regCode_lt _) (fits_cons (regCode_lt _) fits_nil))
theorem clr (a : DReg) (n : DReg) : Statement (.clr a n) := by
  by_cases e : a.val % 2 = 0
  · exact of_row _ rfl (by rw [coreOf, if_pos e]; rfl) (.inl rfl) (fits_cons (pairCode_same e) (fits_cons (regCode_lt _) fits_nil))
  · exact of_row _ rfl (by rw [coreOf, if_neg e]; rfl) (.inl rfl) (fits_cons (sameCode_lt _) (fits_cons (regCode_lt _) fits_nil))
theorem cmpeq (a : DReg) (n : DReg) : Statement (.cmpeq a n) :=
  of_row _ rfl rfl (.inl rfl) (fits_cons (regCode_lt _) (fits_cons (regCode_lt _) fits_nil))
theorem cmpeqU (u : BitVec 5) (n : DReg) : Statement (.cmpeqU u n) :=
  of_row _ rfl rfl (.inl rfl) (fits_cons (bits_lt _) (fits_cons (regCode_lt _) fits_nil))
theorem cmpeqS (s : BitVec 16) (n : DReg) : Statement (.cmpeqS s n) :=
  of_row _ rfl rfl (.inr (.inl rfl)) (fits_cons (bits_lt _) (fits_cons (regCode_lt _) fits_nil))
theorem cmpgt (a : DReg) (n : DReg) : Statement (.cmpgt a n) :=
  of_row _ rfl rfl (.inl rfl) (fits_cons (regCode_lt _) (fits_cons (regCode_lt _) fits_nil))
theorem cmpgtU (u : BitVec 5) (n : DReg) : Statement (.cmpgtU u n) :=
  of_row _ rfl rfl (.inl rfl) (fits_cons (bits_lt _) (fits_cons (regCode_lt _) fits_nil))
theorem cmpgtS (s : BitVec 16) (n : DReg) : Statement (.cmpgtS s n) :=
  of_row _ rfl rfl (.inr (.inl rfl)) (fits_cons (bits_lt _) (fits_cons (regCode_lt _) fits_nil))
theorem cmphi (a : DReg) (n : DReg) : Statement (.cmphi a n) :=
  of_row _ rfl rfl (.inl rfl) (fits_cons (regCode_lt _) (fits_cons (regCode_lt _) fits_nil))
theorem decge (n : DReg) : Statement (.decge n) :=
  of_row _ rfl rfl (.inl rfl) (fits_cons (regCode_lt _) fits_nil)
theorem div (a : DReg) (n : DReg) : Statement (.div a n) :=
  of_row _ rfl rfl (.inl rfl) (fits_cons (regCode_lt _) (fits_cons (regCode_lt _) fits_nil))
theorem iaddnc (s : BitVec 16) (n : DReg) : Statement (.iaddnc s n) :=
  of_row _ rfl rfl (.inr (.inl rfl)) (fits_cons (bits_lt _) (fits_cons (regCode_lt _) fits_nil))
theorem inc (n : DReg) : Statement (.inc n) :=
  of_row _ rfl rfl (.inl rfl) (fits_cons (bits_lt _) (fits_cons (regCode_lt _) fits_nil))
theorem incListed (n : DReg) : Statement (.incListed n) :=
  of_row _ rfl rfl (.inl rfl) (fits_cons (regCode_lt _) fits_nil)
theorem incF (n : DReg) : Statement (.incF n) :=
  of_row _ rfl rfl (.inl rfl) (fits_cons (regCode_lt _) fits_nil)
theorem max (g : DReg) (h : DReg) : Statement (.max g h) :=
  of_row _ rfl rfl (.inl rfl) (fits_cons (ggCode_lt _) fits_nil)
theorem max2vitA (a : DReg) (b : DReg) : Statement (.max2vitA a b) :=
  of_row _ rfl rfl (.inl rfl) (fits_nil)
theorem max2vitB (a : DReg) (b : DReg) : Statement (.max2vitB a b) :=
  of_row _ rfl rfl (.inl rfl) (fits_nil)
theorem min (g : DReg) (h : DReg) : Statement (.min g h) :=
  of_row _ rfl rfl (.inl rfl) (fits_cons (ggCode_lt _) fits_nil)
theorem neg (n : DReg) : Statement (.neg n) :=
  of_row _ rfl rfl (.inl rfl) (fits_cons (regCode_lt _) fits_nil)
theorem rnd (a : DReg) (n : DReg) : Statement (.rnd a n) :=
  of_row _ rfl rfl (.inl rfl) (fits_cons (regCode_lt _) (fits_cons (regCode_lt _) fits_nil))
theorem satL (n : DReg) : Statement (.satL n) :=
  of_row _ rfl rfl (.inl rfl) (fits_cons (regCode_lt _) fits_nil)
theorem sbc (c : DReg) (d : DReg) : Statement (.sbc c d) :=
  of_row _ rfl rfl (.inl rfl) (fits_cons (eeCode_lt _) fits_nil)
theorem sbr (a : DReg) (n : DReg) : Statement (.sbr a n) :=
  of_row _ rfl rfl (.inl rfl) (fits_cons (regCode_lt _) (fits_cons (regCode_lt _) fits_nil))
theorem subImm (u : BitVec 5) (n : DReg) : Statement (.subImm u n) :=
  of_row _ rfl rfl (.inl rfl) (fits_cons (bits_lt _) (fits_cons (regCode_lt _) fits_nil))
theorem subReg (a : DReg) (b : DReg) (n : DReg) : Statement (.subReg a b n) := fun h =>
  of_row _ rfl rfl (.inl rfl) (fits_cons (pairCode_lt h) (fits_cons (regCode_lt _) fits_nil)) h
theorem subRegSwap (a : DReg) (b : DReg) (n : DReg) : Statement (.subRegSwap a b n) := fun h =>
  of_row _ rfl rfl (.inl rfl) (fits_cons (pairCode_lt h) (fits_cons (regCode_lt _) fits_nil)) h
theorem subSame (a : DReg) (b : DReg) (n : DReg) : Statement (.subSame a b n) :=
  of_row _ rfl rfl (.inl rfl) (fits_cons (sameCode_lt _) (fits_cons (regCode_lt _) fits_nil))
theorem sub2 (a : DReg) (n : DReg) : Statement (.sub2 a n) :=
  of_row _ rfl rfl (.inl rfl) (fits_cons (regCode_lt _) (fits_cons (regCode_lt _) fits_nil))
theorem subl (a : DReg) (n : DReg) : Statement (.subl a n) :=
  of_row _ rfl rfl (.inl rfl) (fits_cons (regCode_lt _) (fits_cons (regCode_lt _) fits_nil))
theorem subnc (s : BitVec 16) (n : DReg) : Statement (.subnc s n) :=
  of_row _ rfl rfl (.inr (.inl rfl)) (fits_cons (bits_lt _) (fits_cons (regCode_lt _) fits_nil))
theorem tfr (a : DReg) (n : DReg) : Statement (.tfr a n) :=
  of_row _ rfl rfl (.inl rfl) (fits_cons (regCode_lt _) (fits_cons (regCode_lt _) fits_nil))
theorem tfrf (a : DReg) (n : DReg) : Statement (.tfrf a n) :=
  of_row _ rfl rfl (.inl rfl) (fits_cons (regCode_lt _) (fits_cons (regCode_lt _) fits_nil))
theorem tfrt (a : DReg) (n : DReg) : Statement (.tfrt a n) :=
  of_row _ rfl rfl (.inl rfl) (fits_cons (regCode_lt _) (fits_cons (regCode_lt _) fits_nil))
theorem tsteq (n : DReg) : Statement (.tsteq n) :=
  of_row _ rfl rfl (.inl rfl) (fits_cons (regCode_lt _) fits_nil)
theorem tstge (n : DReg) : Statement (.tstge n) :=
  of_row _ rfl rfl (.inl rfl) (fits_cons (regCode_lt _) fits_nil)
theorem imac (neg : Bool) (a : DReg) (b : DReg) (n : DReg) : Statement (.imac neg a b n) := fun h =>
  of_row _ rfl rfl (.inl rfl) (fits_cons (Bool.toNat_lt _) (fits_cons (pairCode_lt h) (fits_cons (regCode_lt _) fits_nil))) h
theorem imacSame (neg : Bool) (a : DReg) (b : DReg) (n : DReg) : Statement (.imacSame neg a b n) :=
  of_row _ rfl rfl (.inl rfl) (fits_cons (Bool.toNat_lt _) (fits_cons (sameCode_lt _) (fits_cons (regCode_lt _) fits_nil)))
theorem imaclhuu (a : DReg) (b : DReg) (n : DReg) : Statement (.imaclhuu a b n) :=
  of_row _ rfl rfl (.inr (.inl rfl)) (fits_cons (regCode_lt _) (fits_cons (regCode_lt _) (fits_cons (regCode_lt _) fits_nil)))
theorem imacus (a : DReg) (b : DReg) (n : DReg) : Statement (.imacus a b n) :=
  of_row _ rfl rfl (.inr (.inl rfl)) (fits_cons (regCode_lt _) (fits_cons (regCode_lt _) (fits_cons (regCode_lt _) fits_nil)))
theorem impy (a : DReg) (b : DReg) (n : DReg) : Statement (.impy a b n) := fun h =>
  of_row _ rfl rfl (.inl rfl) (fits_cons (pairCode_lt h) (fits_cons (regCode_lt _) fits_nil)) h
theorem impySame (a : DReg) (b : DReg) (n : DReg) : Statement (.impySame a b n) :=
  of_row _ rfl rfl (.inl rfl) (fits_cons (sameCode_lt _) (fits_cons (regCode_lt _) fits_nil))
theorem impyW (s : BitVec 16) (n : DReg) : Statement (.impyW s n) :=
  of_row _ rfl rfl (.inr (.inl rfl)) (fits_cons (bits_lt _) (fits_cons (regCode_lt _) fits_nil))
theorem impyhluu (a : DReg) (b : DReg) (n : DReg) : Statement (.impyhluu a b n) :=
  of_row _ rfl rfl (.inr (.inl rfl)) (fits_cons (regCode_lt _) (fits_cons (regCode_lt _) (fits_cons (regCode_lt _) fits_nil)))
theorem impysu (a : DReg) (b : DReg) (n : DReg) : Statement (.impysu a b n) :=
  of_row _ rfl rfl (.inr (.inl rfl)) (fits_cons (regCode_lt _) (fits_cons (regCode_lt _) (fits_cons (regCode_lt _) fits_nil)))
theorem impyuu (a : DReg) (b : DReg) (n : DReg) : Statement (.impyuu a b n) :=
  of_row _ rfl rfl (.inr (.inl rfl)) (fits_cons (regCode_lt _) (fits_cons (regCode_lt _) (fits_cons (regCode_lt _) fits_nil)))
theorem mac (neg : Bool) (a : DReg) (b : DReg) (n : DReg) : Statement (.mac neg a b n) := fun h =>
  of_row _ rfl rfl (.inl rfl) (fits_cons (Bool.toNat_lt _) (fits_cons (pairCode_lt h) (fits_cons (regCode_lt _) fits_nil))) h
theorem macSame (neg : Bool) (a : DReg) (b : DReg) (n : DReg) : Statement (.macSame neg a b n) :=
  of_row _ rfl rfl (.inl rfl) (fits_cons (Bool.toNat_lt _) (fits_cons (sameCode_lt _) (fits_cons (regCode_lt _) fits_nil)))
theorem macImm (s : BitVec 16) (a : DReg) (n : DReg) : Statement (.macImm s a n) :=
  of_row _ rfl rfl (.inr (.inl rfl)) (fits_cons (bits_lt _) (fits_cons (regCode_lt _) (fits_cons (regCode_lt _) fits_nil)))
theorem macr (neg : Bool) (a : DReg) (b : DReg) (n : DReg) : Statement (.macr neg a b n) := fun h =>
  of_row _ rfl rfl (.inl rfl) (fits_cons (Bool.toNat_lt _) (fits_cons (pairCode_lt h) (fits_cons (regCode_lt _) fits_nil))) h
theorem macrSame (neg : Bool) (a : DReg) (b : DReg) (n : DReg) : Statement (.macrSame neg a b n) :=
  of_row _ rfl rfl (.inl rfl) (fits_cons (Bool.toNat_lt _) (fits_cons (sameCode_lt _) (fits_cons (regCode_lt _) fits_nil)))
theorem macsu (c : DReg) (d : DReg) (n : DReg) : Statement (.macsu c d n) :=
  of_row _ rfl rfl (.inl rfl) (fits_cons (eeCode_lt _) (fits_cons (regCode_lt _) fits_nil))
theorem macus (c : DReg) (d : DReg) (n : DReg) : Statement (.macus c d n) :=
  of_row _ rfl rfl (.inl rfl) (fits_cons (eeCode_lt _) (fits_cons (regCode_lt _) fits_nil))
theorem macuu (c : DReg) (d : DReg) (n : DReg) : Statement (.macuu c d n) :=
  of_row _ rfl rfl (.inl rfl) (fits_cons (eeCode_lt _) (fits_cons (regCode_lt _) fits_nil))
theorem mpy (a : DReg) (b : DReg) (n : DReg) : Statement (.mpy a b n) := fun h =>
  of_row _ rfl rfl (.inl rfl) (fits_cons (pairCode_lt h) (fits_cons (regCode_lt _) fits_nil)) h
theorem mpySame (a : DReg) (b : DReg) (n : DReg) : Statement (.mpySame a b n) :=
  of_row _ rfl rfl (.inl rfl) (fits_cons (sameCode_lt _) (fits_cons (regCode_lt _) fits_nil))
theorem mpyr (a : DReg) (b : DReg) (n : DReg) : Statement (.mpyr a b n) := fun h =>
  of_row _ rfl rfl (.inl rfl) (fits_cons (pairCode_lt h) (fits_cons (regCode_lt _) fits_nil)) h
theorem mpyrSame (a : DReg) (b : DReg) (n : DReg) : Statement (.mpyrSame a b n) :=
  of_row _ rfl rfl (.inl rfl) (fits_cons (sameCode_lt _) (fits_cons (regCode_lt _) fits_nil))
theorem mpysu (c : DReg) (d : DReg) (n : DReg) : Statement (.mpysu c d n) :=
  of_row _ rfl rfl (.inl rfl) (fits_cons (eeCode_lt _) (fits_cons (regCode_lt _) fits_nil))
theorem mpyus (c : DReg) (d : DReg) (n : DReg) : Statement (.mpyus c d n) :=
  of_row _ rfl rfl (.inl rfl) (fits_cons (eeCode_lt _) (fits_cons (regCode_lt _) fits_nil))
theorem mpyuu (c : DReg) (d : DReg) (n : DReg) : Statement (.mpyuu c d n) :=
  of_row _ rfl rfl (.inl rfl) (fits_cons (eeCode_lt _) (fits_cons (regCode_lt _) fits_nil))
theorem andImmLow (u : BitVec 16) (a : DReg) (n : DReg) : Statement (.andImmLow u a n) :=
  of_row _ rfl rfl (.inr (.inl rfl)) (fits_cons (bits_lt _) (fits_cons (regCode_lt _) (fits_cons (regCode_lt _) fits_nil)))
theorem andImmHigh (u : BitVec 16) (a : DReg) (n : DReg) : Statement (.andImmHigh u a n) :=
  of_row _ rfl rfl (.inr (.inl rfl)) (fits_cons (bits_lt _) (fits_cons (regCode_lt _) (fits_cons (regCode_lt _) fits_nil)))
theorem andReg (a : DReg) (n : DReg) : Statement (.andReg a n) :=
  of_row _ rfl rfl (.inl rfl) (fits_cons (regCode_lt _) (fits_cons (regCode_lt _) fits_nil))
theorem asllImm (u : BitVec 5) (n : DReg) : Statement (.asllImm u n) :=
  of_row _ rfl rfl (.inl rfl) (fits_cons (bits_lt _) (fits_cons (regCode_lt _) fits_nil))
theorem asllReg (a : DReg) (n : DReg) : Statement (.asllReg a n) :=
  of_row _ rfl rfl (.inl rfl) (fits_cons (regCode_lt _) (fits_cons (regCode_lt _) fits_nil))
theorem aslw (a : DReg) (n : DReg) : Statement (.aslw a n) :=
  of_row _ rfl rfl (.inl rfl) (fits_cons (regCode_lt _) (fits_cons (regCode_lt _) fits_nil))
theorem asrrImm (u : BitVec 5) (n : DReg) : Statement (.asrrImm u n) :=
  of_row _ rfl rfl (.inl rfl) (fits_cons (bits_lt _) (fits_cons (regCode_lt _) fits_nil))
theorem asrrReg (a : DReg) (n : DReg) : Statement (.asrrReg a n) :=
  of_row _ rfl rfl (.inl rfl) (fits_cons (regCode_lt _) (fits_cons (regCode_lt _) fits_nil))
theorem asrw (a : DReg) (n : DReg) : Statement (.asrw a n) :=
  of_row _ rfl rfl (.inl rfl) (fits_cons (regCode_lt _) (fits_cons (regCode_lt _) fits_nil))
theorem clb (a : DReg) (n : DReg) : Statement (.clb a n) :=
  of_row _ rfl rfl (.inl rfl) (fits_cons (regCode_lt _) (fits_cons (regCode_lt _) fits_nil))
theorem eorReg (a : DReg) (n : DReg) : Statement (.eorReg a n) :=
  of_row _ rfl rfl (.inl rfl) (fits_cons (regCode_lt _) (fits_cons (regCode_lt _) fits_nil))
theorem extractImm (w : BitVec 6) (o : BitVec 6) (b : DReg) (n : DReg) : Statement (.extractImm w o b n) :=
  of_row _ rfl rfl (.inr (.inl rfl)) (fits_cons (bits_lt _) (fits_cons (bits_lt _) (fits_cons (regCode_lt _) (fits_cons (regCode_lt _) fits_nil))))
theorem extractReg (a : DReg) (b : DReg) (n : DReg) : Statement (.extractReg a b n) :=
  of_row _ rfl rfl (.inr (.inl rfl)) (fits_cons (regCode_lt _) (fits_cons (regCode_lt _) (fits_cons (regCode_lt _) fits_nil)))
theorem extractuImm (w : BitVec 6) (o : BitVec 6) (b : DReg) (n : DReg) : Statement (.extractuImm w o b n) :=
  of_row _ rfl rfl (.inr (.inl rfl)) (fits_cons (bits_lt _) (fits_cons (bits_lt _) (fits_cons (regCode_lt _) (fits_cons (regCode_lt _) fits_nil))))
theorem extractuReg (a : DReg) (b : DReg) (n : DReg) : Statement (.extractuReg a b n) :=
  of_row _ rfl rfl (.inr (.inl rfl)) (fits_cons (regCode_lt _) (fits_cons (regCode_lt _) (fits_cons (regCode_lt _) fits_nil)))
theorem insertImm (w : BitVec 6) (o : BitVec 6) (b : DReg) (n : DReg) : Statement (.insertImm w o b n) :=
  of_row _ rfl rfl (.inr (.inl rfl)) (fits_cons (bits_lt _) (fits_cons (bits_lt _) (fits_cons (regCode_lt _) (fits_cons (regCode_lt _) fits_nil))))
theorem insertReg (a : DReg) (b : DReg) (n : DReg) : Statement (.insertReg a b n) :=
  of_row _ rfl rfl (.inr (.inl rfl)) (fits_cons (regCode_lt _) (fits_cons (regCode_lt _) (fits_cons (regCode_lt _) fits_nil)))
theorem lsll (a : DReg) (n : DReg) : Statement (.lsll a n) :=
  of_row _ rfl rfl (.inl rfl) (fits_cons (regCode_lt _) (fits_cons (regCode_lt _) fits_nil))
theorem lsr (n : DReg) : Statement (.lsr n) :=
  of_row _ rfl rfl (.inl rfl) (fits_cons (regCode_lt _) fits_nil)
theorem lsrrImm (u : BitVec 5) (n : DReg) : Statement (.lsrrImm u n) :=
  of_row _ rfl rfl (.inl rfl) (fits_cons (bits_lt _) (fits_cons (regCode_lt _) fits_nil))
theorem lsrrReg (a : DReg) (n : DReg) : Statement (.lsrrReg a n) :=
  of_row _ rfl rfl (.inl rfl) (fits_cons (regCode_lt _) (fits_cons (regCode_lt _) fits_nil))
theorem lsrw (a : DReg) (n : DReg) : Statement (.lsrw a n) :=
  of_row _ rfl rfl (.inl rfl) (fits_cons (regCode_lt _) (fits_cons (regCode_lt _) fits_nil))
theorem notReg (a : DReg) (n : DReg) : Statement (.notReg a n) :=
  of_row _ rfl rfl (.inl rfl) (fits_cons (regCode_lt _) (fits_cons (regCode_lt _) fits_nil))
theorem orReg (a : DReg) (n : DReg) : Statement (.orReg a n) :=
  of_row _ rfl rfl (.inl rfl) (fits_cons (regCode_lt _) (fits_cons (regCode_lt _) fits_nil))
theorem rol (n : DReg) : Statement (.rol n) :=
  of_row _ rfl rfl (.inl rfl) (fits_cons (regCode_lt _) fits_nil)
theorem ror (n : DReg) : Statement (.ror n) :=
  of_row _ rfl rfl (.inl rfl) (fits_cons (regCode_lt _) fits_nil)
theorem sxtB (a : DReg) (n : DReg) : Statement (.sxtB a n) :=
  of_row _ rfl rfl (.inl rfl) (fits_cons (regCode_lt _) (fits_cons (regCode_lt _) fits_nil))
theorem sxtL (n : DReg) : Statement (.sxtL n) :=
  of_row _ rfl rfl (.inl rfl) (fits_cons (regCode_lt _) fits_nil)
theorem sxtW (a : DReg) (n : DReg) : Statement (.sxtW a n) :=
  of_row _ rfl rfl (.inl rfl) (fits_cons (regCode_lt _) (fits_cons (regCode_lt _) fits_nil))
theorem zxtB (a : DReg) (n : DReg) : Statement (.zxtB a n) :=
  of_row _ rfl rfl (.inl rfl) (fits_cons (regCode_lt _) (fits_cons (regCode_lt _) fits_nil))
theorem zxtL (n : DReg) : Statement (.zxtL n) :=
  of_row _ rfl rfl (.inl rfl) (fits_cons (regCode_lt _) fits_nil)
theorem zxtW (a : DReg) (n : DReg) : Statement (.zxtW a n) :=
  of_row _ rfl rfl (.inl rfl) (fits_cons (regCode_lt _) (fits_cons (regCode_lt _) fits_nil))
theorem addaImm (u : BitVec 5) (x : Rx) : Statement (.addaImm u x) :=
  of_row _ rfl rfl (.inl rfl) (fits_cons (bits_lt _) (fits_cons (rxCode_lt _) fits_nil))
theorem addaImm16 (s : BitVec 16) (src : RxSrc) (n : RReg) : Statement (.addaImm16 s src n) :=
  of_row _ rfl rfl (.inr (.inl rfl)) (fits_cons (bits_lt _) (fits_cons (rxSrcCode_lt _) (fits_cons (regCode_lt _) fits_nil)))
theorem addaReg (src : RxSrc) (x : Rx) : Statement (.addaReg src x) :=
  of_row _ rfl rfl (.inl rfl) (fits_cons (rxSrcCode_lt _) (fits_cons (rxCode_lt _) fits_nil))
theorem addl1a (src : RxSrc) (x : Rx) : Statement (.addl1a src x) :=
  of_row _ rfl rfl (.inl rfl) (fits_cons (rxSrcCode_lt _) (fits_cons (rxCode_lt _) fits_nil))
theorem addl2a (src : RxSrc) (x : Rx) : Statement (.addl2a src x) :=
  of_row _ rfl rfl (.inl rfl) (fits_cons (rxSrcCode_lt _) (fits_cons (rxCode_lt _) fits_nil))
theorem asl2a (x : Rx) : Statement (.asl2a x) :=
  of_row _ rfl rfl (.inl rfl) (fits_cons (rxCode_lt _) fits_nil)
theorem asla (x : Rx) : Statement (.asla x) :=
  of_row _ rfl rfl (.inl rfl) (fits_cons (rxCode_lt _) fits_nil)
theorem asra (x : Rx) : Statement (.asra x) :=
  of_row _ rfl rfl (.inl rfl) (fits_cons (rxCode_lt _) fits_nil)
theorem cmpeqa (src : RxSrc) (x : Rx) : Statement (.cmpeqa src x) :=
  of_row _ rfl rfl (.inl rfl) (fits_cons (rxSrcCode_lt _) (fits_cons (rxCode_lt _) fits_nil))
theorem cmpgta (src : RxSrc) (x : Rx) : Statement (.cmpgta src x) :=
  of_row _ rfl rfl (.inl rfl) (fits_cons (rxSrcCode_lt _) (fits_cons (rxCode_lt _) fits_nil))
theorem cmphia (src : RxSrc) (x : Rx) : Statement (.cmphia src x) :=
  of_row _ rfl rfl (.inl rfl) (fits_cons (rxSrcCode_lt _) (fits_cons (rxCode_lt _) fits_nil))
theorem deca (x : Rx) : Statement (.deca x) :=
  of_row _ rfl rfl (.inl rfl) (fits_cons (bits_lt _) (fits_cons (rxCode_lt _) fits_nil))
theorem deceqa (x : Rx) : Statement (.deceqa x) :=
  of_row _ rfl rfl (.inl rfl) (fits_cons (rxCode_lt _) fits_nil)
theorem decgea (x : Rx) : Statement (.decgea x) :=
  of_row _ rfl rfl (.inl rfl) (fits_cons (rxCode_lt _) fits_nil)
theorem inca (x : Rx) : Statement (.inca x) :=
  of_row _ rfl rfl (.inl rfl) (fits_cons (bits_lt _) (fits_cons (rxCode_lt _) fits_nil))
theorem lsra (x : Rx) : Statement (.lsra x) :=
  of_row _ rfl rfl (.inl rfl) (fits_cons (rxCode_lt _) fits_nil)
theorem subaImm (u : BitVec 5) (x : Rx) : Statement (.subaImm u x) :=
  of_row _ rfl rfl (.inl rfl) (fits_cons (bits_lt _) (fits_cons (rxCode_lt _) fits_nil))
theorem subaReg (src : RxSrc) (x : Rx) : Statement (.subaReg src x) :=
  of_row _ rfl rfl (.inl rfl) (fits_cons (rxSrcCode_lt _) (fits_cons (rxCode_lt _) fits_nil))
theorem sxtaB (src : RxSrc) (x : Rx) : Statement (.sxtaB src x) :=
  of_row _ rfl rfl (.inl rfl) (fits_cons (rxSrcCode_lt _) (fits_cons (rxCode_lt _) fits_nil))
theorem sxtaW (x : Rx) : Statement (.sxtaW x) :=
  of_row _ rfl rfl (.inl rfl) (fits_cons (rxCode_lt _) fits_nil)
theorem tfra (src : RxSrc) (x : Rx) : Statement (.tfra src x) :=
  of_row _ rfl rfl (.inl rfl) (fits_cons (rxSrcCode_lt _) (fits_cons (rxCode_lt _) fits_nil))
theorem tfraFromOsp (n : RReg) : Statement (.tfraFromOsp n) :=
  of_row _ rfl rfl (.inl rfl) (fits_cons (regCode_lt _) fits_nil)
theorem tfraToOsp (n : RReg) : Statement (.tfraToOsp n) :=
  of_row _ rfl rfl (.inl rfl) (fits_cons (regCode_lt _) fits_nil)
theorem tsteqaL (x : Rx) : Statement (.tsteqaL x) :=
  of_row _ rfl rfl (.inl rfl) (fits_cons (rxCode_lt _) fits_nil)
theorem tsteqaW (x : Rx) : Statement (.tsteqaW x) :=
  of_row _ rfl rfl (.inl rfl) (fits_cons (rxCode_lt _) fits_nil)
theorem tstgeaL (x : Rx) : Statement (.tstgeaL x) :=
  of_row _ rfl rfl (.inl rfl) (fits_cons (rxCode_lt _) fits_nil)
theorem tstgta (x : Rx) : Statement (.tstgta x) :=
  of_row _ rfl rfl (.inl rfl) (fits_cons (rxCode_lt _) fits_nil)
theorem zxtaB (src : RxSrc) (x : Rx) : Statement (.zxtaB src x) :=
  of_row _ rfl rfl (.inl rfl) (fits_cons (rxSrcCode_lt _) (fits_cons (rxCode_lt _) fits_nil))
theorem zxtaW (x : Rx) : Statement (.zxtaW x) :=
  of_row _ rfl rfl (.inl rfl) (fits_cons (rxCode_lt _) fits_nil)
theorem move2f (ea : EaMode) (rn : RReg) (p : Pair) : Statement (.move2f ea rn p) :=
  of_row _ rfl rfl (.inl rfl) (fits_cons (eaCode_lt _) (fits_cons (regCode_lt _) (fits_cons (pair8Code_lt _) fits_nil)))
theorem move2l (dir : Dir) (ea : EaMode) (rn : RReg) (p : Pair) : Statement (.move2l dir ea rn p) :=
  of_row _ rfl rfl (.inl rfl) (fits_cons (dirCode_lt _) (fits_cons (eaCode_lt _) (fits_cons (regCode_lt _) (fits_cons (pair8Code_lt _) fits_nil))))
theorem move2w (dir : Dir) (ea : EaMode) (rn : RReg) (p : Pair) : Statement (.move2w dir ea rn p) :=
  of_row _ rfl rfl (.inl rfl) (fits_cons (dirCode_lt _) (fits_cons (eaCode_lt _) (fits_cons (regCode_lt _) (fits_cons (pair8Code_lt _) fits_nil))))
theorem move4f (ea : EaMode) (rn : RReg) (q : Quad) : Statement (.move4f ea rn q) :=
  of_row _ rfl rfl (.inl rfl) (fits_cons (eaCode_lt _) (fits_cons (regCode_lt _) (fits_cons (quadCode_lt _) fits_nil)))
theorem move4w (dir : Dir) (ea : EaMode) (rn : RReg) (q : Quad) : Statement (.move4w dir ea rn q) :=
  of_row _ rfl rfl (.inl rfl) (fits_cons (dirCode_lt _) (fits_cons (eaCode_lt _) (fits_cons (regCode_lt _) (fits_cons (quadCode_lt _) fits_nil))))
theorem movebLoad (m : Mem) (dr : DR) : Statement (.movebLoad m dr) := by
  cases m with
  | ea em rn => exact of_row _ rfl rfl (.inl rfl) (fits_cons (eaShortCode_lt _) (fits_cons (regCode_lt _) (fits_cons (drCode_lt _) fits_nil)))
  | disp _ _ => exact fun h => (Bool.false_ne_true h).elim
  | short _ _ => exact fun h => (Bool.false_ne_true h).elim
  | index _ _ => exact fun h => (Bool.false_ne_true h).elim
  | abs16 a => exact of_row _ rfl rfl (.inr (.inl rfl)) (fits_cons (bits_lt _) (fits_cons (drCode_lt _) fits_nil))
  | abs32 _ => exact fun h => (Bool.false_ne_true h).elim
  | sp s => exact of_row _ rfl rfl (.inr (.inl rfl)) (fits_cons (bits_lt _) (fits_cons (drCode_lt _) fits_nil))
  | spShort _ => exact fun h => (Bool.false_ne_true h).elim
theorem movebStore (dr : DR) (m : Mem) : Statement (.movebStore dr m) := by
  cases m with
  | ea em rn => exact of_row _ rfl rfl (.inl rfl) (fits_cons (drCode_lt _) (fits_cons (eaShortCode_lt _) (fits_cons (regCode_lt _) fits_nil)))
  | disp rn s => exact of_row _ rfl rfl (.inr (.inl rfl)) (fits_cons (drCode_lt _) (fits_cons (regCode_lt _) (fits_cons (bits_lt _) fits_nil)))
  | short _ _ => exact fun h => (Bool.false_ne_true h).elim
  | index _ _ => exact fun h => (Bool.false_ne_true h).elim
  | abs16 a => exact of_row _ rfl rfl (.inr (.inl rfl)) (fits_cons (drCode_lt _) (fits_cons (bits_lt _) fits_nil))
  | abs32 a => exact of_row _ rfl rfl (.inr (.inr rfl)) (fits_cons (drCode_lt _) (fits_cons (bits_lt _) fits_nil))
  | sp s => exact of_row _ rfl rfl (.inr (.inl rfl)) (fits_cons (drCode_lt _) (fits_cons (bits_lt _) fits_nil))
  | spShort _ => exact fun h => (Bool.false_ne_true h).elim
theorem movefImm (s : BitVec 16) (b : DReg) : Statement (.movefImm s b) :=
  of_row _ rfl rfl (.inr (.inl rfl)) (fits_cons (bits_lt _) (fits_cons (regCode_lt _) fits_nil))
theorem movefLoad (m : Mem) (b : DReg) : Statement (.movefLoad m b) := by
  cases m with
  | ea em rn => exact of_row _ rfl rfl (.inl rfl) (fits_cons (eaCode_lt _) (fits_cons (regCode_lt _) (fits_cons (regCode_lt _) fits_nil)))
  | disp rn s => exact of_row _ rfl rfl (.inr (.inl rfl)) (fits_cons (regCode_lt _) (fits_cons (bits_lt _) (fits_cons (regCode_lt _) fits_nil)))
  | short _ _ => exact fun h => (Bool.false_ne_true h).elim
  | index _ _ => exact fun h => (Bool.false_ne_true h).elim
  | abs16 a => exact of_row _ rfl rfl (.inr (.inl rfl)) (fits_cons (bits_lt _) (fits_cons (regCode_lt _) fits_nil))
  | abs32 a => exact of_row _ rfl rfl (.inr (.inr rfl)) (fits_cons (bits_lt _) (fits_cons (regCode_lt _) fits_nil))
  | sp s => exact of_row _ rfl rfl (.inr (.inl rfl)) (fits_cons (bits_lt _) (fits_cons (regCode_lt _) fits_nil))
  | spShort _ => exact fun h => (Bool.false_ne_true h).elim
theorem movefStore (b : DReg) (m : Mem) : Statement (.movefStore b m) := by
  cases m with
  | ea em rn => exact of_row _ rfl rfl (.inl rfl) (fits_cons (regCode_lt _) (fits_cons (eaShortCode_lt _) (fits_cons (regCode_lt _) fits_nil)))
  | disp _ _ => exact fun h => (Bool.false_ne_true h).elim
  | short _ _ => exact fun h => (Bool.false_ne_true h).elim
  | index _ _ => exact fun h => (Bool.false_ne_true h).elim
  | abs16 _ => exact fun h => (Bool.false_ne_true h).elim
  | abs32 _ => exact fun h => (Bool.false_ne_true h).elim
  | sp _ => exact fun h => (Bool.false_ne_true h).elim
  | spShort _ => exact fun h => (Bool.false_ne_true h).elim
theorem movelImmC4 (v : BitVec 32) (c : C4) : Statement (.movelImmC4 v c) :=
  of_row _ rfl rfl (.inr (.inr rfl)) (fits_cons (bits_lt _) (fits_cons (c4Code_lt _) fits_nil))
theorem movelImmC1 (v : BitVec 32) (c : C1) : Statement (.movelImmC1 v c) :=
  of_row _ rfl rfl (.inr (.inr rfl)) (fits_cons (bits_lt _) (fits_cons (c1Code_lt _) fits_nil))
theorem movelC4 (dir : Dir) (c : C4) (b : DReg) : Statement (.movelC4 dir c b) :=
  of_row _ rfl rfl (.inl rfl) (fits_cons (dirCode_lt _) (fits_cons (c4Code_lt _) (fits_cons (regCode_lt _) fits_nil)))
theorem movelC2 (dir : Dir) (c : C2) (b : DReg) : Statement (.movelC2 dir c b) :=
  of_row _ rfl rfl (.inl rfl) (fits_cons (dirCode_lt _) (fits_cons (c2Code_lt _) (fits_cons (regCode_lt _) fits_nil)))
theorem movelExtEven (m : ExtMem) (e : Pair) : Statement (.movelExtEven m e) := by
  cases m with
  | sp s => exact of_row _ rfl rfl (.inr (.inl rfl)) (fits_cons (bits_lt _) (fits_cons (pair8Code_lt _) fits_nil))
  | abs32 a => exact of_row _ rfl rfl (.inr (.inr rfl)) (fits_cons (bits_lt _) (fits_cons (pair8Code_lt _) fits_nil))
theorem movelExtStore (p : Pair) (m : ExtMem) : Statement (.movelExtStore p m) := by
  cases m with
  | sp s => exact of_row _ rfl rfl (.inr (.inl rfl)) (fits_cons (pair8Code_lt _) (fits_cons (bits_lt _) fits_nil))
  | abs32 a => exact of_row _ rfl rfl (.inr (.inr rfl)) (fits_cons (pair8Code_lt _) (fits_cons (bits_lt _) fits_nil))
theorem movelExtOdd (m : ExtMem) (o : Pair) : Statement (.movelExtOdd m o) := by
  cases m with
  | sp s => exact of_row _ rfl rfl (.inr (.inl rfl)) (fits_cons (bits_lt _) (fits_cons (pair8Code_lt _) fits_nil))
  | abs32 a => exact of_row _ rfl rfl (.inr (.inr rfl)) (fits_cons (bits_lt _) (fits_cons (pair8Code_lt _) fits_nil))
theorem movel (dir : Dir) (m : Mem) (dr : DR) : Statement (.movel dir m dr) := by
  cases m with
  | ea em rn => exact of_row _ rfl rfl (.inl rfl) (fits_cons (dirCode_lt _) (fits_cons (eaCode_lt _) (fits_cons (regCode_lt _) (fits_cons (drCode_lt _) fits_nil))))
  | disp rn s => exact of_row _ rfl rfl (.inr (.inl rfl)) (fits_cons (dirCode_lt _) (fits_cons (regCode_lt _) (fits_cons (bits_lt _) (fits_cons (drCode_lt _) fits_nil))))
  | short rn u => exact of_row _ rfl rfl (.inl rfl) (fits_cons (dirCode_lt _) (fits_cons (regCode_lt _) (fits_cons (bits_lt _) (fits_cons (drCode_lt _) fits_nil))))
  | index rn rr => exact of_row _ rfl rfl (.inl rfl) (fits_cons (dirCode_lt _) (fits_cons (regCode_lt _) (fits_cons (rr.isLt) (fits_cons (drCode_lt _) fits_nil))))
  | abs16 _ => exact fun h => (Bool.false_ne_true h).elim
  | abs32 a => exact of_row _ rfl rfl (.inr (.inr rfl)) (fits_cons (dirCode_lt _) (fits_cons (bits_lt _) (fits_cons (drCode_lt _) fits_nil)))
  | sp _ => exact fun h => (Bool.false_ne_true h).elim
  | spShort u => exact of_row _ rfl rfl (.inl rfl) (fits_cons (dirCode_lt _) (fits_cons (bits_lt _) (fits_cons (drCode_lt _) fits_nil)))
theorem movelC4Mem (dir : Dir) (m : Mem) (c : C4) : Statement (.movelC4Mem dir m c) := by
  cases m with
  | ea em _ => cases em <;> exact fun h => (Bool.false_ne_true h).elim
  | disp _ _ => exact fun h => (Bool.false_ne_true h).elim
  | short _ _ => exact fun h => (Bool.false_ne_true h).elim
  | index _ _ => exact fun h => (Bool.false_ne_true h).elim
  | abs16 a => exact of_row _ rfl rfl (.inr (.inl rfl)) (fits_cons (dirCode_lt _) (fits_cons (bits_lt _) (fits_cons (c4Code_lt _) fits_nil)))
  | abs32 _ => exact fun h => (Bool.false_ne_true h).elim
  | sp s => exact of_row _ rfl rfl (.inr (.inl rfl)) (fits_cons (dirCode_lt _) (fits_cons (bits_lt _) (fits_cons (c4Code_lt _) fits_nil)))
  | spShort _ => exact fun h => (Bool.false_ne_true h).elim
theorem movelC3 (dir : Dir) (rn : RReg) (c : C3) : Statement (.movelC3 dir rn c) :=
  of_row _ rfl rfl (.inl rfl) (fits_cons (dirCode_lt _) (fits_cons (regCode_lt _) (fits_cons (c3Code_lt _) fits_nil)))
theorem movewImm7 (s : BitVec 7) (dr : DR) : Statement (.movewImm7 s dr) :=
  of_row _ rfl rfl (.inl rfl) (fits_cons (bits_lt _) (fits_cons (drCode_lt _) fits_nil))
theorem movewImm16 (s : BitVec 16) (c : C4) : Statement (.movewImm16 s c) :=
  of_row _ rfl rfl (.inr (.inl rfl)) (fits_cons (bits_lt _) (fits_cons (c4Code_lt _) fits_nil))
theorem movewImmMem (s : BitVec 16) (ea : BmuMem) : Statement (.movewImmMem s ea) := by
  cases ea with
  | rn rn => exact of_row _ rfl rfl (.inr (.inl rfl)) (fits_cons (bits_lt _) (fits_cons (regCode_lt _) fits_nil))
  | spShort u => exact of_row _ rfl rfl (.inr (.inl rfl)) (fits_cons (bits_lt _) (fits_cons (bits_lt _) fits_nil))
  | abs16 a => exact of_row _ rfl rfl (.inr (.inr rfl)) (fits_cons (bits_lt _) (fits_cons (bits_lt _) fits_nil))
  | sp a => exact of_row _ rfl rfl (.inr (.inr rfl)) (fits_cons (bits_lt _) (fits_cons (bits_lt _) fits_nil))
theorem movew (dir : Dir) (m : Mem) (dr : DR) : Statement (.movew dir m dr) := by
  cases m with
  | ea em rn => exact of_row _ rfl rfl (.inl rfl) (fits_cons (dirCode_lt _) (fits_cons (eaCode_lt _) (fits_cons (regCode_lt _) (fits_cons (drCode_lt _) fits_nil))))
  | disp rn s => exact of_row _ rfl rfl (.inr (.inl rfl)) (fits_cons (dirCode_lt _) (fits_cons (regCode_lt _) (fits_cons (bits_lt _) (fits_cons (drCode_lt _) fits_nil))))
  | short rn u => exact of_row _ rfl rfl (.inl rfl) (fits_cons (dirCode_lt _) (fits_cons (regCode_lt _) (fits_cons (bits_lt _) (fits_cons (drCode_lt _) fits_nil))))
  | index rn rr => exact of_row _ rfl rfl (.inl rfl) (fits_cons (dirCode_lt _) (fits_cons (regCode_lt _) (fits_cons (rr.isLt) (fits_cons (drCode_lt _) fits_nil))))
  | abs16 _ => exact fun h => (Bool.false_ne_true h).elim
  | abs32 a => exact of_row _ rfl rfl (.inr (.inr rfl)) (fits_cons (dirCode_lt _) (fits_cons (bits_lt _) (fits_cons (drCode_lt _) fits_nil)))
  | sp _ => exact fun h => (Bool.false_ne_true h).elim
  | spShort u => exact of_row _ rfl rfl (.inl rfl) (fits_cons (dirCode_lt _) (fits_cons (bits_lt _) (fits_cons (drCode_lt _) fits_nil)))
theorem movewC4Mem (dir : Dir) (m : Mem) (c : C4) : Statement (.movewC4Mem dir m c) := by
  cases m with
  | ea em _ => cases em <;> exact fun h => (Bool.false_ne_true h).elim
  | disp _ _ => exact fun h => (Bool.false_ne_true h).elim
  | short _ _ => exact fun h => (Bool.false_ne_true h).elim
  | index _ _ => exact fun h => (Bool.false_ne_true h).elim
  | abs16 a => exact of_row _ rfl rfl (.inr (.inl rfl)) (fits_cons (dirCode_lt _) (fits_cons (bits_lt _) (fits_cons (c4Code_lt _) fits_nil)))
  | abs32 _ => exact fun h => (Bool.false_ne_true h).elim
  | sp s => exact of_row _ rfl rfl (.inr (.inl rfl)) (fits_cons (dirCode_lt _) (fits_cons (bits_lt _) (fits_cons (c4Code_lt _) fits_nil)))
  | spShort _ => exact fun h => (Bool.false_ne_true h).elim
theorem movewC3 (dir : Dir) (rn : RReg) (c : C3) : Statement (.movewC3 dir rn c) :=
  of_row _ rfl rfl (.inl rfl) (fits_cons (dirCode_lt _) (fits_cons (regCode_lt _) (fits_cons (c3Code_lt _) fits_nil)))
theorem movet (q : RReg) (n : RReg) : Statement (.movet q n) :=
  of_row _ rfl rfl (.inl rfl) (fits_cons (regCode_lt _) (fits_cons (regCode_lt _) fits_nil))
theorem movef (q : RReg) (n : RReg) : Statement (.movef q n) :=
  of_row _ rfl rfl (.inl rfl) (fits_cons (regCode_lt _) (fits_cons (regCode_lt _) fits_nil))
theorem moves2f (p : Pair) (ea : EaMode) (rn : RReg) : Statement (.moves2f p ea rn) :=
  of_row _ rfl rfl (.inl rfl) (fits_cons (pair8Code_lt _) (fits_cons (eaCode_lt _) (fits_cons (regCode_lt _) fits_nil)))
theorem moves4f (q : Quad) (ea : EaMode) (rn : RReg) : Statement (.moves4f q ea rn) :=
  of_row _ rfl rfl (.inl rfl) (fits_cons (quadCode_lt _) (fits_cons (eaCode_lt _) (fits_cons (regCode_lt _) fits_nil)))
theorem movesf (b : DReg) (m : Mem) : Statement (.movesf b m) := by
  cases m with
  | ea em rn => exact of_row _ rfl rfl (.inl rfl) (fits_cons (regCode_lt _) (fits_cons (eaCode_lt _) (fits_cons (regCode_lt _) fits_nil)))
  | disp rn s => exact of_row _ rfl rfl (.inr (.inl rfl)) (fits_cons (regCode_lt _) (fits_cons (regCode_lt _) (fits_cons (bits_lt _) fits_nil)))
  | short _ _ => exact fun h => (Bool.false_ne_true h).elim
  | index _ _ => exact fun h => (Bool.false_ne_true h).elim
  | abs16 a => exact of_row _ rfl rfl (.inr (.inl rfl)) (fits_cons (regCode_lt _) (fits_cons (bits_lt _) fits_nil))
  | abs32 a => exact of_row _ rfl rfl (.inr (.inr rfl)) (fits_cons (regCode_lt _) (fits_cons (bits_lt _) fits_nil))
  | sp s => exact of_row _ rfl rfl (.inr (.inl rfl)) (fits_cons (regCode_lt _) (fits_cons (bits_lt _) fits_nil))
  | spShort _ => exact fun h => (Bool.false_ne_true h).elim
theorem moveslEa (b : DReg) (ea : EaMode) (rn : RReg) : Statement (.moveslEa b ea rn) :=
  of_row _ rfl rfl (.inl rfl) (fits_cons (regCode_lt _) (fits_cons (eaCode_lt _) (fits_cons (regCode_lt _) fits_nil)))
theorem moveub (m : Mem) (dr : DR) : Statement (.moveub m dr) := by
  cases m with
  | ea em rn => exact of_row _ rfl rfl (.inl rfl) (fits_cons (eaShortCode_lt _) (fits_cons (regCode_lt _) (fits_cons (drCode_lt _) fits_nil)))
  | disp rn s => exact of_row _ rfl rfl (.inr (.inl rfl)) (fits_cons (regCode_lt _) (fits_cons (bits_lt _) (fits_cons (drCode_lt _) fits_nil)))
  | short _ _ => exact fun h => (Bool.false_ne_true h).elim
  | index _ _ => exact fun h => (Bool.false_ne_true h).elim
  | abs16 a => exact of_row _ rfl rfl (.inr (.inl rfl)) (fits_cons (bits_lt _) (fits_cons (drCode_lt _) fits_nil))
  | abs32 a => exact of_row _ rfl rfl (.inr (.inr rfl)) (fits_cons (bits_lt _) (fits_cons (drCode_lt _) fits_nil))
  | sp s => exact of_row _ rfl rfl (.inr (.inl rfl)) (fits_cons (bits_lt _) (fits_cons (drCode_lt _) fits_nil))
  | spShort _ => exact fun h => (Bool.false_ne_true h).elim
theorem moveulImm (v : BitVec 32) (b : DReg) : Statement (.moveulImm v b) :=
  of_row _ rfl rfl (.inr (.inr rfl)) (fits_cons (bits_lt _) (fits_cons (regCode_lt _) fits_nil))
theorem moveuwHigh (u : BitVec 16) (b : DReg) : Statement (.moveuwHigh u b) :=
  of_row _ rfl rfl (.inr (.inl rfl)) (fits_cons (bits_lt _) (fits_cons (regCode_lt _) fits_nil))
theorem moveuwLow (u : BitVec 16) (b : DReg) : Statement (.moveuwLow u b) :=
  of_row _ rfl rfl (.inr (.inl rfl)) (fits_cons (bits_lt _) (fits_cons (regCode_lt _) fits_nil))
theorem moveuwC4 (m : Mem) (c : C4) : Statement (.moveuwC4 m c) := by
  cases m with
  | ea em _ => cases em <;> exact fun h => (Bool.false_ne_true h).elim
  | disp _ _ => exact fun h => (Bool.false_ne_true h).elim
  | short _ _ => exact fun h => (Bool.false_ne_true h).elim
  | index _ _ => exact fun h => (Bool.false_ne_true h).elim
  | abs16 a => exact of_row _ rfl rfl (.inr (.inl rfl)) (fits_cons (bits_lt _) (fits_cons (c4Code_lt _) fits_nil))
  | abs32 _ => exact fun h => (Bool.false_ne_true h).elim
  | sp s => exact of_row _ rfl rfl (.inr (.inl rfl)) (fits_cons (bits_lt _) (fits_cons (c4Code_lt _) fits_nil))
  | spShort _ => exact fun h => (Bool.false_ne_true h).elim
theorem moveuw (m : Mem) (dr : DR) : Statement (.moveuw m dr) := by
  cases m with
  | ea em rn => exact of_row _ rfl rfl (.inl rfl) (fits_cons (eaCode_lt _) (fits_cons (regCode_lt _) (fits_cons (drCode_lt _) fits_nil)))
  | disp rn s => exact of_row _ rfl rfl (.inr (.inl rfl)) (fits_cons (regCode_lt _) (fits_cons (bits_lt _) (fits_cons (drCode_lt _) fits_nil)))
  | short _ _ => exact fun h => (Bool.false_ne_true h).elim
  | index _ _ => exact fun h => (Bool.false_ne_true h).elim
  | abs16 _ => exact fun h => (Bool.false_ne_true h).elim
  | abs32 a => exact of_row _ rfl rfl (.inr (.inr rfl)) (fits_cons (bits_lt _) (fits_cons (drCode_lt _) fits_nil))
  | sp _ => exact fun h => (Bool.false_ne_true h).elim
  | spShort _ => exact fun h => (Bool.false_ne_true h).elim
theorem vsl2f (high : Bool) (rn : RReg) : Statement (.vsl2f high rn) :=
  of_row _ rfl rfl (.inl rfl) (fits_cons (regCode_lt _) fits_nil)
theorem vsl2w (high : Bool) (rn : RReg) : Statement (.vsl2w high rn) :=
  of_row _ rfl rfl (.inl rfl) (fits_cons (regCode_lt _) fits_nil)
theorem vsl4f (high : Bool) (rn : RReg) : Statement (.vsl4f high rn) :=
  of_row _ rfl rfl (.inl rfl) (fits_cons (regCode_lt _) fits_nil)
theorem vsl4w (high : Bool) (rn : RReg) : Statement (.vsl4w high rn) :=
  of_row _ rfl rfl (.inl rfl) (fits_cons (regCode_lt _) fits_nil)
theorem popEven (e : PushEven) : Statement (.popEven e) :=
  of_row _ rfl rfl (.inl rfl) (fits_cons (evenCode_lt _) fits_nil)
theorem popOdd (o : PushOdd) : Statement (.popOdd o) :=
  of_row _ rfl rfl (.inl rfl) (fits_cons (oddCode_lt _) fits_nil)
theorem popnEven (e : PushEven) : Statement (.popnEven e) :=
  of_row _ rfl rfl (.inl rfl) (fits_cons (evenCode_lt _) fits_nil)
theorem popnOdd (o : PushOdd) : Statement (.popnOdd o) :=
  of_row _ rfl rfl (.inl rfl) (fits_cons (oddCode_lt _) fits_nil)
theorem pushEven (e : PushEven) : Statement (.pushEven e) :=
  of_row _ rfl rfl (.inl rfl) (fits_cons (evenCode_lt _) fits_nil)
theorem pushOdd (o : PushOdd) : Statement (.pushOdd o) :=
  of_row _ rfl rfl (.inl rfl) (fits_cons (oddCode_lt _) fits_nil)
theorem pushnEven (e : PushEven) : Statement (.pushnEven e) :=
  of_row _ rfl rfl (.inl rfl) (fits_cons (evenCode_lt _) fits_nil)
theorem pushnOdd (o : PushOdd) : Statement (.pushnOdd o) :=
  of_row _ rfl rfl (.inl rfl) (fits_cons (oddCode_lt _) fits_nil)
theorem bmclrDr (m : BitVec 16) (half : Half) (dr : DR) : Statement (.bmclrDr m half dr) :=
  of_row _ rfl rfl (.inr (.inl rfl)) (fits_cons (bits_lt _) (fits_cons (halfCode_lt _) (fits_cons (drCode_lt _) fits_nil)))
theorem bmclrC1 (m : BitVec 16) (half : Half) (c : C1) : Statement (.bmclrC1 m half c) :=
  of_row _ rfl rfl (.inr (.inl rfl)) (fits_cons (bits_lt _) (fits_cons (halfCode_lt _) (fits_cons (c1Code_lt _) fits_nil)))
theorem bmclrMem (m : BitVec 16) (ea : BmuMem) : Statement (.bmclrMem m ea) := by
  cases ea with
  | rn rn => exact of_row _ rfl rfl (.inr (.inl rfl)) (fits_cons (bits_lt _) (fits_cons (regCode_lt _) fits_nil))
  | spShort u => exact of_row _ rfl rfl (.inr (.inl rfl)) (fits_cons (bits_lt _) (fits_cons (bits_lt _) fits_nil))
  | abs16 a => exact of_row _ rfl rfl (.inr (.inr rfl)) (fits_cons (bits_lt _) (fits_cons (bits_lt _) fits_nil))
  | sp a => exact of_row _ rfl rfl (.inr (.inr rfl)) (fits_cons (bits_lt _) (fits_cons (bits_lt _) fits_nil))
theorem bmsetDr (m : BitVec 16) (half : Half) (dr : DR) : Statement (.bmsetDr m half dr) :=
  of_row _ rfl rfl (.inr (.inl rfl)) (fits_cons (bits_lt _) (fits_cons (halfCode_lt _) (fits_cons (drCode_lt _) fits_nil)))
theorem bmsetC1 (m : BitVec 16) (half : Half) (c : C1) : Statement (.bmsetC1 m half c) :=
  of_row _ rfl rfl (.inr (.inl rfl)) (fits_cons (bits_lt _) (fits_cons (halfCode_lt _) (fits_cons (c1Code_lt _) fits_nil)))
theorem bmsetMem (m : BitVec 16) (ea : BmuMem) : Statement (.bmsetMem m ea) := by
  cases ea with
  | rn rn => exact of_row _ rfl rfl (.inr (.inl rfl)) (fits_cons (bits_lt _) (fits_cons (regCode_lt _) fits_nil))
  | spShort u => exact of_row _ rfl rfl (.inr (.inl rfl)) (fits_cons (bits_lt _) (fits_cons (bits_lt _) fits_nil))
  | abs16 a => exact of_row _ rfl rfl (.inr (.inr rfl)) (fits_cons (bits_lt _) (fits_cons (bits_lt _) fits_nil))
  | sp a => exact of_row _ rfl rfl (.inr (.inr rfl)) (fits_cons (bits_lt _) (fits_cons (bits_lt _) fits_nil))
theorem bmchgDr (m : BitVec 16) (half : Half) (dr : DR) : Statement (.bmchgDr m half dr) :=
  of_row _ rfl rfl (.inr (.inl rfl)) (fits_cons (bits_lt _) (fits_cons (halfCode_lt _) (fits_cons (drCode_lt _) fits_nil)))
theorem bmchgC1 (m : BitVec 16) (half : Half) (c : C1) : Statement (.bmchgC1 m half c) :=
  of_row _ rfl rfl (.inr (.inl rfl)) (fits_cons (bits_lt _) (fits_cons (halfCode_lt _) (fits_cons (c1Code_lt _) fits_nil)))
theorem bmchgMem (m : BitVec 16) (ea : BmuMem) : Statement (.bmchgMem m ea) := by
  cases ea with
  | rn rn => exact of_row _ rfl rfl (.inr (.inl rfl)) (fits_cons (bits_lt _) (fits_cons (regCode_lt _) fits_nil))
  | spShort u => exact of_row _ rfl rfl (.inr (.inl rfl)) (fits_cons (bits_lt _) (fits_cons (bits_lt _) fits_nil))
  | abs16 a => exact of_row _ rfl rfl (.inr (.inr rfl)) (fits_cons (bits_lt _) (fits_cons (bits_lt _) fits_nil))
  | sp a => exact of_row _ rfl rfl (.inr (.inr rfl)) (fits_cons (bits_lt _) (fits_cons (bits_lt _) fits_nil))
theorem bmtstcDr (m : BitVec 16) (half : Half) (dr : DR) : Statement (.bmtstcDr m half dr) :=
  of_row _ rfl rfl (.inr (.inl rfl)) (fits_cons (bits_lt _) (fits_cons (halfCode_lt _) (fits_cons (drCode_lt _) fits_nil)))
theorem bmtstcC1 (m : BitVec 16) (half : Half) (c : C1) : Statement (.bmtstcC1 m half c) :=
  of_row _ rfl rfl (.inr (.inl rfl)) (fits_cons (bits_lt _) (fits_cons (halfCode_lt _) (fits_cons (c1Code_lt _) fits_nil)))
theorem bmtstcMem (m : BitVec 16) (ea : BmuMem) : Statement (.bmtstcMem m ea) := by
  cases ea with
  | rn rn => exact of_row _ rfl rfl (.inr (.inl rfl)) (fits_cons (bits_lt _) (fits_cons (regCode_lt _) fits_nil))
  | spShort u => exact of_row _ rfl rfl (.inr (.inl rfl)) (fits_cons (bits_lt _) (fits_cons (bits_lt _) fits_nil))
  | abs16 a => exact of_row _ rfl rfl (.inr (.inr rfl)) (fits_cons (bits_lt _) (fits_cons (bits_lt _) fits_nil))
  | sp a => exact of_row _ rfl rfl (.inr (.inr rfl)) (fits_cons (bits_lt _) (fits_cons (bits_lt _) fits_nil))
theorem bmtstsDr (m : BitVec 16) (half : Half) (dr : DR) : Statement (.bmtstsDr m half dr) :=
  of_row _ rfl rfl (.inr (.inl rfl)) (fits_cons (bits_lt _) (fits_cons (halfCode_lt _) (fits_cons (drCode_lt _) fits_nil)))
theorem bmtstsC1 (m : BitVec 16) (half : Half) (c : C1) : Statement (.bmtstsC1 m half c) :=
  of_row _ rfl rfl (.inr (.inl rfl)) (fits_cons (bits_lt _) (fits_cons (halfCode_lt _) (fits_cons (c1Code_lt _) fits_nil)))
theorem bmtstsMem (m : BitVec 16) (ea : BmuMem) : Statement (.bmtstsMem m ea) := by
  cases ea with
  | rn rn => exact of_row _ rfl rfl (.inr (.inl rfl)) (fits_cons (bits_lt _) (fits_cons (regCode_lt _) fits_nil))
  | spShort u => exact of_row _ rfl rfl (.inr (.inl rfl)) (fits_cons (bits_lt _) (fits_cons (bits_lt _) fits_nil))
  | abs16 a => exact of_row _ rfl rfl (.inr (.inr rfl)) (fits_cons (bits_lt _) (fits_cons (bits_lt _) fits_nil))
  | sp a => exact of_row _ rfl rfl (.inr (.inr rfl)) (fits_cons (bits_lt _) (fits_cons (bits_lt _) fits_nil))
theorem bmtsetDr (m : BitVec 16) (half : Half) (dr : DR) : Statement (.bmtsetDr m half dr) :=
  of_row _ rfl rfl (.inr (.inl rfl)) (fits_cons (bits_lt _) (fits_cons (halfCode_lt _) (fits_cons (drCode_lt _) fits_nil)))
theorem bmtsetMem (m : BitVec 16) (ea : BmuMem) : Statement (.bmtsetMem m ea) := by
  cases ea with
  | rn rn => exact of_row _ rfl rfl (.inr (.inl rfl)) (fits_cons (bits_lt _) (fits_cons (regCode_lt _) fits_nil))
  | spShort u => exact of_row _ rfl rfl (.inr (.inl rfl)) (fits_cons (bits_lt _) (fits_cons (bits_lt _) fits_nil))
  | abs16 a => exact of_row _ rfl rfl (.inr (.inr rfl)) (fits_cons (bits_lt _) (fits_cons (bits_lt _) fits_nil))
  | sp a => exact of_row _ rfl rfl (.inr (.inr rfl)) (fits_cons (bits_lt _) (fits_cons (bits_lt _) fits_nil))
theorem andDr (m : BitVec 16) (half : Half) (dr : DR) : Statement (.andDr m half dr) :=
  of_row _ rfl rfl (.inr (.inl rfl)) (fits_cons (bits_lt _) (fits_cons (halfCode_lt _) (fits_cons (drCode_lt _) fits_nil)))
theorem andMem (m : BitVec 16) (ea : BmuMem) : Statement (.andMem m ea) := by
  cases ea with
  | rn rn => exact of_row _ rfl rfl (.inr (.inl rfl)) (fits_cons (bits_lt _) (fits_cons (regCode_lt _) fits_nil))
  | spShort u => exact of_row _ rfl rfl (.inr (.inl rfl)) (fits_cons (bits_lt _) (fits_cons (bits_lt _) fits_nil))
  | abs16 a => exact of_row _ rfl rfl (.inr (.inr rfl)) (fits_cons (bits_lt _) (fits_cons (bits_lt _) fits_nil))
  | sp a => exact of_row _ rfl rfl (.inr (.inr rfl)) (fits_cons (bits_lt _) (fits_cons (bits_lt _) fits_nil))
theorem eorDr (m : BitVec 16) (half : Half) (dr : DR) : Statement (.eorDr m half dr) :=
  of_row _ rfl rfl (.inr (.inl rfl)) (fits_cons (bits_lt _) (fits_cons (halfCode_lt _) (fits_cons (drCode_lt _) fits_nil)))
theorem eorMem (m : BitVec 16) (ea : BmuMem) : Statement (.eorMem m ea) := by
  cases ea with
  | rn rn => exact of_row _ rfl rfl (.inr (.inl rfl)) (fits_cons (bits_lt _) (fits_cons (regCode_lt _) fits_nil))
  | spShort u => exact of_row _ rfl rfl (.inr (.inl rfl)) (fits_cons (bits_lt _) (fits_cons (bits_lt _) fits_nil))
  | abs16 a => exact of_row _ rfl rfl (.inr (.inr rfl)) (fits_cons (bits_lt _) (fits_cons (bits_lt _) fits_nil))
  | sp a => exact of_row _ rfl rfl (.inr (.inr rfl)) (fits_cons (bits_lt _) (fits_cons (bits_lt _) fits_nil))
theorem notDr (half : Half) (dr : DR) : Statement (.notDr half dr) :=
  of_row _ rfl rfl (.inr (.inl rfl)) (fits_cons (bits_lt _) (fits_cons (halfCode_lt _) (fits_cons (drCode_lt _) fits_nil)))
theorem notMem (ea : BmuMem) : Statement (.notMem ea) := by
  cases ea with
  | rn rn => exact of_row _ rfl rfl (.inr (.inl rfl)) (fits_cons (bits_lt _) (fits_cons (regCode_lt _) fits_nil))
  | spShort u => exact of_row _ rfl rfl (.inr (.inl rfl)) (fits_cons (bits_lt _) (fits_cons (bits_lt _) fits_nil))
  | abs16 a => exact of_row _ rfl rfl (.inr (.inr rfl)) (fits_cons (bits_lt _) (fits_cons (bits_lt _) fits_nil))
  | sp a => exact of_row _ rfl rfl (.inr (.inr rfl)) (fits_cons (bits_lt _) (fits_cons (bits_lt _) fits_nil))
theorem orDr (m : BitVec 16) (half : Half) (dr : DR) : Statement (.orDr m half dr) :=
  of_row _ rfl rfl (.inr (.inl rfl)) (fits_cons (bits_lt _) (fits_cons (halfCode_lt _) (fits_cons (drCode_lt _) fits_nil)))
theorem orMem (m : BitVec 16) (ea : BmuMem) : Statement (.orMem m ea) := by
  cases ea with
  | rn rn => exact of_row _ rfl rfl (.inr (.inl rfl)) (fits_cons (bits_lt _) (fits_cons (regCode_lt _) fits_nil))
  | spShort u => exact of_row _ rfl rfl (.inr (.inl rfl)) (fits_cons (bits_lt _) (fits_cons (bits_lt _) fits_nil))
  | abs16 a => exact of_row _ rfl rfl (.inr (.inr rfl)) (fits_cons (bits_lt _) (fits_cons (bits_lt _) fits_nil))
  | sp a => exact of_row _ rfl rfl (.inr (.inr rfl)) (fits_cons (bits_lt _) (fits_cons (bits_lt _) fits_nil))
theorem brad (d : Disp10) : Statement (.brad d) := by
  cases d with
  | short x => exact of_row _ rfl rfl (.inl rfl) (fits_cons (bits_lt _) fits_nil)
  | long x => exact of_row _ rfl rfl (.inr (.inl rfl)) (fits_cons (bits_lt _) fits_nil)
theorem bra (d : Disp10) : Statement (.bra d) := by
  cases d with
  | short x => exact of_row _ rfl rfl (.inl rfl) (fits_cons (bits_lt _) fits_nil)
  | long x => exact of_row _ rfl rfl (.inr (.inl rfl)) (fits_cons (bits_lt _) fits_nil)
theorem bsrd (d : Disp8) : Statement (.bsrd d) := by
  cases d with
  | short x => exact of_row _ rfl rfl (.inl rfl) (fits_cons (bits_lt _) fits_nil)
  | long x => exact of_row _ rfl rfl (.inr (.inl rfl)) (fits_cons (bits_lt _) fits_nil)
theorem bsr (d : Disp8) : Statement (.bsr d) := by
  cases d with
  | short x => exact of_row _ rfl rfl (.inl rfl) (fits_cons (bits_lt _) fits_nil)
  | long x => exact of_row _ rfl rfl (.inr (.inl rfl)) (fits_cons (bits_lt _) fits_nil)
theorem btd (d : Disp8) : Statement (.btd d) := by
  cases d with
  | short x => exact of_row _ rfl rfl (.inl rfl) (fits_cons (bits_lt _) fits_nil)
  | long x => exact of_row _ rfl rfl (.inr (.inl rfl)) (fits_cons (bits_lt _) fits_nil)
theorem bt (d : Disp8) : Statement (.bt d) := by
  cases d with
  | short x => exact of_row _ rfl rfl (.inl rfl) (fits_cons (bits_lt _) fits_nil)
  | long x => exact of_row _ rfl rfl (.inr (.inl rfl)) (fits_cons (bits_lt _) fits_nil)
theorem bfd (d : Disp8) : Statement (.bfd d) := by
  cases d with
  | short x => exact of_row _ rfl rfl (.inl rfl) (fits_cons (bits_lt _) fits_nil)
  | long x => exact of_row _ rfl rfl (.inr (.inl rfl)) (fits_cons (bits_lt _) fits_nil)
theorem bf (d : Disp8) : Statement (.bf d) := by
  cases d with
  | short x => exact of_row _ rfl rfl (.inl rfl) (fits_cons (bits_lt _) fits_nil)
  | long x => exact of_row _ rfl rfl (.inr (.inl rfl)) (fits_cons (bits_lt _) fits_nil)
theorem jmpd (t : JumpTo) : Statement (.jmpd t) := by
  cases t with
  | abs a => exact of_row _ rfl rfl (.inr (.inr rfl)) (fits_cons (bits_lt _) fits_nil)
  | reg rn => exact of_row _ rfl rfl (.inl rfl) (fits_cons (regCode_lt _) fits_nil)
theorem jmp (t : JumpTo) : Statement (.jmp t) := by
  cases t with
  | abs a => exact of_row _ rfl rfl (.inr (.inr rfl)) (fits_cons (bits_lt _) fits_nil)
  | reg rn => exact of_row _ rfl rfl (.inl rfl) (fits_cons (regCode_lt _) fits_nil)
theorem jsrd (t : JumpTo) : Statement (.jsrd t) := by
  cases t with
  | abs a => exact of_row _ rfl rfl (.inr (.inr rfl)) (fits_cons (bits_lt _) fits_nil)
  | reg rn => exact of_row _ rfl rfl (.inl rfl) (fits_cons (regCode_lt _) fits_nil)
theorem jsr (t : JumpTo) : Statement (.jsr t) := by
  cases t with
  | abs a => exact of_row _ rfl rfl (.inr (.inr rfl)) (fits_cons (bits_lt _) fits_nil)
  | reg rn => exact of_row _ rfl rfl (.inl rfl) (fits_cons (regCode_lt _) fits_nil)
theorem jtd (t : JumpTo) : Statement (.jtd t) := by
  cases t with
  | abs a => exact of_row _ rfl rfl (.inr (.inr rfl)) (fits_cons (bits_lt _) fits_nil)
  | reg rn => exact of_row _ rfl rfl (.inl rfl) (fits_cons (regCode_lt _) fits_nil)
theorem jt (t : JumpTo) : Statement (.jt t) := by
  cases t with
  | abs a => exact of_row _ rfl rfl (.inr (.inr rfl)) (fits_cons (bits_lt _) fits_nil)
  | reg rn => exact of_row _ rfl rfl (.inl rfl) (fits_cons (regCode_lt _) fits_nil)
theorem jfd (t : JumpTo) : Statement (.jfd t) := by
  cases t with
  | abs a => exact of_row _ rfl rfl (.inr (.inr rfl)) (fits_cons (bits_lt _) fits_nil)
  | reg rn => exact of_row _ rfl rfl (.inl rfl) (fits_cons (regCode_lt _) fits_nil)
theorem jf (t : JumpTo) : Statement (.jf t) := by
  cases t with
  | abs a => exact of_row _ rfl rfl (.inr (.inr rfl)) (fits_cons (bits_lt _) fits_nil)
  | reg rn => exact of_row _ rfl rfl (.inl rfl) (fits_cons (regCode_lt _) fits_nil)
theorem break_ (d : BitVec 16) : Statement (.break_ d) :=
  of_row _ rfl rfl (.inr (.inl rfl)) (fits_cons (bits_lt _) fits_nil)
theorem skipls (d : BitVec 16) : Statement (.skipls d) :=
  of_row _ rfl rfl (.inr (.inl rfl)) (fits_cons (bits_lt _) fits_nil)
theorem contd (d : BitVec 16) : Statement (.contd d) :=
  of_row _ rfl rfl (.inr (.inl rfl)) (fits_cons (bits_lt _) fits_nil)
theorem cont (d : BitVec 16) : Statement (.cont d) :=
  of_row _ rfl rfl (.inr (.inl rfl)) (fits_cons (bits_lt _) fits_nil)
theorem dosetup (l : LoopIx) (d : BitVec 16) : Statement (.dosetup l d) :=
  of_row _ rfl rfl (.inr (.inl rfl)) (fits_cons (l.isLt) (fits_cons (bits_lt _) fits_nil))
theorem doen (l : LoopIx) (c : LoopCount) : Statement (.doen l c) := by
  cases c with
  | u6 u => exact of_row _ rfl rfl (.inl rfl) (fits_cons (l.isLt) (fits_cons (bits_lt _) fits_nil))
  | u16 u => exact of_row _ rfl rfl (.inr (.inl rfl)) (fits_cons (l.isLt) (fits_cons (bits_lt _) fits_nil))
  | reg dr => exact of_row _ rfl rfl (.inl rfl) (fits_cons (l.isLt) (fits_cons (drCode_lt _) fits_nil))
theorem doensh (l : LoopIx) (c : LoopCount) : Statement (.doensh l c) := by
  cases c with
  | u6 u => exact of_row _ rfl rfl (.inl rfl) (fits_cons (l.isLt) (fits_cons (bits_lt _) fits_nil))
  | u16 u => exact of_row _ rfl rfl (.inr (.inl rfl)) (fits_cons (l.isLt) (fits_cons (bits_lt _) fits_nil))
  | reg dr => exact of_row _ rfl rfl (.inl rfl) (fits_cons (l.isLt) (fits_cons (drCode_lt _) fits_nil))
theorem illegal (c : Fin 3) : Statement (.illegal c) :=
  of_row _ rfl rfl (.inl rfl) (fits_cons (Nat.lt_of_lt_of_le c.isLt (by decide)) fits_nil)
theorem prefix1 (aaa : BitVec 3) (p : Bool) (j : Bool) (ccc : BitVec 3) : Statement (.prefix1 aaa p j ccc) := by
  intro _
  refine .inl ⟨_, rfl, ?_, by simp⟩
  have haaa := bits_lt aaa
  have hp := bool_le p
  have hj := bool_le j
  have hccc := bits_lt ccc
  simp only [List.all_cons, List.all_nil, Bool.and_true, decide_eq_true_eq]
  omega
theorem prefix2 (aaa : BitVec 3) (hb : BitVec 16) (p : Bool) (j : Bool) (ccc : BitVec 3) : Statement (.prefix2 aaa hb p j ccc) := by
  intro _
  refine .inl ⟨_, rfl, ?_, by simp⟩
  have haaa := bits_lt aaa
  have hhb := bits_lt hb
  have hp := bool_le p
  have hj := bool_le j
  have hccc := bits_lt ccc
  simp only [List.all_cons, List.all_nil, Bool.and_true, Bool.and_eq_true, decide_eq_true_eq]
  omega
theorem ifa (aaa : BitVec 3) : Statement (.ifa aaa) := by
  intro _
  refine .inl ⟨_, rfl, ?_, by simp⟩
  have haaa := bits_lt aaa
  simp only [List.all_cons, List.all_nil, Bool.and_true, decide_eq_true_eq]
  omega
theorem iff (aaa : BitVec 3) : Statement (.iff aaa) := by
  intro _
  refine .inl ⟨_, rfl, ?_, by simp⟩
  have haaa := bits_lt aaa
  simp only [List.all_cons, List.all_nil, Bool.and_true, decide_eq_true_eq]
  omega
theorem ift (aaa : BitVec 3) : Statement (.ift aaa) := by
  intro _
  refine .inl ⟨_, rfl, ?_, by simp⟩
  have haaa := bits_lt aaa
  simp only [List.all_cons, List.all_nil, Bool.and_true, decide_eq_true_eq]
  omega
theorem lpmarka (aaa : BitVec 3) : Statement (.lpmarka aaa) := by
  intro _
  refine .inl ⟨_, rfl, ?_, by simp⟩
  have haaa := bits_lt aaa
  simp only [List.all_cons, List.all_nil, Bool.and_true, decide_eq_true_eq]
  omega
theorem lpmarkb (aaa : BitVec 3) : Statement (.lpmarkb aaa) := by
  intro _
  refine .inl ⟨_, rfl, ?_, by simp⟩
  have haaa := bits_lt aaa
  simp only [List.all_cons, List.all_nil, Bool.and_true, decide_eq_true_eq]
  omega
theorem rte : Statement (.rte) :=
  of_row _ rfl rfl (.inl rfl) (fits_nil)
theorem rted : Statement (.rted) :=
  of_row _ rfl rfl (.inl rfl) (fits_nil)
theorem rts : Statement (.rts) :=
  of_row _ rfl rfl (.inl rfl) (fits_nil)
theorem rtsd : Statement (.rtsd) :=
  of_row _ rfl rfl (.inl rfl) (fits_nil)
theorem rtstk : Statement (.rtstk) :=
  of_row _ rfl rfl (.inl rfl) (fits_nil)
theorem rtstkd : Statement (.rtstkd) :=
  of_row _ rfl rfl (.inl rfl) (fits_nil)
theorem trap : Statement (.trap) :=
  of_row _ rfl rfl (.inl rfl) (fits_nil)
theorem debug : Statement (.debug) :=
  of_row _ rfl rfl (.inl rfl) (fits_nil)
theorem debugev : Statement (.debugev) :=
  of_row _ rfl rfl (.inl rfl) (fits_nil)
theorem di : Statement (.di) :=
  of_row _ rfl rfl (.inl rfl) (fits_nil)
theorem ei : Statement (.ei) :=
  of_row _ rfl rfl (.inl rfl) (fits_nil)
theorem mark : Statement (.mark) :=
  of_row _ rfl rfl (.inl rfl) (fits_nil)
theorem stop : Statement (.stop) :=
  of_row _ rfl rfl (.inl rfl) (fits_nil)
theorem wait : Statement (.wait) :=
  of_row _ rfl rfl (.inl rfl) (fits_nil)
theorem nop : Statement (.nop) := by
  intro _
  exact .inl ⟨_, rfl, rfl, .inl rfl⟩

end Sys2Proof.Laws.Encoding
end

