-- ==== Sys2Proof/Laws/SetEnd.lean ====
section
/-! SUPPORT. What the EOnCE can change beside itself, and the end of an execution set, said once. -/

namespace Sys2Proof.Machine

/-- Only the EOnCE and the request of the debug exception may differ. -/
def DebugOnly (s t : State) : Prop := ∃ e q, t = { s with eonce := e, reqDebug := q }

theorem DebugOnly.refl (s : State) : DebugOnly s s := ⟨s.eonce, s.reqDebug, rfl⟩

theorem DebugOnly.trans {s t u : State} (h : DebugOnly s t) (h' : DebugOnly t u) : DebugOnly s u := by
  obtain ⟨e, q, rfl⟩ := h
  obtain ⟨e', q', rfl⟩ := h'
  exact ⟨e', q', rfl⟩

/-- A choice between two states that both are so. -/
theorem DebugOnly.ite {s t u : State} {c : Prop} [Decidable c] (h : DebugOnly s t) (h' : DebugOnly s u) :
    DebugOnly s (if c then t else u) := by
  split
  · exact h
  · exact h'

theorem debugException_only (s : State) (r : Word) : DebugOnly s (debugException s r) := by
  unfold debugException
  exact .ite ⟨_, _, rfl⟩ ⟨_, _, rfl⟩

theorem debugStateRequest_only (s : State) (r : Word) : DebugOnly s (debugStateRequest s r) := by
  unfold debugStateRequest
  exact .ite (debugException_only s r) ⟨_, _, rfl⟩

theorem mirrorPins_only (s : State) : DebugOnly s (mirrorPins s) := ⟨_, _, rfl⟩

theorem tracePush_only (s : State) (v : Word) : DebugOnly s (tracePush s v) := by
  unfold tracePush
  dsimp only
  refine .ite (.ite ?_ ⟨_, _, rfl⟩) (.refl s)
  exact DebugOnly.trans ⟨_, _, rfl⟩ (debugStateRequest_only _ _)

theorem traceDest_only (s : State) (a : Word) : DebugOnly s (traceDest s a) := by
  unfold traceDest
  dsimp only
  have h1 := tracePush_only s (a &&& pcMask)
  have h2 : DebugOnly s (if s.eonce.tbCtrl.getLsbD 6 then tracePush (tracePush s (a &&& pcMask)) (s.eonce.ecntVal <<< 1)
      else tracePush s (a &&& pcMask)) := .ite (h1.trans (tracePush_only ..)) h1
  exact .ite (h2.trans (tracePush_only ..)) h2

theorem traceJump_only (s : State) (a b : Word) : DebugOnly s (traceJump s a b) :=
  (tracePush_only ..).trans (traceDest_only ..)

theorem traceCof_only (s : State) (a : Word) : DebugOnly s (traceCof s a) := by
  unfold traceCof
  exact .ite (traceJump_only ..) (.refl s)

theorem traceInt_only (s : State) (a b : Word) : DebugOnly s (traceInt s a b) := by
  unfold traceInt
  exact .ite (traceJump_only ..) (.refl s)

theorem traceLoop_only (s : State) (a : Word) : DebugOnly s (traceLoop s a) := by
  unfold traceLoop
  exact .ite (.ite (tracePush_only ..) (traceJump_only ..)) (.refl s)

theorem traceExec_only (b : Eonce) (t : Bool) (s : State) : DebugOnly s (traceExec b t s) := by
  unfold traceExec
  exact .ite (tracePush_only ..) (.refl s)

/-- Replacing the EOnCE. -/
theorem DebugOnly.eonce (s : State) (e : Eonce) : DebugOnly s { s with eonce := e } := ⟨_, _, rfl⟩

theorem selectEvents_only (d : Detected) (s : State) : DebugOnly s (selectEvents d s) := by
  unfold selectEvents
  dsimp only
  refine DebugOnly.trans (.ite (DebugOnly.trans ?_ (debugException_only ..)) ?_) (DebugOnly.eonce _ _) <;>
    exact .ite ((DebugOnly.eonce s _).trans (debugStateRequest_only ..)) (.refl s)

theorem eonceEvents_only (b : Eonce) (d : Detected) (v : Bool) (s : State) : DebugOnly s (eonceEvents b d v s) := by
  unfold eonceEvents
  exact .ite (DebugOnly.eonce s _) ((DebugOnly.eonce s _).trans (selectEvents_only ..))

theorem samplePcs_only (a : Word) (s : State) : DebugOnly s (samplePcs a s) := by
  unfold samplePcs
  exact .ite (DebugOnly.eonce _ _) (.refl s)

theorem keepLive_only (b : Eonce) (s : State) : DebugOnly s (keepLive b s) := DebugOnly.eonce s _

theorem traceFlow_only (b : State) (p : Option Instr) (xs : List Slot) (r : State) : DebugOnly r (traceFlow b p xs r) := by
  unfold traceFlow
  dsimp only
  have h1 : DebugOnly r (if xs.any fun x => cofTaken b x.instr then traceCof r (flowTarget r) else r) :=
    .ite (traceCof_only ..) (.refl r)
  have h2 := DebugOnly.ite (c := (xs.any fun x => isTrap x.instr) = true)
    (h1.trans (traceInt_only _ (if xs.any fun x => cofTaken b x.instr then traceCof r (flowTarget r) else r).pc
      (if xs.any fun x => cofTaken b x.instr then traceCof r (flowTarget r) else r).npc)) h1
  exact .ite (.ite (.ite (h2.trans (tracePush_only ..)) (h2.trans (traceJump_only ..))) h2) h2

/-- Where control goes at the end of a set, from the next set's address after the delayed change of flow (R652). -/
def endNpc (j : Option LoopJump) (n : Word) : Word :=
  match j with
  | none => n
  | some j => if j.left ≤ 1 then j.target &&& pcMask else n

/-- The loop jump that is left after a set (R652). -/
def endJump (j : Option LoopJump) : Option LoopJump :=
  match j with
  | none => none
  | some j => if j.left ≤ 1 then none else some ⟨j.left - 1, j.target⟩

theorem endLoopJump_only (s : State) : DebugOnly { s with npc := endNpc s.loopJump s.npc, loopJump := endJump s.loopJump }
    (endLoopJump s) := by
  unfold endLoopJump endNpc endJump
  cases h : s.loopJump with
  | none =>
    refine ⟨s.eonce, s.reqDebug, ?_⟩
    cases s
    subst h
    rfl
  | some j =>
    dsimp only
    split
    · obtain ⟨e, q, h'⟩ := traceLoop_only { s with loopJump := none } j.target
      rw [h']
      exact ⟨e, q, rfl⟩
    · exact ⟨s.eonce, s.reqDebug, rfl⟩

/-- A set that leaves PC one writer at its end ends as it is due to. -/
@[simp] theorem looseEnd_clean {d : Delay} {s : State} (h : pcClash d s = false) : looseEnd d s = (d, s) := by
  simp [looseEnd, h]

/-- With two writers of PC only the addresses that they write are free: those of the next set, of what is due and of the loop jump. -/
theorem looseEnd_only (d : Delay) (s : State) : ∃ x n j, looseEnd d s = (x, { s with npc := n, loopJump := j })
    ∧ (x = d ∨ ∃ a, x = d.withTarget a) ∧ endJump j = endJump s.loopJump := by
  unfold looseEnd
  split
  · refine ⟨_, _, _, rfl, .inr ⟨_, rfl⟩, ?_⟩
    unfold loopDue
    cases h : s.loopJump with
    | none => rfl
    | some j =>
      dsimp only [Option.map]
      by_cases hj : j.left ≤ 1 <;> simp [endJump, hj]
  · exact ⟨d, s.npc, s.loopJump, rfl, .inl rfl, rfl⟩

/-- The end of a set (R565 step 6), with `x` as `looseEnd` gives it: the delayed change of flow, then the next PC, the countdowns, and
nothing else but the EOnCE. -/
theorem finish_eq (b s : State) : ∃ e q, ∀ x, x = looseEnd b.delay s → finish b s =
    { endDelay x.1 x.2 with
      eonce := e
      reqDebug := q
      npc := endNpc (endDelay x.1 x.2).loopJump (endDelay x.1 x.2).npc
      pc := endNpc (endDelay x.1 x.2).loopJump (endDelay x.1 x.2).npc &&& pcMask
      loopJump := endJump (endDelay x.1 x.2).loopJump
      window := (endDelay x.1 x.2).window - 1
      ignoreA := (endDelay x.1 x.2).ignoreA - 1
      ignoreB := (endDelay x.1 x.2).ignoreB - 1
      fresh := (endDelay x.1 x.2).fresh + 8
      lastPc := (endDelay x.1 x.2).pc
      flowed := false
      acc := []
      emrEv := 0#32
      ifc := 0#3 } := by
  unfold finish advance
  dsimp only
  generalize hu : endDelay (looseEnd b.delay s).1 (looseEnd b.delay s).2 = u
  obtain ⟨e0, q0, h0⟩ := endLoopJump_only u
  rw [h0]
  unfold countSets
  dsimp only
  generalize hv : ({ u with
    npc := endNpc u.loopJump u.npc
    loopJump := endJump u.loopJump
    eonce := e0
    reqDebug := q0
    window := u.window - 1
    ignoreA := u.ignoreA - 1
    ignoreB := u.ignoreB - 1
    lastPc := u.pc } : State) = v
  have h1 := (traceExec_only b.eonce (tBit b) v).trans
    ((eonceEvents_only b.eonce (detect b.eonce (traceExec b.eonce (tBit b) v)) true _).trans ((keepLive_only b.eonce _).trans
      (samplePcs_only (eonceEvents b.eonce (detect b.eonce (traceExec b.eonce (tBit b) v)) true
        (traceExec b.eonce (tBit b) v)).pc _)))
  obtain ⟨e1, q1, h1⟩ := h1
  rw [h1]
  obtain ⟨e2, q2, h2⟩ := mirrorPins_only { { v with eonce := e1, reqDebug := q1 } with
    pc := v.npc &&& pcMask, fresh := v.fresh + 8, flowed := false, acc := [], emrEv := 0#32, ifc := 0#3 }
  refine ⟨e2, q2, fun x hx => h2.trans ?_⟩
  subst hx
  rw [hu, ← hv]

/-- Bytes made free keep memory canonical. -/
theorem freeBytes_wf (s : State) (xs : List Word) {m : Memory} (hm : m.wf = true) (t : Nat) : (freeBytes s m t xs).wf = true := by
  induction xs generalizing m t with
  | nil => exact hm
  | cons a rest ih =>
    rw [freeBytes]
    split
    · exact ih hm _
    · exact ih (Memory.wf_put hm a _) _

/-- Bytes copied from another memory keep it canonical. -/
theorem copyBytes_wf (src : Memory) (xs : List Word) {m : Memory} (hm : m.wf = true) : (copyBytes src m xs).wf = true := by
  unfold copyBytes
  induction xs generalizing m with
  | nil => exact hm
  | cons a rest ih => exact ih (Memory.wf_put hm a _)

/-- Bytes made free leave the others. -/
theorem freeBytes_byte (s : State) (xs : List Word) {m : Memory} (hm : m.wf = true) (t : Nat) {x : Word} (hx : x ∉ xs) :
    (freeBytes s m t xs).byte x.toNat = m.byte x.toNat := by
  induction xs generalizing m t with
  | nil => rfl
  | cons a rest ih =>
    rw [List.mem_cons, not_or] at hx
    rw [freeBytes]
    split
    · exact ih hm _ hx.2
    · rw [ih (Memory.wf_put hm a _) _ hx.2, Memory.byte_put hm]
      exact if_neg fun e => hx.1 (BitVec.eq_of_toNat_eq e)

/-- A frame that no access wrote has no written bytes (R113). -/
theorem frameWrites_kept {f : Word} {s : State} (h : FrameKept f s) : frameWrites f s = [] := by
  unfold frameWrites
  rw [List.filter_eq_nil_iff]
  intro a ha
  rw [List.mem_eraseDups, List.mem_flatMap] at ha
  obtain ⟨x, hx, hb⟩ := ha
  rw [List.mem_filter] at hx
  obtain ⟨i, hi, rfl⟩ := List.mem_map.mp hb
  simpa only [decide_eq_true_eq, not_lt] using h x hx.1 hx.2 i (List.mem_range.mp hi)

/-- The written bytes of a frame are bytes of it. -/
theorem frameWrites_mem {f a : Word} {s : State} (h : a ∈ frameWrites f s) : (a - f).toNat < 8 := by
  unfold frameWrites at h
  exact of_decide_eq_true (List.mem_filter.mp h).2

/-- A delayed return in whose delay slot nothing was written to its frame goes on with what was read (R113). -/
theorem endReturn_clean {s : State} {frame : Word} (h : frameWrites frame s = []) (a v : Word) (k : State → Word → Word → State) :
    endReturn s frame a v k = k s a v := by
  simp only [endReturn, h]

/-- Else it goes on with free values, on memory whose written bytes of the frame are free (U17). -/
theorem endReturn_cases (s : State) (frame a v : Word) (k : State → Word → Word → State) :
    endReturn s frame a v k = k s a v
      ∨ ∃ c w, endReturn s frame a v k = k { s with mem := freeBytes s s.mem 400 (frameWrites frame s) } c w := by
  unfold endReturn
  split
  · exact .inl rfl
  · exact .inr ⟨_, _, rfl⟩

/-- What was due at the end of a delay slot, a call apart: the next address, and with RTED SR and EMR.NMID; memory if the frame of
a delayed return was written in its delay slot. -/
theorem endDelay_cases (d : Delay) (s : State) :
    (d = .none ∨ d = .fallthrough) ∧ endDelay d s = s
    ∨ (∃ t, d = .jump t ∧ endDelay d s = { s with npc := t &&& pcMask })
    ∨ (∃ t, d = .call t ∧ endDelay d s = callTo s s.npc t)
    ∨ (∃ t f, d = .sub t f ∧ ∃ m c, endDelay d s = { s with mem := m, npc := c &&& pcMask }
        ∧ (m = s.mem ∨ m = freeBytes s s.mem 400 (frameWrites f s)) ∧ (frameWrites f s = [] → m = s.mem ∧ c = t))
    ∨ ∃ t v f, d = .ret t v f ∧ ∃ m c w, endDelay d s = { s with
        mem := m, npc := c &&& pcMask, sr := w &&& srMask, emr := withBit s.emr 3 false }
        ∧ (m = s.mem ∨ m = freeBytes s s.mem 400 (frameWrites f s)) ∧ (frameWrites f s = [] → m = s.mem ∧ c = t ∧ w = v) := by
  cases d with
  | none => exact .inl ⟨.inl rfl, rfl⟩
  | fallthrough => exact .inl ⟨.inr rfl, rfl⟩
  | jump t => exact .inr (.inl ⟨t, rfl, rfl⟩)
  | call t => exact .inr (.inr (.inl ⟨t, rfl, rfl⟩))
  | sub t f =>
    refine .inr (.inr (.inr (.inl ⟨t, f, rfl, ?_⟩)))
    by_cases h : frameWrites f s = []
    · exact ⟨s.mem, t, endReturn_clean h t 0#32 fun x a _ => goTo x a, .inl rfl, fun _ => ⟨rfl, rfl⟩⟩
    · rcases endReturn_cases s f t 0#32 fun x a _ => goTo x a with e | ⟨c, w, e⟩
      · exact ⟨s.mem, t, e, .inl rfl, fun _ => ⟨rfl, rfl⟩⟩
      · exact ⟨_, c, e, .inr rfl, fun h' => absurd h' h⟩
  | ret t v f =>
    refine .inr (.inr (.inr (.inr ⟨t, v, f, rfl, ?_⟩)))
    by_cases h : frameWrites f s = []
    · exact ⟨s.mem, t, v, endReturn_clean h t v fun x a v => goTo (clearNmid (writeSr x v)) a, .inl rfl, fun _ => ⟨rfl, rfl, rfl⟩⟩
    · rcases endReturn_cases s f t v fun x a v => goTo (clearNmid (writeSr x v)) a with e | ⟨c, w, e⟩
      · exact ⟨s.mem, t, v, e, .inl rfl, fun _ => ⟨rfl, rfl, rfl⟩⟩
      · exact ⟨_, c, w, e, .inr rfl, fun h' => absurd h' h⟩

/-- A call changes memory, the EOnCE, the noted accesses, the active stack pointer, RAS and the next address. -/
theorem callTo_only (s : State) (ret target : Word) : ∃ m e a n p, callTo s ret target = { s with
    mem := m, eonce := e, acc := a, nsp := n, esp := p, ras := ret, rasValid := true, npc := target &&& pcMask
    flowed := true } := by
  obtain ⟨m, e, a, h⟩ := pushFrame_only s (spOf s) ret s.sr
  unfold callTo setSp
  dsimp only
  rw [h]
  split <;> exact ⟨_, _, _, _, _, rfl⟩

end Sys2Proof.Machine
end

