-- ==== Sys2Proof/Machine/NoEncoding.lean ====
section
/-! DEFINITION. The instructions that have a rule but no row in spec/opcode_table.json, because the source lost their encoding
(R211, R222, R229, R231, R235, R248, R261, R262; log 40): their meanings.  No word decodes to them, so no constructor and no arm. -/

namespace Sys2Proof.Machine

/-- ADC (R211). -/
def execAdc (c d : DReg) (s : State) : Res State :=
  .next (setC (writeArith6 s d (sD s c + sD s d + carryNat s)) (carryOut (dreg s c) (dreg s d) (carryNat s)))

/-- DECEQ (R222). -/
def execDeceq (n : DReg) (s : State) : Res State :=
  let x := sD s n - 1
  .next (setT (setC (writeWrap s n x) (borrowOut (dreg s n) 1#40 0)) (wrap40 x == 0#40))

/-- MAX2 (R229): the extension byte is free, tag 1 (U8). -/
def execMax2 (g h : DReg) (s : State) : Res State :=
  let hi := if (dHigh s h).toInt < (dHigh s g).toInt then dHigh s g else dHigh s h
  let lo := if (dLow s h).toInt < (dLow s g).toInt then dLow s g else dLow s h
  .next (setD s h (free 8 s 1 ++ (hi ++ lo)) false)

/-- MAXM (R231). -/
def execMaxm (g h : DReg) (s : State) : Res State :=
  let v : DWord :=
    if (sD s h).natAbs < (sD s g).natAbs then dreg s g
    else if sD s g = -sD s h then wrap40 (sD s g).natAbs
    else dreg s h
  .next (setD s h v false)

/-- SAT.F (R235). -/
def execSatF (a n : DReg) (s : State) : Res State :=
  .next (if !lnFrom (dreg s a) 31 then setD s n (dreg s a &&& 0xFFFFFF0000#40) false
    else if !(dreg s a).getLsbD 39 then overflow (setD s n 0x007FFF0000#40 false)
    else overflow (setD s n 0xFF80000000#40 false))

/-- TSTGT (R248). -/
def execTstgt (n : DReg) (s : State) : Res State := .next (setT s (decide (0 < sD s n)))

/-- DMACSS (R261). -/
def execDmacss (c d n : DReg) (s : State) : Res State :=
  .next (writeWrap s n (sD s n / 2 ^ 16 + fracHighHigh s c d))

/-- DMACSU (R262). -/
def execDmacsu (c d n : DReg) (s : State) : Res State :=
  .next (writeWrap s n (sD s n / 2 ^ 16 + fracSU s c d))

end Sys2Proof.Machine
end

