-- ==== Sys2Proof/Tests/Slice0.lean ====
section
/-! SUPPORT. The model's own tests: what WellFormed refuses, decoding, one step per instruction on small states with values that
spec/95_test_vectors.md and spec/96_derived_vectors.md give, and for every obligation a witness of its hypotheses. -/

namespace Sys2Proof.Tests
open Sys2Proof Sys2Proof.Machine

/-! ### WellFormed refuses

For each check of `Instr.WF` an instruction that it refuses, beside one like it that it admits. -/

theorem test_wf_pairs : (Instr.addReg 1 0 2).WF = false ∧ (Instr.addReg 0 1 2).WF = true ∧ (Instr.mac true 3 3 0).WF = false
    ∧ (Instr.subRegSwap 5 4 0).WF = false ∧ (Instr.mpyr 8 14 9).WF = true ∧ (Instr.impy 7 7 7).WF = false := by decide
theorem test_wf_same_register : (Instr.addSame 1 3 0).WF = false ∧ (Instr.macSame false 2 2 0).WF = false
    ∧ (Instr.macSame false 11 3 0).WF = true := by decide
theorem test_wf_even_odd_pair : (Instr.sbc 1 2).WF = false ∧ (Instr.sbc 2 3).WF = true ∧ (Instr.macuu 0 2 1).WF = false := by
  decide
theorem test_wf_low_high_pair : (Instr.max 0 5).WF = false ∧ (Instr.max 0 4).WF = true ∧ (Instr.min 4 0).WF = false := by decide
theorem test_wf_viterbi : (Instr.max2vitA 0 6).WF = false ∧ (Instr.max2vitA 4 2).WF = true ∧ (Instr.max2vitB 4 2).WF = false := by
  decide
theorem test_wf_no_stack_pointer : (Instr.deca .sp).WF = false ∧ (Instr.inca .sp).WF = false ∧ (Instr.deceqa .sp).WF = false
    ∧ (Instr.decgea .sp).WF = false ∧ (Instr.decgea (.n 0)).WF = true := by decide
/-- A memory operand of a form that the instruction has no row for. -/
theorem test_wf_memory_forms :
    [Instr.movebLoad (.disp 0 2#15) (.d 0), .movebStore (.d 0) (.short 0 1#3), .movefLoad (.spShort 2#6) 0,
     .movefStore 0 (.abs16 2#16), .movefStore 0 (.ea (.postN 1) 0), .movel .read (.abs16 4#16) (.d 0),
     .movelC4Mem .read (.ea .plain 0) (.d 0), .movew .write (.sp 2#15) (.d 0), .movewC4Mem .write (.abs32 2#32) (.d 0),
     .movesf 0 (.index 0 1), .moveub (.index 0 1) (.d 0), .moveuwC4 (.disp 0 2#15) (.d 0), .moveuw (.abs16 2#16) (.d 0)].all
      (fun i => !i.WF) = true := by decide
theorem test_wf_prefix : (Instr.prefix1 1#3 true false 4#3).WF = false ∧ (Instr.prefix1 1#3 false true 0#3).WF = false
    ∧ (Instr.prefix1 1#3 true true 0#3).WF = true ∧ (Instr.prefix2 1#3 0#16 false false 0#3).WF = false
    ∧ (Instr.prefix2 2#3 0#16 false false 5#3).WF = false ∧ (Instr.ifa 0#3).WF = false := by decide

/-! ### Decoding

Every constructor, from words. -/

/-- Each list of words decodes to the instruction beside it, all of the words being its own. -/
def decodesAll (xs : List (List Nat × Instr)) : Bool :=
  xs.all fun x => decide (decodeWords Bank.zero x.1 = some (x.2, x.1.length))

/-- Words of the instruction lines of spec/96_derived_vectors.md. -/
theorem test_decode_vector1 : decodesAll
  [([0x6D51], .addReg 0 1 2),
   ([0x6CD0], .asl 0 1),
   ([0x7BDF], .addImm 0x1f#5 7),
   ([0x7861], .subImm 0x01#5 0),
   ([0x6D11], .subReg 0 1 2),
   ([0x6D31], .subRegSwap 0 1 2),
   ([0x6D90], .clr 0 3),
   ([0x6464], .neg 0),
   ([0x6466], .abs 0),
   ([0x70F0], .cmpgt 0 1),
   ([0x70F8], .cmphi 0 1),
   ([0x70E0], .cmpeq 0 1),
   ([0xD0BF], .cmpeqU 0x1f#5 1),
   ([0xD4A0], .cmpgtU 0x00#5 1),
   ([0x6569], .tsteq 2),
   ([0x6568], .tstge 2),
   ([0x646C], .decge 0),
   ([0x6C7C], .max 0 4),
   ([0x6D7D], .min 1 5),
   ([0x6765], .satL 6),
   ([0x7757], .tfr 7 6),
   ([0xD357], .tfrt 7 6),
   ([0xD35F], .tfrf 7 6),
   ([0xD0C0], .add2 0 1)] = true := by decide

/-- Words of the instruction lines of spec/96_derived_vectors.md. -/
theorem test_decode_vector2 : decodesAll
  [([0x74C8], .rnd 0 1),
   ([0x70C0], .adr 0 1),
   ([0x6467], .incF 0),
   ([0x7841], .inc 0),
   ([0x6D7B], .sbc 2 3),
   ([0x70D0], .div 0 1),
   ([0x3382, 0x8000], .addnc 0x8000#16 1 2),
   ([0x3A12, 0x8001], .iaddnc 0x0001#16 2),
   ([0x3C70, 0x9FFF], .subnc 0x7fff#16 0),
   ([0x70D8], .subl 0 1),
   ([0x704B], .sbr 3 0),
   ([0xD0C8], .sub2 0 1),
   ([0xD458], .max2vitA 4 2),
   ([0x6131], .mpy 0 1 2),
   ([0x6531], .mpyr 0 1 2),
   ([0x6111], .mac false 0 1 2),
   ([0x6511], .macr false 0 1 2),
   ([0x6931], .impy 0 1 2),
   ([0x6911], .imac false 0 1 2),
   ([0x6174], .mpyus 0 1 2),
   ([0x6D68], .mpysu 0 1 2),
   ([0x6D6C], .mpyuu 0 1 2),
   ([0x6D64], .macuu 0 1 2),
   ([0x63F1], .macsu 2 3 7)] = true := by decide

/-- Words of the instruction lines of spec/96_derived_vectors.md. -/
theorem test_decode_vector3 : decodesAll
  [([0x6FE1], .macus 2 3 7),
   ([0xD490], .asllReg 0 1),
   ([0x7D5F], .asllImm 0x1f#5 2),
   ([0x7D7F], .asrrImm 0x1f#5 2),
   ([0xD498], .asrrReg 0 1),
   ([0xD480], .lsll 0 1),
   ([0xD488], .lsrrReg 0 1),
   ([0xDCA4], .lsrrImm 0x04#5 1),
   ([0x666E], .lsr 4),
   ([0x76C4], .asr 4 5),
   ([0x66E2], .rol 5),
   ([0x66E3], .ror 5),
   ([0xD090], .clb 0 1),
   ([0x34CC, 0x9005], .extractImm 0x00#6 0x05#6 2 4),
   ([0x34CC, 0x8A00], .extractuImm 0x28#6 0x00#6 2 4),
   ([0x348C, 0x8001], .extractuReg 1 2 4),
   ([0xDC80], .andReg 0 1),
   ([0xDC98], .orReg 0 1),
   ([0xDC91], .eorReg 1 1),
   ([0xD880], .notReg 0 1),
   ([0x3119, 0x80FF], .andImmLow 0x00ff#16 0 1),
   ([0x3189, 0x8000], .andImmHigh 0x8000#16 0 1),
   ([0x74E0], .sxtB 0 1),
   ([0x74E8], .zxtB 0 1)] = true := by decide

/-- Words of the instruction lines of spec/96_derived_vectors.md. -/
theorem test_decode_vector4 : decodesAll
  [([0x74F0], .sxtW 0 1),
   ([0x74F8], .zxtW 0 1),
   ([0x64E1], .sxtL 1),
   ([0x64E0], .zxtL 1),
   ([0xD890], .aslw 0 1),
   ([0xD898], .asrw 0 1),
   ([0xD888], .lsrw 0 1),
   ([0x3CEF, 0x8220], .insertImm 0x08#6 0x20#6 6 7),
   ([0xE841], .inca (.r 0)),
   ([0xE819], .addaReg (.r 1) (.r 0)),
   ([0xE863], .subaImm 0x03#5 (.r 0)),
   ([0x2809, 0x8042], .addaImm16 0x0042#16 (.r 0) 1),
   ([0xE754], .addaImm 0x14#5 .sp),
   ([0xEAF7], .decgea (.r 2)),
   ([0xEAF6], .deceqa (.r 2)),
   ([0xE998], .cmpgta (.r 0) (.r 1)),
   ([0xE988], .cmphia (.r 0) (.r 1)),
   ([0xE9A0], .cmpeqa (.n 0) (.r 1)),
   ([0xEBF1], .tsteqaL (.r 3)),
   ([0xE9E8], .tfra (.r 0) (.r 1)),
   ([0x9A51], .movet 1 2),
   ([0x9A59], .movef 1 2),
   ([0xC3C0], .movewImm7 0x40#7 (.d 3)),
   ([0x2882, 0x8000], .movewImm16 0x8000#16 (.n 0))] = true := by decide

/-- Words of the instruction lines of spec/96_derived_vectors.md. -/
theorem test_decode_vector5 : decodesAll
  [([0x3540, 0x3678, 0x9234], .movelImmC4 0x12345678#32 (.d 5)),
   ([0x3143, 0x3FFF, 0x9234], .movelImmC1 0x12345fff#32 .vba),
   ([0x5118], .movew .read (.ea .postInc 0) (.d 1)),
   ([0x51D0], .moveuw (.ea .plain 0) (.d 1)),
   ([0x5248], .movefLoad (.ea .postDec 0) 2),
   ([0x5480], .movel .read (.ea .indexN0 0) (.d 4)),
   ([0x4029], .movew .write (.ea (.postN 1) 1) (.d 0)),
   ([0x4B10], .movew .write (.ea .plain 0) (.r 3)),
   ([0x5B10], .movew .read (.ea .plain 0) (.r 3)),
   ([0xC840], .movelC4 .write (.r 0) 0),
   ([0x4350], .movesf 3 (.ea .plain 0)),
   ([0x5858], .move2w .read .postInc 0 0),
   ([0x5D50], .move2f .plain 0 2),
   ([0x5108], .movew .read (.ea .postDec 0) (.d 1)),
   ([0x5120], .movew .read (.ea (.postN 0) 0) (.d 1)),
   ([0x90E0], .movebLoad (.ea .postInc 0) (.d 0)),
   ([0xB092], .movew .read (.short 2 0x2#3) (.d 0)),
   ([0x0704, 0x3234, 0x8000], .movew .read (.abs32 0x00001234#32) (.d 7)),
   ([0x9620], .pushEven (.d 3)),
   ([0x9720], .pushOdd (.d 3)),
   ([0x9531], .popOdd .sr),
   ([0x0991, 0xA000], .bmsetDr 0x8000#16 .high (.d 1)),
   ([0x0801, 0xA0FF], .bmclrDr 0x00ff#16 .low (.d 1)),
   ([0x0AFA, 0xBFFF], .notDr .high (.r 2))] = true := by decide

/-- Words of the instruction lines of spec/96_derived_vectors.md. -/
theorem test_decode_vector6 : decodesAll
  [([0x0C00, 0xA003], .bmtstcDr 0x0003#16 .low (.d 0)),
   ([0x0D00, 0xA007], .bmtstsDr 0x0007#16 .low (.d 0)),
   ([0x0E00, 0xA001], .bmtsetDr 0x0001#16 .low (.d 0)),
   ([0x12E8, 0xBFFF], .notMem (.rn 0)),
   ([0x1688, 0xA000], .bmtsetMem 0x8000#16 (.rn 0)),
   ([0x3921, 0x3000, 0x8100], .bmsetMem 0x0100#16 (.abs16 0x3000#16)),
   ([0x0002, 0xA001], .bmclrMem 0x0001#16 (.spShort 0x02#5)),
   ([0x8811], .bra (.short 0x008#10)),
   ([0x8011], .bt (.short 0x08#8)),
   ([0x8411], .bf (.short 0x08#8)),
   ([0x9B61], .jmp (.reg 3)),
   ([0x9B63], .jsr (.reg 3)),
   ([0x2318, 0x8400], .bsr (.long 0x00200#20)),
   ([0x9F71], .rts),
   ([0x9F73], .rte),
   ([0x9E7E], .trap),
   ([0x9965], .jt (.reg 1)),
   ([0x9967], .jf (.reg 1)),
   ([0x9F75], .rtstk),
   ([0x9050], .doen 0 (.u6 0x10#6)),
   ([0x9643], .doensh 2 (.u6 0x03#6)),
   ([0x2803, 0x800C], .dosetup 0 0x0006#16),
   ([0x2103, 0x801A], .skipls 0x000d#16),
   ([0x2003, 0x8020], .break_ 0x0010#16)] = true := by decide

/-- Words of the instruction lines of spec/96_derived_vectors.md. -/
theorem test_decode_vector7 : decodesAll
  [([0x2303, 0x8020], .cont 0x0010#16)] = true := by decide

/-- Words written from the encoding patterns of the opcode table, the operand fields from R160 to R177, R351, R416. -/
theorem test_decode_pattern1 : decodesAll
  [([0x60E2], .addSame 5 5 1),
   ([0x34F3, 0x9FFE], .cmpeqS 0xFFFE#16 3),
   ([0x3616, 0x9234], .cmpgtS 0x1234#16 6),
   ([0xD459], .max2vitB 0 6),
   ([0x6167], .subSame 7 7 2),
   ([0x6BEC], .imacSame true 1 1 7),
   ([0x3843, 0x8005], .imaclhuu 2 5 3),
   ([0x30C1, 0x8004], .imacus 6 4 1),
   ([0x6A75], .impySame 3 3 4),
   ([0x3E90, 0x8001], .impyW 0x8001#16 0),
   ([0x3A22, 0x8003], .impyhluu 1 3 2),
   ([0x34E5, 0x8000], .impysu 7 0 5),
   ([0x3666, 0x8002], .impyuu 3 2 6),
   ([0x69E2], .macSame false 5 5 3),
   ([0x3952, 0x8000], .macImm 0x4000#16 4 2),
   ([0x687F], .macrSame true 7 7 0),
   ([0x6970], .mpySame 1 1 2),
   ([0x62E9], .mpyrSame 3 3 5),
   ([0x348C, 0x9001], .extractReg 1 2 4),
   ([0x36AF, 0x8000], .insertReg 0 3 7),
   ([0x67EF], .incListed 7),
   ([0xEA01], .addl1a (.n 1) (.r 2)),
   ([0xE326], .addl2a .pc (.n 3)),
   ([0xE7FE], .asl2a .sp)] = true := by decide

/-- Words written from the encoding patterns of the opcode table, the operand fields from R160 to R177, R351, R416. -/
theorem test_decode_pattern2 : decodesAll
  [([0xEFFC], .asla (.r 7)),
   ([0xE0FD], .asra (.n 0)),
   ([0xECFF], .lsra (.r 4)),
   ([0xED61], .deca (.r 5)),
   ([0xE937], .subaReg .sp (.r 1)),
   ([0xE8CB], .sxtaB (.r 3) (.r 0)),
   ([0xE2F9], .sxtaW (.n 2)),
   ([0x9A76], .tfraFromOsp 6),
   ([0x9A79], .tfraToOsp 1),
   ([0xE9F0], .tsteqaW (.r 1)),
   ([0xE7F3], .tstgeaL .sp),
   ([0xE1F2], .tstgta (.n 1)),
   ([0xEED0], .zxtaB (.n 0) (.r 6)),
   ([0xEBF8], .zxtaW (.r 3)),
   ([0xC52B], .move2l .read (.postN 1) 3 2),
   ([0x4DCA], .move4f .postDec 2 1),
   ([0xC815], .move4w .write .plain 5 0),
   ([0x09AC, 0x8BCD], .movebStore (.r 1) (.abs16 0xABCD#16)),
   ([0x0241, 0x3678, 0x9234], .movebStore (.d 2) (.abs32 0x12345678#32)),
   ([0x0774, 0x9FFE], .movebStore (.d 7) (.disp 4 0x7FFE#15)),
   ([0x988B], .movebStore (.r 0) (.ea .postDec 3)),
   ([0x013C, 0x8001], .movebStore (.d 1) (.sp 0x2001#15)),
   ([0x26C1, 0x8000], .movefImm 0xC000#16 6),
   ([0x9C2F], .movefStore 4 (.ea .indexN0 7))] = true := by decide

/-- Words written from the encoding patterns of the opcode table, the operand fields from R160 to R177, R351, R416. -/
theorem test_decode_pattern3 : decodesAll
  [([0xCB6D], .movelC2 .read (.lc 1) 5),
   ([0x0CFE, 0x8004], .movelExtEven (.sp 0x6004#15) 2),
   ([0x0E9C, 0x8008], .movelExtStore 3 (.sp 0x0008#15)),
   ([0x0BFE, 0x9FFC], .movelExtOdd (.sp 0x7FFC#15) 1),
   ([0x1218, 0x2004, 0x9EAD], .movelExtStore 1 (.abs32 0xDEAD0004#32)),
   ([0x148B, 0x8004], .movelC4Mem .read (.abs16 0x8004#16) (.b 4)),
   ([0x0E9A, 0x8010], .movelC4Mem .write (.sp 0x0010#15) (.m 2)),
   ([0x9D12], .movelC3 .write 2 (.m 1)),
   ([0x3834, 0x3000, 0x8001], .movewImmMem 0x8001#16 (.abs16 0x3000#16)),
   ([0x1803, 0xB234], .movewImmMem 0x1234#16 (.spShort 3#5)),
   ([0x19EE, 0xBFFF], .movewImmMem 0xFFFF#16 (.rn 6)),
   ([0x38E5, 0x3FF0, 0x8001], .movewImmMem 0x0001#16 (.sp 0xFFF0#16)),
   ([0x0B0A, 0x80FE], .movewC4Mem .write (.abs16 0x00FE#16) (.n 3)),
   ([0x1658, 0x8002], .movewC4Mem .read (.sp 0x4002#15) (.d 6)),
   ([0x970C], .movewC3 .read 4 (.b 7)),
   ([0x4B71], .moves2f 1 (.postN 2) 1),
   ([0x4CD8], .moves4f 1 .postInc 0),
   ([0x43D6], .moveslEa 3 .plain 6),
   ([0x13EC, 0x9FFF], .moveub (.abs16 0xFFFF#16) (.d 3)),
   ([0x0F15, 0x2001, 0x8000], .moveub (.abs32 0x80000001#32) (.r 7)),
   ([0x90BD], .moveub (.ea .plain 5) (.d 0)),
   ([0x32D1, 0x2DEF, 0x89AB], .moveulImm 0x89ABCDEF#32 2),
   ([0x1971, 0xBFFF], .moveuwHigh 0x7FFF#16 1),
   ([0x1987, 0xA000], .moveuwLow 0x8000#16 7)] = true := by decide

/-- Words written from the encoding patterns of the opcode table, the operand fields from R160 to R177, R351, R416. -/
theorem test_decode_pattern4 : decodesAll
  [([0x1B2D, 0x8222], .moveuwC4 (.abs16 0x2222#16) (.r 3)),
   ([0x1CFE, 0x9FFE], .moveuwC4 (.sp 0x7FFE#15) (.m 0)),
   ([0xCA31], .vsl2f false 1),
   ([0xCA22], .vsl2w false 2),
   ([0xCA13], .vsl4f false 3),
   ([0xCA04], .vsl4w false 4),
   ([0x9C33], .popEven (.extPair 2)),
   ([0x9A35], .popnEven (.sa 1)),
   ([0x9135], .popnOdd .vba),
   ([0x9E26], .pushnEven (.m 1)),
   ([0x9F34], .pushnOdd (.lc 3)),
   ([0x10E0, 0xBFFB], .bmclrC1 0xFFFB#16 .low .emr),
   ([0x1105, 0xA004], .bmsetC1 0x0004#16 .low .sr),
   ([0x1291, 0xA000], .bmchgC1 0x8000#16 .high .vba),
   ([0x1417, 0xA0F0], .bmtstcC1 0x00F0#16 .high .mctl),
   ([0x1547, 0xA001], .bmtstsC1 0x4001#16 .low .mctl),
   ([0x0A1A, 0xB234], .bmchgDr 0x1234#16 .high (.r 2)),
   ([0x128D, 0xA001], .bmchgMem 0x8001#16 (.rn 5)),
   ([0x1448, 0xA000], .bmtstcMem 0x4000#16 (.rn 0)),
   ([0x053F, 0xA000], .bmtstsMem 0x2000#16 (.spShort 31#5)),
   ([0x3D9B, 0x2002, 0x8003], .bmtstsMem 0xC003#16 (.sp 0x8002#16)),
   ([0x8C00], .brad (.short 0x200#10)),
   ([0x281C, 0x9BCA], .brad (.long 0xC0DE5#20)),
   ([0x8302], .bsrd (.short 0x81#8))] = true := by decide

/-- Words written from the encoding patterns of the opcode table, the operand fields from R160 to R177, R351, R416. -/
theorem test_decode_pattern5 : decodesAll
  [([0x80FE], .btd (.short 0x7F#8)),
   ([0x85FC], .bfd (.short 0xFE#8)),
   ([0x245A, 0x9557], .btd (.long 0x2AAAB#20)),
   ([0x3004, 0x2000, 0x8038], .jmpd (.abs 0x00380000#32)),
   ([0x9F62], .jsrd (.reg 7)),
   ([0x349C, 0x2002, 0xBFFF], .jtd (.abs 0xFFFF8002#32)),
   ([0x9C66], .jfd (.reg 4)),
   ([0x9F72], .rted),
   ([0x9F70], .rtsd),
   ([0x9F74], .rtstkd),
   ([0x2203, 0x8247], .contd 0x8123#16),
   ([0x9E70], .debug),
   ([0x9E71], .debugev),
   ([0x9F7D], .di),
   ([0x9F7C], .ei),
   ([0x9E78], .illegal 0),
   ([0x9E72], .mark),
   ([0x9F79], .stop),
   ([0x9F78], .wait),
   ([0x90C0], .nop),
   ([0x3896, 0xA9A1], .prefix2 4#3 0xA4A1#16 true false 6#3),
   ([0x94D0], .lpmarkb 2#3),
   ([0x94C1], .prefix1 2#3 false false 1#3),
   ([0x92C8], .lpmarka 1#3)] = true := by decide

/-- Words written from the encoding patterns of the opcode table, the operand fields from R160 to R177, R351, R416. -/
theorem test_decode_pattern6 : decodesAll
  [([0x94C2], .ift 2#3),
   ([0x9EC3], .iff 7#3),
   ([0x92C0], .ifa 1#3)] = true := by decide

/-- AND, EOR and OR to a register half or to memory are names of BMCLR (of the complement), BMCHG and BMSET (R395, R396, R409, R410, R413, R414). -/
theorem test_decode_second_names :
    ([([0x08E5, 0xBF00], .andDr 0x00FF#16 .low (.d 5)),
    ([0x100B, 0xA00F], .andMem 0xFFF0#16 (.rn 3)),
    ([0x0A10, 0xAF0F], .eorDr 0x0F0F#16 .high (.d 0)),
    ([0x120F, 0xB111], .eorMem 0x1111#16 (.rn 7)),
    ([0x09AC, 0xA5A5], .orDr 0xA5A5#16 .low (.r 4)),
    ([0x118A, 0xA000], .orMem 0x8000#16 (.rn 2))] : List (List Nat × Instr)).all
      (fun x => decide (decodeWords Bank.zero x.1 = some (x.2.canon, x.1.length)) && x.2.canon != x.2) = true := by decide

/-! ### One step

Values before and after: spec/96_derived_vectors.md.  The vector of `asr d4,d5` gives L5 = 0 where R217 and R201 give 1: the rules
are followed (log 52) and that tag is not tested. -/

/-- The state after reset with a value of SR. -/
def on (sr : Word) : State := { State.reset with sr := sr }

/-- The set whose words are `ws`, at address `pc` of `s`, completes in one step, and `p` holds of the state after it. -/
def after (pc : Word) (s : State) (ws : List Nat) (p : State → Bool) : Bool :=
  match step (storeCode { s with pc := pc, npc := pc } pc ws) with
  | .next t => p t
  | _ => false

theorem test_step_add_d0_d1_d2 : after 0x100#32 (setD (setD (setD (on 0xE00000#32) 0 0x0#40 false) 1 0x0#40 false) 2 0x1234567890#40 true) [0x6D51]
    (fun t => ltag t 2 == false && dreg t 2 == 0x0#40 && t.emr == 0x0#32 && carry t == false) = true := by decide
theorem test_step_asl_d0_d1 : after 0x100#32 (setD (on 0xE00000#32) 0 0x40000000#40 false) [0x6CD0]
    (fun t => ltag t 1 == true && dreg t 1 == 0x80000000#40 && t.emr == 0x0#32 && carry t == false) = true := by decide
theorem test_step_add_1f_d7 : after 0x100#32 (setD (on 0xE00000#32) 7 0xFFFFFFFFE1#40 false) [0x7BDF]
    (fun t => ltag t 7 == false && dreg t 7 == 0x0#40 && carry t == true) = true := by decide
theorem test_step_sub_1_d0 : after 0x100#32 (setD (on 0xE00000#32) 0 0x0#40 false) [0x7861]
    (fun t => ltag t 0 == false && dreg t 0 == 0xFFFFFFFFFF#40 && t.emr == 0x0#32 && carry t == true) = true := by decide
theorem test_step_sub_d0_d1_d2 : after 0x100#32 (setD (setD (on 0xE00000#32) 0 0x1#40 false) 1 0x8000000000#40 false) [0x6D11]
    (fun t => ltag t 2 == true && dreg t 2 == 0x7FFFFFFFFF#40 && t.emr == 0x4#32 && carry t == false) = true := by decide
theorem test_step_sub_d1_d0_d2 : after 0x100#32 (setD (setD (on 0xE00000#32) 0 0x1#40 false) 1 0x8000000000#40 false) [0x6D31]
    (fun t => ltag t 2 == true && dreg t 2 == 0x8000000001#40 && t.emr == 0x4#32 && carry t == true) = true := by decide
theorem test_step_clr_d3 : after 0x100#32 (setD (on 0xE00001#32) 3 0xFF12345678#40 true) [0x6D90]
    (fun t => ltag t 3 == false && dreg t 3 == 0x0#40 && carry t == false) = true := by decide
theorem test_step_neg_d0 : after 0x100#32 (setD (on 0xE00000#32) 0 0x8000000000#40 false) [0x6464]
    (fun t => ltag t 0 == true && dreg t 0 == 0x8000000000#40 && t.emr == 0x4#32) = true := by decide
theorem test_step_abs_d0 : after 0x100#32 (setD (on 0xE00000#32) 0 0x8000000000#40 false) [0x6466]
    (fun t => ltag t 0 == true && dreg t 0 == 0x8000000000#40 && t.emr == 0x4#32) = true := by decide
theorem test_step_cmpgt_d0_d1 : after 0x100#32 (setD (setD (on 0xE00000#32) 0 0xFF00000001#40 false) 1 0x0#40 false) [0x70F0]
    (fun t => tBit t == true) = true := by decide
theorem test_step_cmphi_d0_d1 : after 0x100#32 (setD (setD (on 0xE00000#32) 0 0xFF00000001#40 false) 1 0x0#40 false) [0x70F8]
    (fun t => tBit t == false) = true := by decide
theorem test_step_cmpeq_d0_d1 : after 0x100#32 (setD (setD (on 0xE00000#32) 0 0x100000005#40 false) 1 0x5#40 false) [0x70E0]
    (fun t => tBit t == false) = true := by decide
theorem test_step_cmpeq_w_1f_d1 : after 0x100#32 (setD (on 0xE00000#32) 1 0x1F#40 false) [0xD0BF]
    (fun t => tBit t == true) = true := by decide
theorem test_step_cmpgt_w_0_d1 : after 0x100#32 (setD (on 0xE00002#32) 1 0xFFFFFFFFFF#40 false) [0xD4A0]
    (fun t => tBit t == false) = true := by decide
theorem test_step_tsteq_d2 : after 0x100#32 (setD (on 0xE00000#32) 2 0x100000000#40 false) [0x6569]
    (fun t => tBit t == false) = true := by decide
theorem test_step_tstge_d2 : after 0x100#32 (setD (on 0xE00002#32) 2 0x8000000000#40 false) [0x6568]
    (fun t => tBit t == false) = true := by decide
theorem test_step_decge_d0 : after 0x100#32 (setD (on 0xE00000#32) 0 0x0#40 false) [0x646C]
    (fun t => ltag t 0 == false && dreg t 0 == 0xFFFFFFFFFF#40 && t.emr == 0x0#32 && tBit t == false && carry t == true) = true := by decide
theorem test_step_max_d0_d4 : after 0x100#32 (setD (setD (on 0xE00000#32) 0 0x7#40 false) 4 0x7#40 true) [0x6C7C]
    (fun t => ltag t 4 == false && dreg t 4 == 0x7#40) = true := by decide
theorem test_step_min_d1_d5 : after 0x100#32 (setD (setD (on 0xE00000#32) 1 0x8000000000#40 false) 5 0x7FFFFFFFFF#40 false) [0x6D7D]
    (fun t => ltag t 5 == false && dreg t 5 == 0x8000000000#40) = true := by decide
theorem test_step_sat_l_d6 : after 0x100#32 (setD (on 0xE00000#32) 6 0xFF7FFFFFFF#40 true) [0x6765]
    (fun t => ltag t 6 == false && dreg t 6 == 0xFF80000000#40 && t.emr == 0x4#32) = true := by decide
theorem test_step_tfr_d7_d6 : after 0x100#32 (setD (on 0xE00004#32) 7 0x7F12345678#40 false) [0x7757]
    (fun t => ltag t 6 == true && dreg t 6 == 0x7F12345678#40 && t.emr == 0x0#32) = true := by decide
theorem test_step_tfrt_d7_d6 : after 0x100#32 (setD (setD (on 0xE00002#32) 7 0x55#40 false) 6 0x66#40 false) [0xD357]
    (fun t => ltag t 6 == false && dreg t 6 == 0x55#40) = true := by decide
theorem test_step_tfrf_d7_d6 : after 0x100#32 (setD (setD (on 0xE00000#32) 7 0x55#40 false) 6 0x66#40 false) [0xD35F]
    (fun t => ltag t 6 == false && dreg t 6 == 0x55#40) = true := by decide
theorem test_step_add2_d0_d1 : after 0x100#32 (setD (setD (on 0xE00000#32) 0 0xFFFF0001#40 false) 1 0x1FFFF#40 true) [0xD0C0]
    (fun t => ltag t 1 == false) = true := by decide
theorem test_step_rnd_d0_d1 : after 0x100#32 (setD (on 0xE00004#32) 0 0x7FFF8000#40 false) [0x74C8]
    (fun t => ltag t 1 == false && dreg t 1 == 0x7FFF0000#40 && t.emr == 0x4#32) = true := by decide
theorem test_step_adr_d0_d1 : after 0x100#32 (setD (setD (on 0xE00000#32) 0 0x8000#40 false) 1 0x10000#40 false) [0x70C0]
    (fun t => ltag t 1 == false && dreg t 1 == 0x20000#40) = true := by decide
theorem test_step_inc_f_d0 : after 0x100#32 (setD (on 0xE00000#32) 0 0xFFFFFF1234#40 false) [0x6467]
    (fun t => ltag t 0 == false && dreg t 0 == 0x1234#40 && carry t == true) = true := by decide
theorem test_step_inc_d0 : after 0x100#32 (setD (on 0xE00000#32) 0 0x7FFFFFFFFF#40 false) [0x7841]
    (fun t => ltag t 0 == true && dreg t 0 == 0x8000000000#40 && t.emr == 0x4#32 && carry t == false) = true := by decide
theorem test_step_sbc_d2_d3 : after 0x100#32 (setD (setD (on 0xE00005#32) 2 0x8000000000#40 false) 3 0x0#40 false) [0x6D7B]
    (fun t => ltag t 3 == true && dreg t 3 == 0x7FFFFFFFFF#40 && t.emr == 0x0#32 && carry t == true) = true := by decide
theorem test_step_div_d0_d1 : after 0x100#32 (setD (setD (on 0xE00000#32) 0 0x40000000#40 false) 1 0x10000000#40 false) [0x70D0]
    (fun t => ltag t 1 == false && dreg t 1 == 0xFFE0000000#40 && t.emr == 0x0#32 && carry t == false) = true := by decide
theorem test_step_addnc_w_8000_d1_d2 : after 0x100#32 (setD (on 0xE00001#32) 1 0x8000#40 false) [0x3382, 0x8000]
    (fun t => ltag t 2 == false && dreg t 2 == 0x0#40 && t.emr == 0x0#32 && carry t == true) = true := by decide
theorem test_step_iaddnc_w_1_d2 : after 0x100#32 (setD (on 0xE00004#32) 2 0x7FFFFFFF#40 false) [0x3A12, 0x8001]
    (fun t => ltag t 2 == false && dreg t 2 == 0x80000000#40 && t.emr == 0x0#32) = true := by decide
theorem test_step_subnc_w_7fff_d0 : after 0x100#32 (setD (on 0xE00004#32) 0 0xFF80000000#40 false) [0x3C70, 0x9FFF]
    (fun t => ltag t 0 == false && dreg t 0 == 0xFF80000000#40 && t.emr == 0x4#32) = true := by decide
theorem test_step_subl_d0_d1 : after 0x100#32 (setD (setD (on 0xE00000#32) 0 0x1#40 false) 1 0x4000000000#40 false) [0x70D8]
    (fun t => ltag t 1 == true && dreg t 1 == 0x7FFFFFFFFF#40 && t.emr == 0x4#32 && carry t == false) = true := by decide
theorem test_step_sbr_d3_d0 : after 0x100#32 (setD (setD (on 0xE00000#32) 3 0x8000#40 false) 0 0x20000#40 false) [0x704B]
    (fun t => ltag t 0 == false && dreg t 0 == 0x20000#40) = true := by decide
theorem test_step_sub2_d0_d1 : after 0x100#32 (setD (setD (on 0xE00000#32) 0 0x10001#40 false) 1 0x0#40 false) [0xD0C8]
    (fun t => ltag t 1 == false) = true := by decide
theorem test_step_max2vit_d4_d2 : after 0x100#32 (setD (setD (on 0xE00300#32) 4 0x5FFFF#40 false) 2 0x50000#40 false) [0xD458]
    (fun t => dreg t 2 == 0x50000#40 && t.sr == 0xE00300#32) = true := by decide
theorem test_step_mpy_d0_d1_d2 : after 0x100#32 (setD (setD (on 0xE00000#32) 0 0xFF80000000#40 false) 1 0xFF80000000#40 false) [0x6131]
    (fun t => ltag t 2 == true && dreg t 2 == 0x80000000#40 && t.emr == 0x0#32) = true := by decide
theorem test_step_mpyr_d0_d1_d2 : after 0x100#32 (setD (setD (on 0xE00004#32) 0 0xFF80000000#40 false) 1 0xFF80000000#40 false) [0x6531]
    (fun t => ltag t 2 == false && dreg t 2 == 0x7FFF0000#40 && t.emr == 0x4#32) = true := by decide
theorem test_step_mac_d0_d1_d2 : after 0x100#32 (setD (setD (setD (on 0xE00001#32) 0 0x7FFF0000#40 false) 1 0x7FFF0000#40 false) 2 0x7FC0000000#40 false) [0x6111]
    (fun t => ltag t 2 == true && dreg t 2 == 0x803FFE0002#40 && t.emr == 0x4#32 && carry t == true) = true := by decide
theorem test_step_macr_d0_d1_d2 : after 0x100#32 (setD (setD (setD (on 0xE00000#32) 0 0x10000#40 false) 1 0x40000000#40 false) 2 0x10000#40 false) [0x6511]
    (fun t => ltag t 2 == false && dreg t 2 == 0x20000#40) = true := by decide
theorem test_step_impy_d0_d1_d2 : after 0x100#32 (setD (setD (on 0xE00000#32) 0 0xFFFFFFFFFF#40 false) 1 0xFFFFFFFFFF#40 false) [0x6931]
    (fun t => ltag t 2 == false && dreg t 2 == 0x1#40) = true := by decide
theorem test_step_imac_d0_d1_d2 : after 0x100#32 (setD (setD (setD (on 0xE00000#32) 0 0x8000#40 false) 1 0x8000#40 false) 2 0x7FC0000000#40 false) [0x6911]
    (fun t => ltag t 2 == false && dreg t 2 == 0x8000000000#40 && t.emr == 0x4#32) = true := by decide
theorem test_step_mpyus_d0_d1_d2 : after 0x100#32 (setD (setD (on 0xE00000#32) 0 0xFFFF#40 false) 1 0xFFFF0000#40 false) [0x6174]
    (fun t => ltag t 2 == false && dreg t 2 == 0xFFFFFE0002#40) = true := by decide
theorem test_step_mpysu_d0_d1_d2 : after 0x100#32 (setD (setD (on 0xE00000#32) 0 0xFFFF0000#40 false) 1 0xFFFF#40 false) [0x6D68]
    (fun t => ltag t 2 == false && dreg t 2 == 0xFFFFFE0002#40) = true := by decide
theorem test_step_mpyuu_d0_d1_d2 : after 0x100#32 (setD (setD (on 0xE00004#32) 0 0xFFFF#40 false) 1 0xFFFF#40 false) [0x6D6C]
    (fun t => ltag t 2 == false && dreg t 2 == 0x1FFFC0002#40) = true := by decide
theorem test_step_macuu_d0_d1_d2 : after 0x100#32 (setD (setD (setD (on 0xE00000#32) 0 0x2#40 false) 1 0x3#40 false) 2 0xFFFFFFFFFF#40 false) [0x6D64]
    (fun t => ltag t 2 == false && dreg t 2 == 0xB#40 && t.emr == 0x0#32) = true := by decide
theorem test_step_macsu_d2_d3_d7 : after 0x100#32 (setD (setD (setD (on 0xE00000#32) 2 0x80000000#40 false) 3 0x8000#40 false) 7 0x10#40 false) [0x63F1]
    (fun t => ltag t 7 == false && dreg t 7 == 0xFF80000010#40) = true := by decide
theorem test_step_macus_d2_d3_d7 : after 0x100#32 (setD (setD (setD (on 0xE00000#32) 2 0x8000#40 false) 3 0x80000000#40 false) 7 0x10#40 false) [0x6FE1]
    (fun t => ltag t 7 == false && dreg t 7 == 0xFF80000010#40) = true := by decide
theorem test_step_asll_d0_d1 : after 0x100#32 (setD (setD (on 0xE00001#32) 0 0x0#40 false) 1 0xFF12345678#40 true) [0xD490]
    (fun t => ltag t 1 == false && dreg t 1 == 0xFF12345678#40 && t.emr == 0x0#32 && carry t == false) = true := by decide
theorem test_step_asll_1f_d2 : after 0x100#32 (setD (on 0xE00000#32) 2 0x101#40 false) [0x7D5F]
    (fun t => ltag t 2 == false && dreg t 2 == 0x8080000000#40 && t.emr == 0x4#32 && carry t == false) = true := by decide
theorem test_step_asrr_1f_d2 : after 0x100#32 (setD (on 0xE00000#32) 2 0x8040000000#40 false) [0x7D7F]
    (fun t => ltag t 2 == false && dreg t 2 == 0xFFFFFFFF00#40 && carry t == true) = true := by decide
theorem test_step_asrr_d0_d1 : after 0x100#32 (setD (setD (on 0xE00000#32) 0 0x7F#40 false) 1 0x4000000000#40 false) [0xD498]
    (fun t => ltag t 1 == false && dreg t 1 == 0x8000000000#40 && t.emr == 0x4#32 && carry t == false) = true := by decide
theorem test_step_lsll_d0_d1 : after 0x100#32 (setD (setD (on 0xE00000#32) 0 0x1#40 false) 1 0x4000000000#40 false) [0xD480]
    (fun t => ltag t 1 == false && dreg t 1 == 0x8000000000#40 && t.emr == 0x0#32 && carry t == false) = true := by decide
theorem test_step_lsrr_d0_d1 : after 0x100#32 (setD (setD (on 0xE00000#32) 0 0x28#40 false) 1 0x8000000000#40 false) [0xD488]
    (fun t => ltag t 1 == false && dreg t 1 == 0x0#40 && carry t == true) = true := by decide
theorem test_step_lsrr_4_d1 : after 0x100#32 (setD (on 0xE00000#32) 1 0xFF000000F8#40 false) [0xDCA4]
    (fun t => ltag t 1 == false && dreg t 1 == 0xFF000000F#40 && carry t == true) = true := by decide
theorem test_step_lsr_d4 : after 0x100#32 (setD (on 0xE00000#32) 4 0x8000000001#40 false) [0x666E]
    (fun t => ltag t 4 == false && dreg t 4 == 0x4000000000#40 && carry t == true) = true := by decide
theorem test_step_asr_d4_d5 : after 0x100#32 (setD (on 0xE00000#32) 4 0x8000000001#40 false) [0x76C4]
    (fun t => dreg t 5 == 0xC000000000#40 && carry t == true) = true := by decide
theorem test_step_rol_d5 : after 0x100#32 (setD (on 0xE00001#32) 5 0x8000000000#40 false) [0x66E2]
    (fun t => ltag t 5 == false && dreg t 5 == 0x1#40 && carry t == true) = true := by decide
theorem test_step_ror_d5 : after 0x100#32 (setD (on 0xE00001#32) 5 0x1#40 false) [0x66E3]
    (fun t => ltag t 5 == false && dreg t 5 == 0x8000000000#40 && carry t == true) = true := by decide
theorem test_step_clb_d0_d1 : after 0x100#32 (setD (setD (on 0xE00000#32) 0 0x0#40 false) 1 0x55#40 false) [0xD090]
    (fun t => ltag t 1 == false && dreg t 1 == 0x0#40) = true := by decide
theorem test_step_extract_0_5_d2_d4 : after 0x100#32 (setD (setD (on 0xE00000#32) 2 0xFFFFFFFFFF#40 false) 4 0x77#40 true) [0x34CC, 0x9005]
    (fun t => ltag t 4 == false && dreg t 4 == 0x0#40) = true := by decide
theorem test_step_extractu_28_0_d2_d4 : after 0x100#32 (setD (on 0xE00000#32) 2 0xABCDEF0123#40 false) [0x34CC, 0x8A00]
    (fun t => ltag t 4 == false && dreg t 4 == 0xABCDEF0123#40) = true := by decide
theorem test_step_extractu_d1_d2_d4 : after 0x100#32 (setD (setD (on 0xE00000#32) 1 0x804#40 false) 2 0xFF0#40 false) [0x348C, 0x8001]
    (fun t => ltag t 4 == false && dreg t 4 == 0xFF#40) = true := by decide
theorem test_step_and_d0_d1 : after 0x100#32 (setD (setD (on 0xE00000#32) 0 0xF0F0F0F0F0#40 false) 1 0xFF00FF00FF#40 true) [0xDC80]
    (fun t => ltag t 1 == false && dreg t 1 == 0xF000F000F0#40) = true := by decide
theorem test_step_or_d0_d1 : after 0x100#32 (setD (setD (on 0xE00000#32) 0 0xF0F0F0F0F0#40 false) 1 0xFF00FF00FF#40 false) [0xDC98]
    (fun t => ltag t 1 == false && dreg t 1 == 0xFFF0FFF0FF#40) = true := by decide
theorem test_step_eor_d1_d1 : after 0x100#32 (setD (on 0xE00000#32) 1 0xFF00FF00FF#40 true) [0xDC91]
    (fun t => ltag t 1 == false && dreg t 1 == 0x0#40) = true := by decide
theorem test_step_not_d0_d1 : after 0x100#32 (setD (on 0xE00000#32) 0 0xFFFF0000#40 false) [0xD880]
    (fun t => ltag t 1 == false && dreg t 1 == 0xFF0000FFFF#40) = true := by decide
theorem test_step_and_00ff_d0_d1 : after 0x100#32 (setD (on 0xE00000#32) 0 0xFFFFFFFFFF#40 false) [0x3119, 0x80FF]
    (fun t => ltag t 1 == false && dreg t 1 == 0xFF#40) = true := by decide
theorem test_step_and_80000000_d0_d1 : after 0x100#32 (setD (on 0xE00000#32) 0 0xFFFFFFFFFF#40 false) [0x3189, 0x8000]
    (fun t => ltag t 1 == false && dreg t 1 == 0xFF80000000#40) = true := by decide
theorem test_step_sxt_b_d0_d1 : after 0x100#32 (setD (on 0xE00000#32) 0 0x1234567880#40 false) [0x74E0]
    (fun t => ltag t 1 == false && dreg t 1 == 0xFFFFFFFF80#40) = true := by decide
theorem test_step_zxt_b_d0_d1 : after 0x100#32 (setD (on 0xE00000#32) 0 0x1234567880#40 false) [0x74E8]
    (fun t => ltag t 1 == false && dreg t 1 == 0x80#40) = true := by decide
theorem test_step_sxt_w_d0_d1 : after 0x100#32 (setD (on 0xE00000#32) 0 0x1234568000#40 false) [0x74F0]
    (fun t => ltag t 1 == false && dreg t 1 == 0xFFFFFF8000#40) = true := by decide
theorem test_step_zxt_w_d0_d1 : after 0x100#32 (setD (on 0xE00000#32) 0 0x1234568000#40 false) [0x74F8]
    (fun t => ltag t 1 == false && dreg t 1 == 0x8000#40) = true := by decide
theorem test_step_sxt_l_d1 : after 0x100#32 (setD (on 0xE00000#32) 1 0x80000000#40 true) [0x64E1]
    (fun t => ltag t 1 == false && dreg t 1 == 0xFF80000000#40) = true := by decide
theorem test_step_zxt_l_d1 : after 0x100#32 (setD (on 0xE00000#32) 1 0xFF80000000#40 false) [0x64E0]
    (fun t => ltag t 1 == false && dreg t 1 == 0x80000000#40) = true := by decide
theorem test_step_aslw_d0_d1 : after 0x100#32 (setD (on 0xE00000#32) 0 0x1804321#40 false) [0xD890]
    (fun t => ltag t 1 == false && dreg t 1 == 0x8043210000#40 && t.emr == 0x4#32 && carry t == true) = true := by decide
theorem test_step_asrw_d0_d1 : after 0x100#32 (setD (on 0xE00000#32) 0 0x8000008000#40 false) [0xD898]
    (fun t => ltag t 1 == false && dreg t 1 == 0xFFFF800000#40 && carry t == true) = true := by decide
theorem test_step_lsrw_d0_d1 : after 0x100#32 (setD (on 0xE00000#32) 0 0x8000008000#40 false) [0xD888]
    (fun t => ltag t 1 == false && dreg t 1 == 0x800000#40 && carry t == true) = true := by decide
theorem test_step_insert_8_20_d6_d7 : after 0x100#32 (setD (setD (on 0xE00000#32) 6 0x1A5#40 false) 7 0x123456789A#40 true) [0x3CEF, 0x8220]
    (fun t => ltag t 7 == false && dreg t 7 == 0xA53456789A#40) = true := by decide
theorem test_step_adda_1_r0 : after 0x100#32 (setR (on 0xE00000#32) 0 0xFFFFFFFF#32) [0xE841]
    (fun t => rreg t 0 == 0x0#32) = true := by decide
theorem test_step_adda_r1_r0 : after 0x100#32 (setR (setR (setM (setR { (on 0xE00000#32) with mctl := 0x8#32 } 8 0x100#32) 0 0x10#32) 0 0x10E#32) 1 0x4#32) [0xE819]
    (fun t => rreg t 0 == 0x102#32) = true := by decide
theorem test_step_suba_3_r0 : after 0x100#32 (setR (setM (setR { (on 0xE00000#32) with mctl := 0x8#32 } 8 0x100#32) 0 0x10#32) 0 0x101#32) [0xE863]
    (fun t => rreg t 0 == 0x10E#32) = true := by decide
theorem test_step_adda_42_r0_r1 : after 0x100#32 (setR (setM { (on 0xE00000#32) with mctl := 0xC#32 } 0 0xF#32) 0 0x24#32) [0x2809, 0x8042]
    (fun t => rreg t 1 == 0x26#32 && rreg t 0 == 0x24#32) = true := by decide
theorem test_step_adda_14_sp : after 0x100#32 { (on 0xE00000#32) with nsp := 0x6000#32 } [0xE754]
    (fun t => t.nsp == 0x6010#32 && t.esp == 0x0#32) = true := by decide
theorem test_step_decgea_r2 : after 0x100#32 (setR (on 0xE00002#32) 2 0x80000000#32) [0xEAF7]
    (fun t => rreg t 2 == 0x7FFFFFFF#32 && tBit t == false) = true := by decide
theorem test_step_deceqa_r2 : after 0x100#32 (setR (on 0xE00000#32) 2 0x1#32) [0xEAF6]
    (fun t => rreg t 2 == 0x0#32 && tBit t == true) = true := by decide
theorem test_step_cmpgta_r0_r1 : after 0x100#32 (setR (setR (on 0xE00000#32) 0 0xFFFFFFFF#32) 1 0x0#32) [0xE998]
    (fun t => tBit t == true) = true := by decide
theorem test_step_cmphia_r0_r1 : after 0x100#32 (setR (setR (on 0xE00002#32) 0 0xFFFFFFFF#32) 1 0x0#32) [0xE988]
    (fun t => tBit t == false) = true := by decide
theorem test_step_cmpeqa_n0_r1 : after 0x100#32 (setR (setN (on 0xE00000#32) 0 0x1234#32) 1 0x1234#32) [0xE9A0]
    (fun t => tBit t == true) = true := by decide
theorem test_step_tsteqa_l_r3 : after 0x100#32 (setR (on 0xE00002#32) 3 0x10000#32) [0xEBF1]
    (fun t => tBit t == false) = true := by decide
theorem test_step_tfra_r0_r1 : after 0x100#32 (setM { (setR (on 0xE00000#32) 0 0xDEADBEE0#32) with mctl := 0x8#32 } 0 0x4#32) [0xE9E8]
    (fun t => rreg t 1 == 0xDEADBEE0#32) = true := by decide
theorem test_step_movet_r1_r2 : after 0x100#32 (setR (setR (on 0xE00002#32) 1 0x11#32) 2 0x22#32) [0x9A51]
    (fun t => rreg t 2 == 0x11#32) = true := by decide
theorem test_step_movef_r1_r2 : after 0x100#32 (setR (setR (on 0xE00000#32) 1 0x11#32) 2 0x22#32) [0x9A59]
    (fun t => rreg t 2 == 0x11#32) = true := by decide
theorem test_step_move_w_64_d3 : after 0x100#32 (setD (on 0xE00000#32) 3 0x1234567890#40 true) [0xC3C0]
    (fun t => ltag t 3 == false && dreg t 3 == 0xFFFFFFFFC0#40) = true := by decide
theorem test_step_move_w_8000_n0 : after 0x100#32 (on 0xE00000#32) [0x2882, 0x8000]
    (fun t => nreg t 0 == 0xFFFF8000#32) = true := by decide
theorem test_step_move_l_12345678_d5 : after 0x100#32 (on 0xE00000#32) [0x3540, 0x3678, 0x9234]
    (fun t => ltag t 5 == false && dreg t 5 == 0x12345678#40) = true := by decide
theorem test_step_move_l_12345fff_vba : after 0x100#32 (on 0xE00000#32) [0x3143, 0x3FFF, 0x9234]
    (fun t => t.vba == 0x12345000#32) = true := by decide
theorem test_step_move_w_r0_d1 : after 0x100#32 (setD (setR (put16 (on 0xE00000#32) 0x3000#32 0x8000#16) 0 0x3000#32) 1 0x1122334455#40 false) [0x5118]
    (fun t => ltag t 1 == false && dreg t 1 == 0xFFFFFF8000#40 && rreg t 0 == 0x3002#32) = true := by decide
theorem test_step_moveu_w_r0_d1 : after 0x100#32 (setD (setR (put16 (on 0xE00000#32) 0x3000#32 0x8000#16) 0 0x3000#32) 1 0x1122334455#40 false) [0x51D0]
    (fun t => ltag t 1 == false && dreg t 1 == 0x8000#40 && rreg t 0 == 0x3000#32) = true := by decide
theorem test_step_move_f_r0_d2 : after 0x100#32 (setR (put16 (on 0xE00000#32) 0x3002#32 0x8001#16) 0 0x3002#32) [0x5248]
    (fun t => ltag t 2 == false && dreg t 2 == 0xFF80010000#40 && rreg t 0 == 0x3000#32) = true := by decide
theorem test_step_move_l_d0_r0 : after 0x100#32 (setD (setR (on 0xE00000#32) 0 0x3000#32) 0 0x7F11223344#40 false) [0x4090]
    (fun t => byteAt t 0x3000#32 == 0x44#8 && byteAt t 0x3001#32 == 0x33#8 && byteAt t 0x3002#32 == 0x22#8 && byteAt t 0x3003#32 == 0x11#8) = true := by decide
theorem test_step_move_l_r0_d0 : after 0x100#32 (setD (setR (on 0xE00000#32) 0 0x80000001#32) 0 0#40 true) [0xC848]
    (fun t => ltag t 0 == false && dreg t 0 == 0xFF80000001#40) = true := by decide
theorem test_step_moves_f_d0_r0 : after 0x100#32 (setD (setR (on 0xE00000#32) 0 0x3000#32) 0 0x20000000#40 false) [0x4050]
    (fun t => mem16 t 0x3000#32 == 0x2000#16 && t.sr == 0xE00040#32 && srBit t 6 == true) = true := by decide
theorem test_step_move_2w_r0_d0_d1 : after 0x100#32 (setR (put16 (put16 (on 0xE00000#32) 0x3000#32 0x102#16) 0x3002#32 0x8304#16) 0 0x3000#32) [0x5858]
    (fun t => ltag t 0 == false && dreg t 0 == 0x102#40 && ltag t 1 == false && dreg t 1 == 0xFFFFFF8304#40 && rreg t 0 == 0x3004#32) = true := by decide
theorem test_step_move_2f_r0_d4_d5 : after 0x100#32 (setR (put16 (put16 (on 0xE00000#32) 0x3000#32 0x4000#16) 0x3002#32 0xC000#16) 0 0x3000#32) [0x5D50]
    (fun t => ltag t 4 == false && dreg t 4 == 0x40000000#40 && ltag t 5 == false && dreg t 5 == 0xFFC0000000#40) = true := by decide
theorem test_step_move_b_r0_d0 : after 0x100#32 (setR (putByte (on 0xE00000#32) 0x3001#32 0x80#8) 0 0x3001#32) [0x90E0]
    (fun t => ltag t 0 == false && dreg t 0 == 0xFFFFFFFF80#40 && rreg t 0 == 0x3002#32) = true := by decide
theorem test_step_push_d6 : after 0x100#32 (setD { { (put32 (on 0xE00000#32) 0x6004#32 0x55555555#32) with nsp := 0x6000#32 } with esp := 0x7000#32 } 6 0xAA12345678#40 false) [0x9620]
    (fun t => mem32 t 0x6000#32 == 0x12345678#32 && mem32 t 0x6004#32 == 0x55555555#32 && t.nsp == 0x6008#32 && t.esp == 0x7000#32) = true := by decide
theorem test_step_push_d7 : after 0x100#32 (setD { { (on 0xE40000#32) with nsp := 0x6000#32 } with esp := 0x7000#32 } 7 0x22#40 false) [0x9720]
    (fun t => mem32 t 0x7004#32 == 0x22#32 && t.nsp == 0x6000#32 && t.esp == 0x7008#32) = true := by decide
theorem test_step_push_d6_push_d7 : after 0x100#32 (setD (setD { (on 0xE00000#32) with nsp := 0x6000#32 } 6 0x21#40 false) 7 0x22#40 false) [0x94C0, 0x9620, 0x9720]
    (fun t => mem32 t 0x6000#32 == 0x21#32 && mem32 t 0x6004#32 == 0x22#32 && t.nsp == 0x6008#32) = true := by decide
theorem test_step_pop_d6_pop_d7 : after 0x100#32 (setD { (put32 (put32 (on 0xE00000#32) 0x6000#32 0x80000021#32) 0x6004#32 0x22#32) with nsp := 0x6008#32 } 6 0x0#40 true) [0x94C0, 0x9621, 0x9721]
    (fun t => ltag t 6 == false && dreg t 6 == 0xFF80000021#40 && ltag t 7 == false && dreg t 7 == 0x22#40 && t.nsp == 0x6000#32) = true := by decide
theorem test_step_pop_sr : after 0x100#32 { (put32 (on 0xE00000#32) 0x6004#32 0xE40002#32) with nsp := 0x6008#32 } [0x9531]
    (fun t => t.sr == 0xE40002#32 && t.nsp == 0x6000#32 && t.esp == 0x0#32) = true := by decide
theorem test_step_bmset_8000_d1_h : after 0x100#32 (setD (on 0xE00002#32) 1 0x1234#40 true) [0x0991, 0xA000]
    (fun t => ltag t 1 == false && dreg t 1 == 0x80001234#40 && tBit t == true) = true := by decide
theorem test_step_bmclr_00ff_d1_l : after 0x100#32 (setD (on 0xE00000#32) 1 0xFFFFFFFFFF#40 false) [0x0801, 0xA0FF]
    (fun t => ltag t 1 == false && dreg t 1 == 0xFFFFFFFF00#40) = true := by decide
theorem test_step_bmchg_ffff_r2_h : after 0x100#32 (setR (on 0xE00000#32) 2 0x12345678#32) [0x0AFA, 0xBFFF]
    (fun t => rreg t 2 == 0xEDCB5678#32) = true := by decide
theorem test_step_bmtstc_0003_d0_l : after 0x100#32 (setD (on 0xE00000#32) 0 0xFFF4#40 false) [0x0C00, 0xA003]
    (fun t => ltag t 0 == false && dreg t 0 == 0xFFF4#40 && tBit t == true) = true := by decide
theorem test_step_bmtsts_0007_d0_l : after 0x100#32 (setD (on 0xE00002#32) 0 0xFFF4#40 false) [0x0D00, 0xA007]
    (fun t => tBit t == false) = true := by decide
theorem test_step_bmtset_0001_d0_l : after 0x100#32 (setD (on 0xE00002#32) 0 0x0#40 false) [0x0E00, 0xA001]
    (fun t => ltag t 0 == false && dreg t 0 == 0x1#40 && tBit t == false) = true := by decide
theorem test_step_bmchg_w_ffff_r0 : after 0x100#32 (setR (put16 (on 0xE00000#32) 0x3000#32 0x1234#16) 0 0x3000#32) [0x12E8, 0xBFFF]
    (fun t => mem16 t 0x3000#32 == 0xEDCB#16) = true := by decide
theorem test_step_bmtset_w_8000_r0 : after 0x100#32 (setR (put16 (on 0xE00002#32) 0x3000#32 0x1#16) 0 0x3000#32) [0x1688, 0xA000]
    (fun t => mem16 t 0x3000#32 == 0x8001#16 && tBit t == false) = true := by decide
theorem test_step_bmset_w_0100_3000 : after 0x100#32 (put16 (on 0xE00000#32) 0x3000#32 0x1#16) [0x3921, 0x3000, 0x8100]
    (fun t => byteAt t 0x3000#32 == 0x1#8 && byteAt t 0x3001#32 == 0x1#8) = true := by decide
theorem test_step_bmclr_w_0001_sp_4 : after 0x100#32 { (put16 (on 0xE00000#32) 0x6004#32 0xFFFF#16) with nsp := 0x6008#32 } [0x0002, 0xA001]
    (fun t => mem16 t 0x6004#32 == 0xFFFE#16) = true := by decide
theorem test_step_bra_10 : after 0x100#32 (on 0xE00000#32) [0x8811]
    (fun t => t.pc == 0x110#32) = true := by decide
theorem test_step_bt_10 : after 0x100#32 (on 0xE00000#32) [0x8011]
    (fun t => t.pc == 0x102#32) = true := by decide
theorem test_step_bf_10 : after 0x100#32 (on 0xE00000#32) [0x8411]
    (fun t => t.pc == 0x110#32) = true := by decide
theorem test_step_jmp_r3 : after 0x100#32 (setR (on 0xE00000#32) 3 0x12345#32) [0x9B61]
    (fun t => t.pc == 0x12344#32) = true := by decide
theorem test_step_jsr_12345678 : after 0x100#32 { { (on 0xE40000#32) with esp := 0x7000#32 } with nsp := 0x6000#32 } [0x3344, 0x3678, 0x9234]
    (fun t => mem32 t 0x7000#32 == 0x106#32 && mem32 t 0x7004#32 == 0xE40000#32 && t.pc == 0x12345678#32 && t.esp == 0x7008#32 && t.nsp == 0x6000#32) = true := by decide
theorem test_step_bsr_400 : after 0x100#32 { (on 0xE00000#32) with nsp := 0x6000#32 } [0x2318, 0x8400]
    (fun t => mem32 t 0x6000#32 == 0x104#32 && t.pc == 0x500#32 && t.nsp == 0x6008#32) = true := by decide
theorem test_step_rts : after 0x100#32 { (put32 (put32 (on 0xE00000#32) 0x6000#32 0x4008#32) 0x6004#32 0x12345678#32) with nsp := 0x6008#32 } [0x9F71]
    (fun t => t.pc == 0x4008#32 && t.nsp == 0x6000#32 && t.sr == 0xE00000#32) = true := by decide
theorem test_step_rte : after 0x100#32 { { (put32 (put32 (on 0xE40000#32) 0x7000#32 0x4006#32) 0x7004#32 0xE00002#32) with esp := 0x7008#32 } with nsp := 0x6000#32 } [0x9F73]
    (fun t => t.pc == 0x4006#32 && t.sr == 0xE00002#32 && t.esp == 0x7000#32 && t.nsp == 0x6000#32) = true := by decide
theorem test_step_trap : after 0x100#32 { { { (on 0x18E00036#32) with esp := 0x7000#32 } with nsp := 0x6000#32 } with vba := 0x10000#32 } [0x9E7E]
    (fun t => mem32 t 0x7000#32 == 0x102#32 && mem32 t 0x7004#32 == 0x18E00036#32 && t.pc == 0x10000#32 && t.sr == 0xE40004#32 && t.esp == 0x7008#32) = true := by decide
theorem test_step_jt_r1 : after 0x100#32 (setR (on 0xE00000#32) 1 0x2000#32) [0x9965]
    (fun t => t.pc == 0x102#32) = true := by decide
theorem test_step_jf_r1 : after 0x100#32 (setR (on 0xE00000#32) 1 0x2000#32) [0x9967]
    (fun t => t.pc == 0x2000#32) = true := by decide
theorem test_step_rtstk : after 0x100#32 { (put32 (on 0xE00000#32) 0x6000#32 0x4008#32) with nsp := 0x6008#32 } [0x9F75]
    (fun t => t.pc == 0x4008#32 && t.nsp == 0x6000#32) = true := by decide
theorem test_step_doen0_10 : after 0x100#32 (on 0xE00000#32) [0x9050]
    (fun t => lcReg t 0 == 0x10#32 && t.sr == 0x8E00000#32) = true := by decide
theorem test_step_doensh2_3 : after 0x100#32 (on 0xE00000#32) [0x9643]
    (fun t => lcReg t 2 == 0x3#32 && t.sr == 0xA0E00000#32) = true := by decide
theorem test_step_dosetup0_c : after 0x380000#32 (on 0xE00000#32) [0x2803, 0x800C]
    (fun t => saReg t 0 == 0x38000C#32 && t.pc == 0x380004#32) = true := by decide
theorem test_step_skipls_1a : after 0x100#32 (setLc (on 0x8E00000#32) 0 0x0#32) [0x2103, 0x801A]
    (fun t => t.pc == 0x11A#32 && t.sr == 0xE00000#32 && lcReg t 0 == 0x0#32) = true := by decide
theorem test_step_break_20 : after 0x1000#32 (setLc (on 0x8E00000#32) 0 0x5#32) [0x2003, 0x8020]
    (fun t => t.pc == 0x1020#32 && t.sr == 0xE00000#32 && lcReg t 0 == 0x5#32) = true := by decide
theorem test_step_cont_20 : after 0x1000#32 (setSa (setLc (on 0x8E00000#32) 0 0x5#32) 0 0xF00#32) [0x2303, 0x8020]
    (fun t => t.pc == 0xF00#32 && lcReg t 0 == 0x4#32) = true := by decide
theorem test_step_lpmarka_inc_d0_one_set_short_loop : after 0x100#32 (setD (setLc (on 0x88E00000#32) 0 0x3#32) 0 0x0#40 false) [0x92C8, 0x7841]
    (fun t => ltag t 0 == false && dreg t 0 == 0x1#40 && t.pc == 0x100#32 && lcReg t 0 == 0x2#32 && t.sr == 0x88E00000#32) = true := by decide
theorem test_step_prefix_ccc_1_ift_iff_move_w_1_d0_move_w_ : after 0x100#32 (setD (setD (on 0xE00000#32) 0 0x77#40 false) 1 0x88#40 false) [0x94C1, 0xC081, 0xC182]
    (fun t => ltag t 0 == false && dreg t 0 == 0x1#40 && ltag t 1 == false && dreg t 1 == 0x88#40) = true := by decide
theorem test_step_prefix_ccc_2_ift_move_w_1_d0_move_w_2_d1 : after 0x100#32 (setD (setD (on 0xE00000#32) 0 0x77#40 false) 1 0x88#40 false) [0x94C2, 0xC081, 0xC182]
    (fun t => ltag t 0 == false && dreg t 0 == 0x77#40 && ltag t 1 == false && dreg t 1 == 0x88#40) = true := by decide
theorem test_step_prefix_ccc_3_iff_move_w_1_d0_move_w_2_d1 : after 0x100#32 (setD (setD (on 0xE00000#32) 0 0x77#40 false) 1 0x88#40 false) [0x94C3, 0xC081, 0xC182]
    (fun t => ltag t 0 == false && dreg t 0 == 0x1#40 && ltag t 1 == false && dreg t 1 == 0x2#40) = true := by decide
theorem test_step_prefix_ccc_6_ift_ifa_move_w_1_d0_move_w_ : after 0x100#32 (setD (setD (on 0xE00000#32) 0 0x77#40 false) 1 0x88#40 false) [0x94C6, 0xC081, 0xC182]
    (fun t => ltag t 0 == false && dreg t 0 == 0x1#40 && ltag t 1 == false && dreg t 1 == 0x88#40) = true := by decide
theorem test_step_prefix_ccc_7_iff_ifa_move_w_1_d0_move_w_ : after 0x100#32 (setD (setD (on 0xE00000#32) 0 0x77#40 false) 1 0x88#40 false) [0x94C7, 0xC081, 0xC182]
    (fun t => ltag t 0 == false && dreg t 0 == 0x1#40 && ltag t 1 == false && dreg t 1 == 0x2#40) = true := by decide
theorem test_step_prefix_ccc_2_cmpeq_d0_d0_tfr_d2_d3 : after 0x100#32 (setD (setD (on 0xE00000#32) 2 0x9#40 false) 3 0x0#40 false) [0x94C2, 0x7060, 0x75D2]
    (fun t => ltag t 3 == false && dreg t 3 == 0x0#40 && tBit t == false) = true := by decide
theorem test_step_tfr_d0_d1_tfr_d1_d0 : after 0x100#32 (setD (setD (on 0xE00000#32) 0 0x11#40 false) 1 0x22#40 false) [0x34D0, 0x7451]
    (fun t => ltag t 0 == false && dreg t 0 == 0x22#40 && ltag t 1 == false && dreg t 1 == 0x11#40) = true := by decide
theorem test_step_add_d0_d1_d2_sub_d0_d1_d3 : after 0x100#32 (setD (setD (on 0xE00000#32) 0 0xFFFFFFFF#40 false) 1 0xFF00000001#40 false) [0x2D51, 0x6D91]
    (fun t => ltag t 2 == false && dreg t 2 == 0x0#40 && ltag t 3 == true && dreg t 3 == 0xFE00000002#40 && carry t == false) = true := by decide
theorem test_step_sub_d0_d1_d3_add_d0_d1_d2 : after 0x100#32 (setD (setD (on 0xE00000#32) 0 0xFFFFFFFF#40 false) 1 0xFF00000001#40 false) [0x2D91, 0x6D51]
    (fun t => ltag t 2 == false && dreg t 2 == 0x0#40 && ltag t 3 == true && dreg t 3 == 0xFE00000002#40 && carry t == true) = true := by decide
theorem test_step_mac_d0_d1_d2_move_w_r0_d0 : after 0x100#32 (setR (setD (setD (setD (put16 (on 0xE00000#32) 0x3000#32 0x7#16) 0 0x40000000#40 false) 1 0x20000000#40 false) 2 0x0#40 false) 0 0x3000#32) [0x2111, 0x5018]
    (fun t => ltag t 2 == false && dreg t 2 == 0x10000000#40 && ltag t 0 == false && dreg t 0 == 0x7#40 && rreg t 0 == 0x3002#32) = true := by decide
theorem test_step_move_w_d0_r0_inc_d0 : after 0x100#32 (setR (setD (on 0xE00000#32) 0 0x5#40 false) 0 0x3000#32) [0x0010, 0x7841]
    (fun t => ltag t 0 == false && dreg t 0 == 0x6#40 && mem16 t 0x3000#32 == 0x5#16) = true := by decide

/-- Example of R126: base $20, modulus $C, R0 = $24: (R0+$E) is $26. -/
theorem test_step_modulo : after 0x100#32 (put16 (setR (setR (setM { on 0xE00000#32 with mctl := 8#32 } 0 0xC#32) 8 0x20#32)
    0 0x24#32) 0x26#32 0x1234#16) [0x1700, 0x800E] (fun t => dreg t 7 == 0x1234#40 && rreg t 0 == 0x24#32) = true := by decide
/-- Example of R127: modulus 16, R0 = $24: (R0+$42) is $26. -/
theorem test_step_wrap : after 0x100#32 (put16 (setR (setM { on 0xE00000#32 with mctl := 0xC#32 } 0 0xF#32)
    0 0x24#32) 0x26#32 0x1234#16) [0x1700, 0x8042] (fun t => dreg t 7 == 0x1234#40 && rreg t 0 == 0x24#32) = true := by decide
/-- Examples of R472 and R473. -/
theorem test_step_di : after 0x100#32 (on 0#32) [0x9F7D] (fun t => t.sr == 0x80000#32) = true := by decide
theorem test_step_ei : after 0x100#32 (on 0xEC0000#32) [0x9F7C] (fun t => t.sr == 0xE40000#32) = true := by decide
/-- Table 2-7 (spec/95): scale down, D0 = $00 0200 0000, MOVES.F stores $0100; scale up, $0400. -/
theorem test_step_moves_scale_down : after 0x100#32 (setR (setD (on 0xE00010#32) 0 0x02000000#40 false) 0 0x30#32) [0x4050]
    (fun t => mem16 t 0x30#32 == 0x0100#16) = true := by decide
theorem test_step_moves_scale_up : after 0x100#32 (setR (setD (on 0xE00020#32) 0 0x02000000#40 false) 0 0x30#32) [0x4050]
    (fun t => mem16 t 0x30#32 == 0x0400#16) = true := by decide
/-- Table 2-28 (spec/95): a pushed D0 = $ABCDEF12 lies with its low byte first in little-endian mode, last in big-endian mode. -/
theorem test_step_push_little : after 0x100#32 (setD (on 0xE40000#32) 0 0xABCDEF12#40 false) [0x9020]
    (fun t => byteAt t 0#32 == 0x12#8 && byteAt t 3#32 == 0xAB#8 && t.esp == 8#32) = true := by decide
theorem test_step_push_big : after 0x100#32 { setD (on 0xE40000#32) 0 0xABCDEF12#40 false with emr := 0x10000#32 } [0x9020]
    (fun t => byteAt t 0#32 == 0xAB#8 && byteAt t 3#32 == 0x12#8) = true := by decide
/-- PUSHN works on NSP whatever EXP says (R394). -/
theorem test_step_pushn : after 0x100#32 { on 0xE40000#32 with nsp := 0x40#32 } [0x9024]
    (fun t => t.nsp == 0x48#32 && t.esp == 0#32) = true := by decide
/-- BRAD goes to its target after one more set (R427). -/
theorem test_step_brad_opens_a_delay_slot : after 0x100#32 (on 0xE00000#32) [0x8810]
    (fun t => t.pc == 0x102#32 && t.delay == .jump 0x110#32) = true := by decide
/-- A word that no instruction has is an illegal instruction: ILIN is set and the exception is pending (R505). -/
theorem test_step_illegal_word : after 0x100#32 (on 0xE00000#32) [0x9E7F]
    (fun t => t.emr == 1#32 && t.reqIllegal && t.pc == 0x102#32) = true := by decide
/-- The illegal-instruction exception goes to VBA plus $080 with mask 7 in exception mode (R540). -/
theorem test_step_enters_illegal : after 0x100#32 { on 0x00200003#32 with vba := 0x4000#32, reqIllegal := true } [0x90C0]
    (fun t => t.pc == 0x4080#32 && t.sr == 0x00E40000#32 && mem32 t 0#32 == 0x100#32 && mem32 t 4#32 == 0x00200003#32
      && t.esp == 8#32) = true := by decide

/-- A state with T, C and the scaling bits clear, and one with T set. -/
def base : State := on 0x00E00000#32
def baseT : State := on 0x00E00002#32

/-! ### Sets that the hardware rejects, and events of a set -/

/-- R157 (c): the pair 0011/101 in a prefixed set is an ISAP opcode whatever its bit 8 is; nothing of the set executes. -/
theorem test_step_isap_opcode : after 0x100#32 (on 0xE00000#32) [0x94C0, 0x3942, 0xA000]
    (fun t => t.emr == 1#32 && t.reqIllegal && t.pc == 0x106#32 && dreg t 2 == 0#40) = true := by decide
/-- R511: an illegal word (position 2) and two AGU instructions at positions 1 and 3 set ILIN and ILST. -/
theorem test_step_illegal_word_and_set : after 0x100#32 (on 0xE00000#32) [0x96C0, 0xE8FC, 0x9E7F, 0xE9FC]
    (fun t => t.emr == 3#32 && t.pc == 0x108#32) = true := by decide
/-- R179: a Type 1 word before a NOP word in a serial set is a type mix. -/
theorem test_step_type_mix : after 0x100#32 (on 0xE00000#32) [0x2D51, 0x90C0]
    (fun t => t.emr == 2#32 && t.pc == 0x104#32) = true := by decide
/-- R178 step 2, D43: a two-word prefix with aaa = 1 is a set of two words. -/
theorem test_step_reserved_prefix : after 0x100#32 (on 0xE00000#32) [0x3200, 0xA000]
    (fun t => t.emr == 1#32 && t.pc == 0x104#32) = true := by decide
/-- R620 (3): JSRD with POP, and (with EXP clear) PUSHN with TFRA R1,OSP, write one stack pointer twice. -/
theorem test_step_stack_clash : after 0x100#32 (on 0xE00000#32) [0x94C0, 0x9862, 0x9221] (fun t => t.emr == 2#32) = true := by decide
theorem test_step_stack_clash_of_other_mode : after 0x100#32 (on 0xE00000#32) [0x94C0, 0x9024, 0x9A79]
    (fun t => t.emr == 2#32) = true := by decide
/-- R179: two changes of flow are not detected; with T set BT is taken and BF is not. -/
theorem test_step_two_flows : after 0x100#32 (on 0xE00002#32) [0x94C0, 0x8011, 0x8409]
    (fun t => t.emr == 0#32 && t.pc == 0x110#32) = true := by decide
/-- R47, D33: an overflow in the set that clears DOVF leaves it set. -/
theorem test_step_overflow_wins : after 0x100#32 { setD (on 0xE00000#32) 0 0x7FFFFFFFFF#40 false with emr := 4#32 }
    [0x96C0, 0x6D50, 0x1100, 0xA004] (fun t => t.emr == 4#32) = true := by decide
/-- R218, R645: SUB D1,D1,D2 is CLR D2 in the reserved scaling mode too. -/
theorem test_step_clear_of_odd_pair : after 0x100#32 (setD (on 0xE00031#32) 2 5#40 true) [0x6164]
    (fun t => dreg t 2 == 0#40 && !ltag t 2 && !carry t) = true := by decide
/-- R101: PUSH of an even and an odd register is one access of two longs. -/
theorem test_push_pair_is_one_access :
    (match runSlots base [⟨1, .pushEven (.d 0), 1, 0x9020⟩, ⟨2, .pushOdd (.d 0), 1, 0x9120⟩] with
      | .next t => t.acc.map (fun a => (a.addr, a.width)) == [(0#32, 8)]
      | _ => false) = true := by decide
/-- R544: PUSH makes the shadow of its stack pointer valid, TFRA to SP makes it invalid. -/
theorem test_shadow_of_sp :
    (match execPushEven (.d 0) base with | .next t => t.nspShadow && !t.espShadow | _ => false) = true
      ∧ (match execTfra (.r 0) .sp { base with nspShadow := true } with | .next t => !t.nspShadow | _ => false) = true := by decide
/-- R690: AGU arithmetic on SP makes its shadow invalid too. -/
theorem test_arithmetic_drops_shadow :
    (match execAddaImm 8#5 .sp { base with nspShadow := true } with | .next t => !t.nspShadow | _ => false) = true := by decide
/-- R659: no exception comes between an LPMARKB that ends a loop and LA; in a short loop it ignores no mark. -/
theorem test_no_exception_before_la :
    (match exec (.lpmarkb 1#3) (on 0x18E00000#32) with | .next t => !interruptible t | _ => false) = true
      ∧ (match exec (.lpmarkb 1#3) (on 0x98E00000#32) with
        | .next t => !interruptible t && t.ignoreA == 0 && t.ignoreB == 0
        | _ => false) = true := by decide
/-- R691: RTSTK reads its frame after MOVE.L D0,(R0) of its set has written it. -/
theorem test_return_reads_late :
    (match runSlots { setR (setD base 0 0x1234#40 false) 0 8#32 with nsp := 16#32, nspShadow := true }
        [⟨1, .movel .write (.ea .plain 0) (.d 0), 1, 0x3000⟩, ⟨2, .rtstk, 1, 0x9F75⟩] with
      | .next t => t.npc == 0x1234#32 && t.nsp == 8#32
      | _ => false) = true := by decide
/-- R446: TRAP returns to the address after its set, and a change of flow beside it leaves PC unspecified (it is taken as such). -/
theorem test_trap_beside_a_jump :
    (match runSlots { base with npc := 0x20#32 } [⟨1, .jmp (.abs 0x40#32), 3, 0⟩, ⟨4, .trap, 1, 0x9E7E⟩] with
      | .next t => mem32 t 0#32 == 0x20#32 && t.flowed
      | _ => false) = true := by decide
/-- R709, R711: DEBUG and a write of ETRSMT_H in one set set both DRSW and TRSMT. -/
theorem test_debug_beside_a_write :
    (match runSlots { base with params := { Params.default with eonceBase := 0x200#32 } }
        [⟨1, .movel .write (.abs32 0x214#32) (.d 0), 3, 0⟩, ⟨4, .debug, 1, 0⟩] with
      | .next t => t.eonce.esr == 0x04008000#32 && t.proc == .debug
      | _ => false) = true := by decide
/-- R720: of DEBUG and a trace entry of MARK that fills the buffer no request is left in debug state. -/
theorem test_debug_beside_a_full_buffer :
    (match runSlots { base with
        params := { Params.default with tbSize := 16 }
        eonce := { Eonce.reset with enabled := true, tbCtrl := 0x18#16, emcr := 0x00800000#32 } }
        [⟨1, .debug, 1, 0⟩, ⟨2, .mark, 1, 0⟩] with
      | .next t => t.eonce.esr == 0x02018000#32 && t.proc == .debug && !t.eonce.dbgReq
      | _ => false) = true := by decide
/-- R702, R101: MOVE.2W writes a 32-bit register of the EOnCE like a long, the first word in the low half in little-endian mode. -/
theorem test_two_words_are_a_long :
    (match exec (.move2w .write .plain 0 0) { setR (setD (setD base 0 0x1122#40 false) 1 0x3344#40 false) 0 0x2E4#32 with
        params := { Params.default with eonceBase := 0x200#32 } } with
      | .next t => t.eonce.edcdRef == 0x33441122#32
      | _ => false) = true := by decide
/-- R721: EDCA0 and EDCD under AND act on an address and data pair of one access, not on a read and a write of one set; under OR on either. -/
theorem test_and_pairs_one_access :
    selects ⟨[0x101#18, 0#18], 0#18⟩ 0x101#18 [.edca 0, .edcd] true = true
      ∧ selects ⟨[0x001#18, 0x100#18], 0#18⟩ 0x101#18 [.edca 0, .edcd] true = false
      ∧ selects ⟨[0x001#18, 0x100#18], 0#18⟩ 0x101#18 [.edca 0, .edcd] false = true := by decide
/-- R726, R728: the codes that only a pin brings about are not written. -/
theorem test_pin_codes_are_not_written :
    edcaWritten 0x3C05#16 0x300A#16 = 0x3C0A#16 ∧ edcaWritten 0#16 0x2C0A#16 = 0x2C0A#16
      ∧ edcdWritten 0x0050#16 0x015A#16 = 0x0152#16 ∧ edcdWritten 0#16 0x017A#16 = 0x017A#16 := by decide
/-- R602, D53: of two stores to EDCD_REF only the rest of the state is definite: EDCD_MASK keeps its value, memory too. -/
theorem test_two_stores_to_one_register :
    (match runSlots { base with params := { Params.default with eonceBase := 0x200#32 } }
        [⟨1, .movel .write (.abs32 0x2E4#32) (.d 0), 3, 0⟩, ⟨4, .movel .write (.abs32 0x2E4#32) (.d 1), 3, 0⟩] with
      | .next t => t.eonce.edcdMask == 0xFFFFFFFF#32 && t.mem == [] && t.eonce.enabled
      | _ => false) = true := by decide
/-- R178, R179: in a set of eight words too, an instruction that runs past the end is a grouping error and no illegal word. -/
theorem test_overrun_of_a_full_set :
    (fun x : ExecSet => x.len == 8 && x.ilst && !x.ilin)
      (decodeSet base ([0x9EC0] ++ List.replicate 6 0x90C0 ++ [0x0AC0, 0x8000, 0x8000])) = true := by decide
/-- R113, U17: a word that is read at a pre-calculated address races with TRAP's frame where they overlap. -/
theorem test_trap_beside_an_early_read :
    racing [⟨.nop, effects base .nop, { base with acc := [⟨6#32, 4, false, 4, [0#32], true, false⟩] }⟩]
      ((List.range 8).map fun i => BitVec.ofNat 32 i) 0 = [6#32, 7#32] := by decide
/-- R720: EE0 as debug request enters debug state once, though its event is also selected for it; both reasons are shown. -/
theorem test_ee0_asks_once :
    (match step (setEePins { base with
        params := { Params.default with eselMap := [some (.ee 0)] }
        eonce := { Eonce.reset with enabled := true, eselDm := 1#16 } } 1#7) with
      | .next t => t.proc == .debug && t.eonce.evs == 0#18 && !t.eonce.dbgReq && t.eonce.esr == 0x400#32
      | _ => false) = true := by decide
/-- R731: EE2 enables a counter with the reserved ECNTWHAT 1111 and is not counted. -/
theorem test_ee2_is_not_counted :
    (countEvents { Eonce.reset with ecntCtrl := 0xAF#16, ecntVal := 5#32 } false
        { Eonce.reset with ecntCtrl := 0xAF#16, ecntVal := 5#32, evs := 0x2000#18 }).ecntVal = 5#32 := by decide
/-- R740: the address of the last set is known while the EOnCE is disabled. -/
theorem test_last_set : after 0x100#32 base [0x9E7E] (fun t => t.lastPc == 0x100#32 && t.eonce.pcLast == 0#32) = true := by decide
/-- R620 (5), D53: beside a write of EMR the return's clear of NMID leaves it unspecified, the other sticky bits as the write does. -/
theorem test_emr_beside_a_return :
    emrWritten .rtstk = 8#32 ∧ mergeEmr 7#32 0#32
      [⟨.rtstk, effects base .rtstk, { base with emr := 7#32 }⟩,
        ⟨.movelC2 .write .emr 0, effects base .nop, { base with emr := 5#32 }⟩] = 5#32 := by decide
/-- R740: setting TEN clears the pointers: TB_CTRL is as written where a store to TB_WR stands beside it. -/
theorem test_ten_beside_a_pointer :
    (match runSlots { setR (setR base 0 0x10#32) 1 0x12345#32 with params := { Params.default with eonceBase := 0x200#32 } }
        [⟨1, .movel .write (.abs32 0x340#32) (.r 0), 3, 0⟩, ⟨4, .movel .write (.abs32 0x348#32) (.r 1), 3, 0⟩] with
      | .next t => t.eonce.tbCtrl == 0x10#16 && t.eonce.tbRd == 0#16
      | _ => false) = true := by decide
/-- R705: while the EOnCE is disabled an event of an external channel is not seen. -/
theorem test_disabled_eonce : (raise base 0x40#18).eonce = base.eonce := by decide
/-- R742: TB_RD reads three entries ahead in the circle of the buffer. -/
theorem test_tb_rd_wraps :
    tbAhead { base with eonce := { Eonce.reset with tbRd := 6#16 }, params := { Params.default with tbSize := 8 } } = 1#16
      ∧ tbAhead { base with
        eonce := { Eonce.reset with tbRd := 65533#16 }, params := { Params.default with tbSize := 65535 } } = 1#16 := by decide

/-! ### Every hypothesis of an obligation is met

One theorem for each obligation that has hypotheses: a state and operands that meet them together, for each clause at a boundary
value of its range. -/

/-- Words at the address of the first set. -/
def code (s : State) (ws : List Nat) : State := storeCode s s.pc ws
/-- Does an instruction complete? -/
def completes (i : Instr) (s : State) : Bool :=
  match exec i s with
  | .next _ => true
  | _ => false
/-- Does a step complete? -/
def steps (s : State) : Bool :=
  match step s with
  | .next _ => true
  | _ => false

theorem base_stacks : StacksAligned base := by unfold StacksAligned; decide
theorem base_legal : SrLegal base := by unfold SrLegal; decide
theorem base_outside : OutsideEonce base 0xFFFFFDF8#32 8 ∧ OutsideEonce base 0#32 8 := by unfold OutsideEonce; decide
theorem base_quiet : Quiet base := ⟨rfl, rfl, rfl, by decide⟩
theorem base_memory : base.mem.wf = true := by decide

theorem witness_StepRunsTheDecodedInstruction :
    Quiet (code base [0x6D51]) ∧ isPrefix1 ((fetchWords (code base [0x6D51])).headD 0) = false
      ∧ isPrefix2 ((fetchWords (code base [0x6D51])).headD 0) (((fetchWords (code base [0x6D51])).drop 1).headD 0) = false
      ∧ serialLen (fetchWords (code base [0x6D51])) 0 = some 1
      ∧ decodeAt Bank.zero ((fetchWords (code base [0x6D51])).take 1) = some (.addReg 0 1 2, 1) :=
  ⟨⟨rfl, rfl, rfl, by decide⟩, by decide, by decide, by decide, by decide⟩

theorem witness_StepRunsThePrefixedInstruction :
    (Quiet (code base [0x92C2, 0x6D51]) ∧ (fetchWords (code base [0x92C2, 0x6D51])).take 2 = [0x92C2, 0x6D51]
      ∧ isPrefix1 0x92C2 = true ∧ 0x92C2 / 2 ^ 9 % 8 = 1 ∧ prefix1Instr 0x92C2 = some (.ift 1#3)
      ∧ isPrefix1 0x6D51 = false ∧ isapWord ((fetchWords (code base [0x92C2, 0x6D51])).drop 1 |>.take 1) = false
      ∧ decodeAt Bank.zero ((fetchWords (code base [0x92C2, 0x6D51])).drop 1 |>.take 1) = some (.addReg 0 1 2, 1))
    ∧ (Quiet (code base [0x90C0]) ∧ (fetchWords (code base [0x90C0])).headD 0 = 0x90C0 ∧ isPrefix1 0x90C0 = true
      ∧ 0x90C0 / 2 ^ 9 % 8 = 0 ∧ prefix1Instr 0x90C0 = some .nop)
    ∧ Quiet (code base [0x3402, 0xA004, 0xD901])
      ∧ (fetchWords (code base [0x3402, 0xA004, 0xD901])).take 3 = [0x3402, 0xA004, 0xD901] ∧ isPrefix2 0x3402 0xA004 = true
      ∧ 0x3402 / 2 ^ 9 % 8 = 1 + 1 ∧ prefix2Instr 0x3402 0xA004 = some (.prefix2 2#3 4#16 false false 2#3)
      ∧ base.params.prefix2First = 2 ∧ isPrefix1 0xD901 = false ∧ isapWord [0xD901] = false
      ∧ decodeAt (bankAt (highBits 0x3402 0xA004) 2) [0xD901] = some (.notReg 1 10, 1) :=
  ⟨⟨⟨rfl, rfl, rfl, by decide⟩, by decide, by decide, by decide, by decide, by decide, by decide, by decide⟩,
    ⟨⟨rfl, rfl, rfl, by decide⟩, by decide, by decide, by decide, by decide⟩,
    ⟨rfl, rfl, rfl, by decide⟩, by decide, by decide, by decide, by decide, by decide, by decide, by decide, by decide⟩

theorem witness_DecodingUndoesEncoding :
    Instr.WF (.macr true 14 15 8) = true ∧ Instr.WF (.movew .write (.disp 15 0x4000#15) (.r 8)) = true := by decide

theorem witness_ResetEventRestoresTheStatedValues :
    ({ base with events := [.reset true] } : State).events = .reset true :: []
    ∧ (({ base with proc := .reset } : State).events = [] ∧ ({ base with proc := .reset } : State).proc = .reset)
    ∧ base.eonce.dbgReq = false ∧ base.eonce.eeIn.getLsbD 0 = false := by decide

theorem witness_StepKeepsTheInvariant : Invariant (code base [0x6D51]) ∧ steps (code base [0x6D51]) = true :=
  ⟨⟨by decide, by decide, by decide, by decide, by decide, by decide, by decide, by decide, by decide⟩, by decide⟩

theorem witness_ExecWritesOnlyItsEffects : SrLegal base ∧ (Instr.mac false 0 1 2 ≠ .trap)
    ∧ prefixWords (.mac false 0 1 2) = none ∧ completes (.mac false 0 1 2) base = true :=
  ⟨base_legal, by decide, by decide, by decide⟩

theorem witness_EmrBitsChangeAtTheirEventsOnly :
    (match step { base with inputs := { Inputs.none with nmiReq := true } } with
      | .next t => t.emr.getLsbD 3
      | _ => false) = true
    ∧ base.emr.getLsbD 3 = false ∧ base.events.head? ≠ some (.reset true) := by decide

theorem witness_LimitTagOfAValue :
    scaling base = 0 ∧ scaling (on 0x00E00010#32) = 1 ∧ scaling (on 0x00E00020#32) = 2
      ∧ lnCalc base 0x007FFFFFFF#40 = false ∧ lnCalc base 0x0080000000#40 = true
      ∧ lnCalc (on 0x00E00010#32) 0x00FFFFFFFF#40 = false ∧ lnCalc (on 0x00E00010#32) 0x0100000000#40 = true
      ∧ lnCalc (on 0x00E00020#32) 0x003FFFFFFF#40 = false ∧ lnCalc (on 0x00E00020#32) 0x0040000000#40 = true := by decide

/-- The two modes of the arithmetic statements (`Saturable`, `SaturableRounded`, `Wrapping`, `Special`). -/
theorem witness_SaturableArithmetic : (satMode base = false ∧ scaling base ≠ 3) ∧ satMode (on 0x00E00004#32) = true := by decide

theorem witness_SpecialArithmetic : (satMode base = false ∧ scaling base ≠ 3) ∧ satMode (on 0x00E00004#32) = true
    ∧ ((sD base 0 < 0) = (sD base 1 < 0)) ∧ ¬ ((sD (setD base 0 0x8000000000#40 false) 0 < 0) = (sD base 1 < 0)) := by decide

theorem witness_RoundedResults : (1 : Nat) ≤ 1 ∧ 2 * ((0x8000 : Int) % 2 ^ 16) = 2 ^ 16
    ∧ (satMode base = false ∧ scaling base ≠ 3) ∧ satMode (on 0x00E00034#32) = true
    ∧ scalingDefined base ∧ scalingDefined (on 0x00E00034#32) :=
  ⟨by decide, by decide, by decide, by decide, Or.inr (by decide), Or.inl (by decide)⟩

theorem witness_TransfersAndSelections : scalingDefined base ∧ tBit baseT = true ∧ tBit base = false :=
  ⟨Or.inr (by decide), by decide, by decide⟩

theorem witness_DaluAndAndSingleShifts : dreg base 0 = 0#40
    ∧ dreg (setD base 0 1#40 false) 0 ≠ 0#40 ∧ dreg (setD base 0 0xFFFFFFFFFF#40 false) 0 ≠ 0#40 := by decide

/-- The register amounts -40, 40 and, outside the range, -41, 41 and -64. -/
theorem witness_MultipleBitShifts :
    (-40 ≤ ((dreg (setD base 0 88#40 false) 0).extractLsb' 0 7).toInt
      ∧ ((dreg (setD base 0 88#40 false) 0).extractLsb' 0 7).toInt = -40)
    ∧ ((dreg (setD base 0 40#40 false) 0).extractLsb' 0 7).toInt = 40
    ∧ ((dreg (setD base 0 87#40 false) 0).extractLsb' 0 7).toInt < -40
    ∧ 40 < ((dreg (setD base 0 41#40 false) 0).extractLsb' 0 7).toInt
    ∧ ((dreg (setD base 0 64#40 false) 0).extractLsb' 0 7).toInt < -40 := by decide

/-- Immediate and register fields of width 0, of width 1 at offset 39, and of width 40 at offset 0. -/
theorem witness_BitFields :
    (∃ u v : BitVec 6, u.toNat = 0 ∧ v.toNat = 40 ∧ (Instr.extractImm 0#6 40#6 1 2) = .extractImm u v 1 2)
    ∧ (∃ u v : BitVec 6, u.toNat = 1 ∧ v.toNat = 39 ∧ (Instr.insertImm 1#6 39#6 1 2) = .insertImm u v 1 2)
    ∧ (40 = ((dreg (setD base 0 0x2800#40 false) 0).extractLsb' 8 6).toNat
      ∧ 0 = ((dreg (setD base 0 0x2800#40 false) 0).extractLsb' 0 6).toNat)
    ∧ (0 ≤ 40 ∧ 40 ≤ 40 ∧ 0 + 40 ≤ 40) ∧ (1 + 39 ≤ 40 ∧ 40 + 0 ≤ 40) :=
  ⟨⟨0#6, 40#6, rfl, rfl, rfl⟩, ⟨1#6, 39#6, rfl, rfl, rfl⟩, by decide, by decide, by decide⟩

theorem witness_AguSums : srcLinear base (.r 0) ∧ srcLinear base (.r 8) ∧ rxLinear base (.r 7) ∧ rxLinear base .sp :=
  ⟨Or.inr (by decide), Or.inl (by decide), Or.inr (by decide), trivial⟩

/-- R0 modulo 12 from $20 (the buffer of R126's example), R0 wrapping modulo 16 (R127's example), R0 in reverse carry. -/
def moduloState : State := setR (setM { base with mctl := 0x00000008#32 } 0 12#32) 8 0x20#32
def wrapState : State := setM { base with mctl := 0x0000000C#32 } 0 0xF#32
theorem witness_ModifierModes :
    (8 ≤ amOf moduloState 0 ∧ amOf moduloState 0 < 12
      ∧ moduloOk 0x24#32 12#32 (rreg moduloState (Fin.ofNat 16 8)) (mreg moduloState (Fin.ofNat 4 8)) 2 true = true
      ∧ (12#32).toInt.natAbs ≤ (mreg moduloState (Fin.ofNat 4 8)).toNat
      ∧ moduloOk 0x2A#32 (-12#32) (rreg moduloState (Fin.ofNat 16 8)) (mreg moduloState (Fin.ofNat 4 8)) 2 false = true)
    ∧ (12 ≤ amOf wrapState 0 ∧ wrapOk (mreg wrapState (Fin.ofNat 4 12)) 2 = true ∧ wrapOk (mreg wrapState 0) 16 = true)
    ∧ amOf { base with mctl := 1#32 } 0 = 1 := by decide

theorem witness_AguCompares : sameReg (.r 0) (.r 1) = false ∧ sameReg .pc .sp = false ∧ sameReg (.r 1) (.r 1) = true
    ∧ sameReg .sp .sp = true ∧ sameReg (.n 0) (.r 0) = false := by decide

theorem witness_StackPointersAreMultiplesOf8 : StacksAligned base ∧ completes (.tfra (.r 0) .sp) base = true :=
  ⟨base_stacks, by decide⟩

theorem witness_EffectiveAddresses : amOf base 7 = 0 ∧ 8 ≤ (8 : RReg).val := by decide

/-- R321, R126: ADDA #2,R0 and the post-increment (R0)+ of a word wrap in the buffer $20..$2B. -/
theorem test_modulo_reaches_the_instructions :
    (match execAddaImm 2#5 (.r 0) (setR moduloState 0 0x2A#32) with | .next t => rreg t 0 == 0x20#32 | _ => false) = true
      ∧ rreg (eaMode (setR moduloState 0 0x2A#32) .postInc 0 2).st 0 = 0x20#32 := by decide

theorem witness_RegisterMoves : tBit baseT = true ∧ tBit base = false := by decide

theorem witness_ControlRegisterMoves : SrLegal base := base_legal

/-- Aligned addresses at both ends of the memory below the EOnCE window. -/
theorem witness_LoadsOfOneRegister :
    (aligned (memEa base (.abs32 0xFFFFFDFC#32) 4).addr 4 = true ∧ aligned (memEa base (.ea .plain 0) 2).addr 2 = true
      ∧ aligned (eaMode base .plain 3 4).addr 4 = true ∧ clashes (.ea .postInc 0) (.r 1) = false
      ∧ clashes (.ea .plain 0) (.r 0) = false)
    ∧ OutsideEonce base (memEa base (.abs32 0xFFFFFDFC#32) 4).addr 4 := by unfold OutsideEonce; decide

theorem witness_StoresOfOneRegister :
    base.mem.wf = true ∧ aligned (memEa base (.abs16 0xFFFE#16) 2).addr 2 = true
      ∧ aligned (bmuEa base (.sp 0xFFFE#16)).addr 2 = true ∧ aligned (eaMode base .plain 8 4).addr 4 = true
      ∧ OutsideEonce base (memEa base (.abs16 0xFFFE#16) 2).addr 2 := by unfold OutsideEonce; decide

theorem witness_LoadsOfSeveralRegisters :
    aligned (eaMode base .postInc 0 8).addr 8 = true ∧ aligned (eaMode (setR base 0 0xFFFFFDF8#32) .plain 0 8).addr 8 = true
      ∧ aligned (eaMode (setR base 0 4#32) .plain 0 4).addr 4 = true
      ∧ OutsideEonce (setR base 0 0xFFFFFDF8#32) 0xFFFFFDF8#32 8 := by unfold OutsideEonce; decide

theorem witness_StoresOfSeveralRegisters :
    base.mem.wf = true ∧ aligned (eaMode base (.postN 0) 0 8).addr 8 = true ∧ aligned (eaMode base .postDec 7 4).addr 4 = true
      ∧ OutsideEonce base (eaMode base (.postN 0) 0 8).addr 8 := by unfold OutsideEonce; decide

theorem witness_ScaledAndLimitedStores :
    base.mem.wf = true ∧ aligned (memEa base (.sp 2#15) 2).addr 2 = true ∧ aligned (eaMode base .postDec 7 8).addr 8 = true
      ∧ movesKnown base 0 ∧ movesKnown (setD (on 0x00E00030#32) 0 1#40 true) 0 ∧ scalingDefined base
      ∧ OutsideEonce base (memEa base (.sp 2#15) 2).addr 2 :=
  ⟨by decide, by decide, by decide, Or.inl (Or.inr (by decide)), Or.inr (by decide), Or.inr (by decide),
    by unfold OutsideEonce; decide⟩

theorem witness_ExtensionMoves :
    aligned (extEa base (.sp 0x7FFC#15)).addr 4 = true ∧ base.mem.wf = true
      ∧ OutsideEonce base (extEa base (.abs32 0xFFFFFDFC#32)).addr 4 := by unfold OutsideEonce; decide

theorem witness_MisalignedAccesses :
    aligned (memEa base (.abs16 1#16) 2).addr 2 = false ∧ aligned (memEa base (.abs16 2#16) 4).addr 4 = false
      ∧ aligned (eaMode (setR base 0 2#32) .plain 0 4).addr 4 = false
      ∧ aligned (eaMode (setR base 0 4#32) .plain 0 8).addr 8 = false
      ∧ aligned (eaMode (setR base 0 1#32) .plain 0 2).addr 2 = false
      ∧ aligned (eaMode (setR base 0 2#32) (.postN 0) 0 4).addr 4 = false
      ∧ aligned (eaMode (setR base 0 4#32) (.postN 0) 0 8).addr 8 = false
      ∧ aligned (extEa base (.sp 2#15)).addr 4 = false ∧ aligned (bmuEa base (.sp 1#16)).addr 2 = false := by decide

theorem witness_BytesOfAStoredValue : base.mem.wf = true := base_memory

theorem witness_StackInstructions : StacksAligned base ∧ SrLegal base ∧ base.mem.wf = true
    ∧ OutsideEonce base (spOf base) 4 ∧ OutsideEonce base (spOf base + 4) 4
    ∧ (StacksAligned { base with nsp := 0xFFFFFE00#32 } ∧ OutsideEonce { base with nsp := 0xFFFFFE00#32 } 0xFFFFFDF8#32 4) := by
  unfold StacksAligned SrLegal OutsideEonce; decide

theorem witness_BitMaskControlRegisters : SrLegal base := base_legal

theorem witness_BitMaskMemory : base.mem.wf = true ∧ aligned (bmuEa base (.abs16 0xFFFE#16)).addr 2 = true
    ∧ OutsideEonce base (bmuEa base (.abs16 0xFFFE#16)).addr 2 := by unfold OutsideEonce; decide

theorem witness_BranchesAndJumps :
    (∃ v, JumpTo.abs 0xFFFFFFFF#32 = .abs v) ∧ ∃ n, JumpTo.reg 15 = .reg n ∧ rreg base 15 = rreg base n :=
  ⟨⟨_, rfl⟩, 15, rfl, rfl⟩

theorem witness_SubroutineCalls : StacksAligned base ∧ base.mem.wf = true ∧ OutsideEonce base (spOf base) 8 :=
  ⟨base_stacks, base_memory, base_outside.2⟩

theorem witness_ReturnsFromSubroutinesAndExceptions :
    (StacksAligned { base with nsp := 0xFFFFFE00#32 } ∧ SrLegal { base with nsp := 0xFFFFFE00#32 }
      ∧ ({ base with nsp := 0xFFFFFE00#32 } : State).rasValid = false
      ∧ OutsideEonce { base with nsp := 0xFFFFFE00#32 } 0xFFFFFDF8#32 8)
    ∧ ({ base with rasValid := true } : State).rasValid = true := by unfold StacksAligned SrLegal OutsideEonce; decide

theorem witness_SetEnds :
    (base.loopJump = none ∧ StacksAligned base ∧ base.mem.wf = true ∧ base.delay = .none ∧ OutsideEonce base (spOf base) 8)
    ∧ (∃ g, ({ base with delay := .jump 6#32 } : State).delay = .jump g)
    ∧ (∃ g, ({ base with delay := .call 6#32 } : State).delay = .call g)
    ∧ (∃ g f, ({ base with delay := .sub 6#32 8#32 } : State).delay = .sub g f)
    ∧ (∃ g v f, ({ base with delay := .ret 6#32 1#32 8#32 } : State).delay = .ret g v f)
    ∧ base.flowed = false ∧ FrameKept 8#32 (note base ⟨16#32, 4, true, 4, [0#32], false, false⟩)
    ∧ (∃ k g, ({ base with loopJump := some ⟨2, 8#32⟩ } : State).loopJump = some ⟨k + 2, g⟩)
    ∧ ∃ g, ({ base with loopJump := some ⟨1, 8#32⟩ } : State).loopJump = some ⟨1, g⟩ :=
  ⟨⟨rfl, base_stacks, base_memory, rfl, base_outside.2⟩, ⟨_, rfl⟩, ⟨_, rfl⟩, ⟨_, _, rfl⟩, ⟨_, _, _, rfl⟩,
    rfl, by unfold FrameKept; decide, ⟨0, 8#32, rfl⟩, 8#32, rfl⟩

theorem witness_TrapTakesItsException : StacksAligned base ∧ base.mem.wf = true ∧ OutsideEonce base base.esp 8 :=
  ⟨base_stacks, base_memory, base_outside.2⟩

/-- A state with each kind of request pending; a level equal to the mask is not. -/
theorem witness_ExceptionsAreEntered :
    (base.events = [] ∧ base.proc = .execution ∧ base.eonce.dbgReq = false ∧ base.delay = .none ∧ base.loopJump = none
      ∧ base.window = 0 ∧ base.ignoreA = 0)
    ∧ pending { base with reqIllegal := true } = some .illegal ∧ pending { base with reqDebug := true } = some .debug
    ∧ pending { base with reqOverflow := true } = some .overflow
    ∧ pending { base with inputs := { Inputs.none with nmiReq := true } } = some .nmi
    ∧ pending { on 0x00A00000#32 with inputs := { Inputs.none with ireq := true, ipl := 6#3 } } = some .maskable
    ∧ pending { on 0x00A00000#32 with inputs := { Inputs.none with ireq := true, ipl := 5#3 } } = none
    ∧ (StacksAligned base ∧ base.mem.wf = true ∧ OutsideEonce base base.esp 8)
    ∧ EntryUnwatched { base with reqDebug := true }
    ∧ EntryUnwatched { base with reqDebug := true, eonce := { Eonce.reset with enabled := true } } :=
  ⟨⟨rfl, rfl, rfl, rfl, rfl, rfl, rfl⟩, by decide, by decide, by decide, by decide, by decide, by decide,
    ⟨base_stacks, base_memory, base_outside.2⟩, ⟨by unfold OutsideEonce; decide, .inl rfl⟩,
    ⟨by unfold OutsideEonce; decide, .inr ⟨rfl, rfl, rfl⟩⟩⟩

theorem witness_ReturnUndoesEntry : StacksAligned base ∧ SrLegal base ∧ base.mem.wf = true ∧ OutsideEonce base base.esp 8 :=
  ⟨base_stacks, base_legal, base_memory, base_outside.2⟩

/-- Loop 1 enabled (loop 0 too), with the counts 2, 1 and 0 at which the clauses meet; short and long. -/
def looping (slf : Bool) (c : Word) : State := setLc (on (if slf then 0x98E00000#32 else 0x18E00000#32)) 1 c
theorem witness_LoopInstructions :
    (ActiveLoop (looping false 2#32) 1 ∧ 1 < (lcReg (looping false 2#32) 1).toInt)
    ∧ (ActiveLoop (looping false 1#32) 1 ∧ (lcReg (looping false 1#32) 1).toInt ≤ 1
      ∧ 0 < (lcReg (looping false 1#32) 1).toInt)
    ∧ (ActiveLoop (looping false 0#32) 1 ∧ (lcReg (looping false 0#32) 1).toInt ≤ 0)
    ∧ (∀ n : LoopIx, loopFlag base n = false)
    ∧ (∃ u : BitVec 6, LoopCount.u6 63#6 = .u6 u ∧ (63#32) = BitVec.ofNat 32 u.toNat)
    ∧ (∃ u : BitVec 16, LoopCount.u16 0xFFFF#16 = .u16 u ∧ (0xFFFF#32) = BitVec.ofNat 32 u.toNat)
    ∧ ∃ x, LoopCount.reg (.d 6) = .reg x ∧ drLong base (.d 6) = drLong base x :=
  ⟨by unfold ActiveLoop; decide, by unfold ActiveLoop; decide, by unfold ActiveLoop; decide, by decide, ⟨63#6, rfl, by decide⟩,
    ⟨0xFFFF#16, rfl, by decide⟩, _, rfl, rfl⟩

theorem witness_LoopMarks :
    (ActiveLoop (looping false 2#32) 1 ∧ (looping false 2#32).ignoreA = 0 ∧ (looping false 2#32).ignoreB = 0
      ∧ 1 < (lcReg (looping false 2#32) 1).toInt)
    ∧ (ActiveLoop (looping true 1#32) 1 ∧ (looping true 1#32).sr.getLsbD 31 = true
      ∧ (lcReg (looping true 1#32) 1).toInt ≤ 1)
    ∧ (∀ n : LoopIx, loopFlag base n = false) ∧ ({ base with ignoreA := 1 } : State).ignoreA ≠ 0 :=
  ⟨by unfold ActiveLoop; decide, by unfold ActiveLoop; decide, by decide, by decide⟩

/-- EOnCE states: disabled, enabled, IME set without and with PICINT, and a trace buffer of four entries with TEN and TMARK. -/
def emcr (v : Word) : State := { base with eonce := { Eonce.reset with emcr := v, enabled := true } }
def traced (k : BitVec 16) : State :=
  { base with eonce := { Eonce.reset with enabled := true, tbCtrl := 0x18#16, tbWr := k, tb := [0, 0, 0, 0] }
              params := { Params.default with tbSize := 4 } }
theorem witness_ProgramControl :
    base.eonce.emcr.getLsbD 16 = false
    ∧ ((emcr 0x00010000#32).eonce.emcr.getLsbD 16 = true ∧ (emcr 0x00010000#32).eonce.emcr.getLsbD 25 = false)
    ∧ ((emcr 0x02010000#32).eonce.emcr.getLsbD 16 = true ∧ (emcr 0x02010000#32).eonce.emcr.getLsbD 25 = true)
    ∧ base.eonce.enabled = false ∧ (emcr 0#32).eonce.enabled = true
    ∧ (base.eonce.enabled && base.eonce.tbCtrl.getLsbD 4 && base.eonce.tbCtrl.getLsbD 3) = false
    ∧ ((traced 3#16).eonce.enabled && (traced 3#16).eonce.tbCtrl.getLsbD 4 && (traced 3#16).eonce.tbCtrl.getLsbD 3) = true
    ∧ (traced 3#16).eonce.tbWr.toNat < (traced 3#16).params.tbSize ∧ (traced 3#16).params.tbSize ≤ 2048
    ∧ (traced 3#16).eonce.tbWr.toNat + 1 = (traced 3#16).params.tbSize
    ∧ (traced 0#16).eonce.tbWr.toNat + 1 < (traced 0#16).params.tbSize := by decide

theorem witness_PrefixInstructions : (0#3 : BitVec 3) ≠ 4#3 ∧ (7#3 : BitVec 3) ≠ 5#3 ∧ (2#3 : BitVec 3) ≠ 0#3
    ∧ (2#3 : BitVec 3) ≠ 1#3 ∧ (∃ p j c, Instr.prefix1 2#3 true false 4#3 = .prefix1 2#3 p j c ∧ (c = 4#3 ∨ c = 5#3))
    ∧ (ActiveLoop (looping false 2#32) 1 ∧ (looping false 2#32).ignoreA = 0 ∧ 1 < (lcReg (looping false 2#32) 1).toInt)
    ∧ (ActiveLoop (looping false 1#32) 1 ∧ (lcReg (looping false 1#32) 1).toInt ≤ 1)
    ∧ ({ base with ignoreA := 1 } : State).ignoreA ≠ 0 ∧ (∀ n : LoopIx, loopFlag base n = false)
    ∧ (∃ p j hb c, Instr.prefix2 2#3 0#16 true false 5#3 = .prefix2 2#3 hb p j c ∧ c = 5#3)
    ∧ ∃ p j hb c, Instr.prefix2 1#3 0#16 true false 0#3 = .prefix2 1#3 hb p j c ∧ c ≠ 4#3 :=
  ⟨by decide, by decide, by decide, by decide, ⟨_, _, _, rfl, .inl rfl⟩, ⟨by unfold ActiveLoop; decide, by decide, by decide⟩,
    ⟨by unfold ActiveLoop; decide, by decide⟩, by decide, by decide, ⟨_, _, _, _, rfl, rfl⟩, _, _, _, _, rfl, by decide⟩

theorem witness_WaitAndStopStates :
    ({ base with proc := .wait } : State).events = [] ∧ ({ base with proc := .stop } : State).proc = .stop
    ∧ ({ base with proc := .stop, events := [.wakeFromStop] } : State).events = .wakeFromStop :: []
    ∧ base.eonce.dbgReq = false ∧ base.reqDebug = false
    ∧ (pending { base with proc := .wait, reqOverflow := true } ≠ none
      ∧ interruptible { base with proc := .wait, reqOverflow := true } = true)
    ∧ pending { on 0x00A80000#32 with proc := .wait, inputs := { Inputs.none with ireq := true, ipl := 6#3 } } = none := by
  decide

/-- An illegal word; a grouping error (two AGU words at positions 1 and 3); an ISAP opcode. -/
def badWord : State := code base [0x9E7F]
def badSet : State := code base [0x96C0, 0xE8FC, 0x6D51, 0xE9FC]
def badIsap : State := code base [0x94C0, 0x3942, 0xA000]
theorem witness_ResultsOfOneSetComeTogether : (base.acc = [] ∧ (0 : DReg) ≠ 1 ∧ satMode base = false)
    ∧ (Quiet badWord ∧ (decodeSet badWord (fetchWords badWord)).ilin = true
      ∧ (fetchWords badWord).headD 0 = 0x9E7F ∧ top2 0x9E7F ≠ 0 ∧ isPrefix1 0x9E7F = false
      ∧ decodeAt Bank.zero [0x9E7F] = none)
    ∧ (Quiet badSet ∧ (decodeSet badSet (fetchWords badSet)).ilst = false
      ∧ prefixEffect (begin badSet 4) (some (.ifa 3#3)) = .next (withIfc (begin badSet 4) 0#3)
      ∧ groupOk (begin badSet 4) 0#3 (decodeSet badSet (fetchWords badSet)).slots = false)
    ∧ ((fetchWords badIsap).headD 0 = 0x94C0 ∧ isPrefix1 0x94C0 = true ∧ isPrefix1 0x3942 = false
      ∧ isapWord (((fetchWords badIsap).drop 1).take (0x94C0 / 2 ^ 9 % 8)) = true)
    ∧ (effects base (.asla (.r 0))).dalu = (effects base (.asla (.r 1))).dalu ∧ 1 % 2 = 3 % 2 :=
  ⟨by decide, ⟨⟨rfl, rfl, rfl, by decide⟩, by decide, by decide, by decide, by decide, by decide⟩,
    ⟨⟨rfl, rfl, rfl, by decide⟩, by decide, rfl, by decide⟩, by decide, by decide, by decide⟩

theorem witness_EonceReceiveAndTransmit : base.params.eonceBase.toNat % 4 = 0 := by decide

end Sys2Proof.Tests
end

section
/-! The stack pointers after every instruction (O30; spec/10_state.md R31).  Most updates leave NSP and ESP alone; those that write
them go through `setNsp` and `setEsp`, which clear the three low bits.  Each update has one lemma `…_stacks`, and an instruction keeps
the stack pointers aligned by the lemma of the update it ends in. -/

namespace Sys2Proof.Machine

/-! ### Updates that leave both stack pointers alone -/

theorem StacksAligned.congr {s t : State} (h : StacksAligned s) (hn : t.nsp = s.nsp) (he : t.esp = s.esp) : StacksAligned t := by
  unfold StacksAligned
  rw [hn, he]
  exact h

/-- A frame that does not name a stack pointer leaves both. -/
theorem Untouched.stacks {ds : List Dest} {b c : Word} {s t : State} (hf : Untouched ds b c s t) (hn : .nsp ∉ ds) (he : .esp ∉ ds)
    (h : StacksAligned s) : StacksAligned t :=
  h.congr (hf.nsp hn) (hf.esp he)

theorem OnlyMemEonce.stacks {s t : State} (ho : OnlyMemEonce s t) (h : StacksAligned s) : StacksAligned t :=
  (ho.untouched [] 0#32 0#32).stacks List.not_mem_nil List.not_mem_nil h

theorem OnlyEonce.stacks {s t : State} (ho : OnlyEonce s t) (h : StacksAligned s) : StacksAligned t := ho.memEonce.stacks h

theorem DebugOnly.stacks {s t : State} (hd : DebugOnly s t) (h : StacksAligned s) : StacksAligned t := by
  obtain ⟨e, q, rfl⟩ := hd
  exact h

theorem ite_stacks {c : Prop} [Decidable c] {s t : State} (hs : StacksAligned s) (ht : StacksAligned t) :
    StacksAligned (if c then s else t) := by
  split
  · exact hs
  · exact ht

section
variable {s : State}

theorem setD_stacks (h : StacksAligned s) {n : DReg} {v : DWord} {b : Bool} : StacksAligned (setD s n v b) := h
theorem setR_stacks (h : StacksAligned s) {n : RReg} {v : Word} : StacksAligned (setR s n v) := h
theorem setN_stacks (h : StacksAligned s) {k : Fin 4} {v : Word} : StacksAligned (setN s k v) := h
theorem setM_stacks (h : StacksAligned s) {k : Fin 4} {v : Word} : StacksAligned (setM s k v) := h
theorem setSa_stacks (h : StacksAligned s) {k : LoopIx} {v : Word} : StacksAligned (setSa s k v) := h
theorem setLc_stacks (h : StacksAligned s) {k : LoopIx} {v : Word} : StacksAligned (setLc s k v) := h
theorem setSrBit_stacks (h : StacksAligned s) {i : Nat} {b : Bool} : StacksAligned (setSrBit s i b) := h
theorem setT_stacks (h : StacksAligned s) {b : Bool} : StacksAligned (setT s b) := h
theorem setC_stacks (h : StacksAligned s) {b : Bool} : StacksAligned (setC s b) := h
theorem writeSr_stacks (h : StacksAligned s) {v : Word} : StacksAligned (writeSr s v) := h
theorem writeEmr_stacks (h : StacksAligned s) {v : Word} : StacksAligned (writeEmr s v) := h
theorem writeVba_stacks (h : StacksAligned s) {v : Word} : StacksAligned (writeVba s v) := h
theorem writeMctl_stacks (h : StacksAligned s) {v : Word} : StacksAligned (writeMctl s v) := h
theorem dropRas_stacks (h : StacksAligned s) : StacksAligned (dropRas s) := h
theorem clearNmid_stacks (h : StacksAligned s) : StacksAligned (clearNmid s) := h
theorem note_stacks (h : StacksAligned s) {x : Access} : StacksAligned (note s x) := h
theorem jumpTo_stacks (h : StacksAligned s) {t : Word} : StacksAligned (jumpTo s t) := h
theorem delayed_stacks (h : StacksAligned s) {d : Delay} : StacksAligned (delayed s d) := h
theorem withIfc_stacks (h : StacksAligned s) {c : BitVec 3} : StacksAligned (withIfc s c) := h
theorem overflow_stacks (h : StacksAligned s) : StacksAligned (overflow s) := h
theorem illegalInstruction_stacks (h : StacksAligned s) : StacksAligned (illegalInstruction s) := h

theorem setNspShadow_stacks (h : StacksAligned s) {b : Bool} : StacksAligned (setNspShadow s b) := h

theorem setSpShadow_stacks (h : StacksAligned s) {b : Bool} : StacksAligned (setSpShadow s b) :=
  h.congr (setSpShadow_nsp s b) (setSpShadow_esp s b)

theorem setOspShadow_stacks (h : StacksAligned s) {b : Bool} : StacksAligned (setOspShadow s b) :=
  h.congr (setOspShadow_nsp s b) (setOspShadow_esp s b)

/-! ### Writes of the stack pointers (R31) -/

theorem and_spMask_twice (v : Word) : v &&& spMask &&& spMask = v &&& spMask := by rw [BitVec.and_assoc, BitVec.and_self]

theorem setNsp_stacks (h : StacksAligned s) {v : Word} : StacksAligned (setNsp s v) := ⟨and_spMask_twice v, h.2⟩

theorem setEsp_stacks (h : StacksAligned s) {v : Word} : StacksAligned (setEsp s v) := ⟨h.1, and_spMask_twice v⟩

theorem setSp_stacks (h : StacksAligned s) {v : Word} : StacksAligned (setSp s v) := ite_stacks (setEsp_stacks h) (setNsp_stacks h)

theorem setOsp_stacks (h : StacksAligned s) {v : Word} : StacksAligned (setOsp s v) := ite_stacks (setNsp_stacks h) (setEsp_stacks h)

theorem moveSp_stacks (h : StacksAligned s) {v : Word} : StacksAligned (moveSp s v) := setSpShadow_stacks (setSp_stacks h)

theorem moveNsp_stacks (h : StacksAligned s) {v : Word} : StacksAligned (moveNsp s v) := setNspShadow_stacks (setNsp_stacks h)

theorem setRx_stacks (h : StacksAligned s) {x : Rx} {v : Word} : StacksAligned (setRx s x v) := by
  cases x with
  | n k => exact setN_stacks h
  | sp => exact setSpShadow_stacks (dropRas_stacks (setSp_stacks h))
  | r n => exact setR_stacks h

/-! ### Results of the DALU -/

theorem overflowIf_stacks (h : StacksAligned s) {b : Bool} : StacksAligned (overflowIf b s) := ite_stacks (overflow_stacks h) h

theorem writeSat_stacks (h : StacksAligned s) {n : DReg} {x : Int} {top : DWord} : StacksAligned (writeSat s n x top) :=
  (writeSat_spec s n x top).1.1.stacks (by simp) (by simp) h

theorem writeArith_stacks (h : StacksAligned s) {n : DReg} {x : Int} : StacksAligned (writeArith s n x) := writeSat_stacks h

theorem writeRounded_stacks (h : StacksAligned s) {n : DReg} {x : Int} : StacksAligned (writeRounded s n x) := writeSat_stacks h

theorem writeArith6_stacks (h : StacksAligned s) {n : DReg} {x : Int} : StacksAligned (writeArith6 s n x) :=
  overflowIf_stacks (setD_stacks h)

theorem writeWrap_stacks (h : StacksAligned s) {n : DReg} {x : Int} : StacksAligned (writeWrap s n x) :=
  overflowIf_stacks (setD_stacks h)

theorem subRegs_stacks (h : StacksAligned s) {n a b : DReg} : StacksAligned (subRegs s n a b) :=
  ite_stacks (setC_stacks (setD_stacks h)) (setC_stacks (writeArith_stacks h))

theorem shiftBy_stacks (h : StacksAligned s) {n : DReg} {k : Int} {a : Bool} : StacksAligned (shiftBy s n k a) :=
  ite_stacks (setC_stacks (setD_stacks h))
    (ite_stacks (overflowIf_stacks (setC_stacks (setD_stacks h))) (setC_stacks (setD_stacks h)))

theorem shiftReg_stacks (h : StacksAligned s) {n : DReg} {k : Int} {a : Bool} : StacksAligned (shiftReg s n k a) :=
  ite_stacks (shiftBy_stacks h) (overflowIf_stacks (setC_stacks (setD_stacks h)))

/-! ### Registers of moves, bit-mask and stack instructions -/

theorem setDs_stacks (h : StacksAligned s) {xs : List (DReg × DWord)} : StacksAligned (setDs s xs) := by
  induction xs generalizing s with
  | nil => exact h
  | cons x rest ih => exact ih (setD_stacks h)

theorem writeDr_stacks (h : StacksAligned s) {x : DR} {v : DWord} : StacksAligned (writeDr s x v) := by
  cases x with
  | d n => exact setD_stacks h
  | r n => exact setR_stacks h

theorem writeLoaded_stacks (h : StacksAligned s) {m : Mem} {x : DR} {v : DWord} : StacksAligned (writeLoaded s m x v) :=
  ite_stacks (writeDr_stacks h) (writeDr_stacks h)

theorem writeC4_stacks (h : StacksAligned s) {x : C4} {v : DWord} : StacksAligned (writeC4 s x v) := by
  cases x with
  | d n => exact setD_stacks h
  | r n | b n => exact setR_stacks h
  | n k => exact setN_stacks h
  | m k => exact setM_stacks h

theorem setC1_stacks (h : StacksAligned s) {x : C1} {v : Word} : StacksAligned (setC1 s x v) := by
  cases x with
  | emr => exact writeEmr_stacks h
  | vba => exact writeVba_stacks h
  | sr => exact writeSr_stacks h
  | mctl => exact writeMctl_stacks h

theorem setC2_stacks (h : StacksAligned s) {x : C2} {v : Word} : StacksAligned (setC2 s x v) := by
  cases x with
  | emr => exact writeEmr_stacks h
  | vba => exact writeVba_stacks h
  | sr => exact writeSr_stacks h
  | mctl => exact writeMctl_stacks h
  | sa k => exact setSa_stacks h
  | lc k => exact setLc_stacks h

theorem changeDr_stacks (h : StacksAligned s) {x : DR} {p : Half} {f : Word16 → Word16} : StacksAligned (changeDr s x p f) := by
  cases x with
  | d n => exact setD_stacks h
  | r n => exact setR_stacks h

theorem changeC1_stacks (h : StacksAligned s) {x : C1} {p : Half} {f : Word16 → Word16} : StacksAligned (changeC1 s x p f) := by
  cases x with
  | emr => exact writeEmr_stacks h
  | vba => exact writeVba_stacks h
  | sr => exact writeSr_stacks h
  | mctl => exact writeMctl_stacks h

theorem setExt_stacks (h : StacksAligned s) {n : DReg} {v : BitVec 9} : StacksAligned (setExt s n v) := setD_stacks h

theorem setEven_stacks (h : StacksAligned s) {x : PushEven} {v : Word} : StacksAligned (setEven s x v) := by
  cases x with
  | d i => exact setD_stacks h
  | r i | b i => exact setR_stacks h
  | n i => exact setN_stacks h
  | m i => exact setM_stacks h
  | sa k => exact setSa_stacks h
  | ext i => exact setExt_stacks h
  | extPair i => exact setExt_stacks (setExt_stacks h)

theorem setOdd_stacks (h : StacksAligned s) {x : PushOdd} {v : Word} : StacksAligned (setOdd s x v) := by
  cases x with
  | d i => exact setD_stacks h
  | r i | b i => exact setR_stacks h
  | n i => exact setN_stacks h
  | m i => exact setM_stacks h
  | lc k => exact setLc_stacks h
  | ext i => exact setExt_stacks h
  | vba => exact writeVba_stacks h
  | sr => exact writeSr_stacks h
  | mctl => exact writeMctl_stacks h

/-! ### Effective addresses and data accesses -/

theorem eaMode_stacks (h : StacksAligned s) {m : EaMode} {rn : RReg} {w : Nat} : StacksAligned (eaMode s m rn w).st := by
  obtain ⟨r, hr⟩ := eaMode_st s m rn w
  rw [hr]
  exact h

theorem memEa_stacks (h : StacksAligned s) {m : Mem} {w : Nat} : StacksAligned (memEa s m w).st := by
  obtain ⟨r, hr⟩ := memEa_st s m w
  rw [hr]
  exact h

theorem extEa_stacks (h : StacksAligned s) {m : ExtMem} : StacksAligned (extEa s m).st := (extEa_st s m).symm ▸ h

theorem bmuEa_stacks (h : StacksAligned s) {m : BmuMem} : StacksAligned (bmuEa s m).st := (bmuEa_st s m).symm ▸ h

theorem load32_stacks (h : StacksAligned s) {a : Word} {tag : Nat} : StacksAligned (load32 s a tag).2 := (load32_only s a tag).stacks h

theorem pushLong_stacks (h : StacksAligned s) {a v : Word} : StacksAligned (pushLong s a v) :=
  note_stacks ((store32_only s a v).stacks h)

theorem popLong_stacks (h : StacksAligned s) {a : Word} {b : Bool} : StacksAligned (popLong s a b).2 := note_stacks (load32_stacks h)

theorem pushFrame_stacks (h : StacksAligned s) {sp ret sr : Word} : StacksAligned (pushFrame s sp ret sr) := by
  obtain ⟨m, e, a, hp⟩ := pushFrame_only s sp ret sr
  rw [hp]
  exact h

/-! ### Changes of flow, loop marks and debug requests -/

theorem callTo_stacks (h : StacksAligned s) {ret t : Word} : StacksAligned (callTo s ret t) :=
  jumpTo_stacks (s := { setSp _ _ with ras := ret, rasValid := true }) (setSp_stacks (pushFrame_stacks h))

theorem jumpIf_stacks (h : StacksAligned s) {b : Bool} {t : Word} : StacksAligned (jumpIf b s t) := ite_stacks (jumpTo_stacks h) h

theorem dropFrame_stacks (h : StacksAligned s) : StacksAligned (dropFrame s) := dropRas_stacks (setSp_stacks h)

theorem popReturn_stacks (h : StacksAligned s) : StacksAligned (popReturn s).2 := note_stacks (load32_stacks h)

theorem subReturn_stacks (h : StacksAligned s) : StacksAligned (subReturn s).2 := by
  unfold subReturn
  split
  · exact dropFrame_stacks h
  · exact dropFrame_stacks (popReturn_stacks h)

theorem stackReturn_stacks (h : StacksAligned s) : StacksAligned (stackReturn s).2 :=
  clearNmid_stacks (dropFrame_stacks (popReturn_stacks h))

theorem returnFromException_stacks (h : StacksAligned s) : StacksAligned (returnFromException s) :=
  jumpTo_stacks (writeSr_stacks (clearNmid_stacks (setSp_stacks (note_stacks (load32_stacks (load32_stacks h))))))

theorem takeException_stacks (h : StacksAligned s) {off : BitVec 12} {lvl : BitVec 3} {ret : Word} :
    StacksAligned (takeException s off lvl ret) := by
  obtain ⟨m, e, a, ht⟩ := takeException_only s off lvl ret
  rw [ht]
  exact ⟨h.1, and_spMask_twice (s.esp + 8)⟩

theorem endLoop_stacks (h : StacksAligned s) {n : LoopIx} : StacksAligned (endLoop s n) := setSrBit_stacks (setLc_stacks h)

theorem markA_stacks (h : StacksAligned s) : StacksAligned (markA s) := by
  unfold markA
  split
  · exact h
  · exact ite_stacks (jumpTo_stacks (setLc_stacks h)) (setSrBit_stacks (endLoop_stacks h))

theorem markEndB_stacks (h : StacksAligned s) {n : LoopIx} : StacksAligned (markEndB s n) := by
  unfold markEndB
  split <;> exact h

theorem markB_stacks (h : StacksAligned s) : StacksAligned (markB s) := by
  unfold markB
  split
  · exact h
  · exact markEndB_stacks h

theorem marks_stacks (h : StacksAligned s) {p j : Bool} : StacksAligned (marks p j s) :=
  ite_stacks (ite_stacks (markB_stacks (markA_stacks h)) (markA_stacks h)) (ite_stacks (markB_stacks h) h)

theorem debugRequest_stacks (h : StacksAligned s) : StacksAligned (debugRequest s) :=
  ite_stacks ((debugException_only s _).stacks h) ((mirrorPins_only _).stacks h)

theorem markTrace_stacks (h : StacksAligned s) : StacksAligned (markTrace s) := ite_stacks ((tracePush_only s _).stacks h) h

end

section
variable {e : Ea}

theorem read8_stacks (h : StacksAligned e.st) : StacksAligned (read8 e).2 := note_stacks ((load8_only ..).stacks h)
theorem read16_stacks (h : StacksAligned e.st) : StacksAligned (read16 e).2 := note_stacks ((load16_only ..).stacks h)
theorem read32_stacks (h : StacksAligned e.st) : StacksAligned (read32 e).2 := note_stacks (load32_stacks h)

theorem readWords_stacks (h : StacksAligned e.st) {k : Nat} : StacksAligned (readWords e k).2 :=
  note_stacks ((loadWords_only ..).stacks h)

theorem readTwoLongs_stacks (h : StacksAligned e.st) : StacksAligned (readTwoLongs e).2 :=
  note_stacks (load32_stacks (load32_stacks h))

theorem write8_stacks (h : StacksAligned e.st) {v : Byte} : StacksAligned (write8 e v) := note_stacks ((store8_only ..).stacks h)
theorem write16_stacks (h : StacksAligned e.st) {v : Word16} : StacksAligned (write16 e v) := note_stacks ((store16_only ..).stacks h)
/-- A word is written back to the address that it was read from. -/
theorem write16_read16_stacks (h : StacksAligned e.st) {v : Word16} : StacksAligned (write16 { e with st := (read16 e).2 } v) :=
  write16_stacks (e := { e with st := (read16 e).2 }) (read16_stacks h)

theorem write32_stacks (h : StacksAligned e.st) {v : Word} : StacksAligned (write32 e v) := note_stacks ((store32_only ..).stacks h)

theorem writeWords_stacks (h : StacksAligned e.st) {vs : List Word16} : StacksAligned (writeWords e vs) :=
  note_stacks ((storeWords_only ..).stacks h)

theorem writeTwoLongs_stacks (h : StacksAligned e.st) {v w : Word} : StacksAligned (writeTwoLongs e v w) :=
  note_stacks ((store32_only ..).stacks ((store32_only ..).stacks h))

end

/-! ### Every instruction -/

/-- If this is a next state, its stack pointers are multiples of 8. -/
def EndsAligned (r : Res State) : Prop := ∀ t, r = .next t → StacksAligned t

theorem EndsAligned.next {t : State} (h : StacksAligned t) : EndsAligned (.next t) := by
  rintro _ ⟨⟩
  exact h

theorem EndsAligned.fault (r : Fault) : EndsAligned (.fault r) := by rintro _ ⟨⟩

theorem EndsAligned.refused (r : Refusal) : EndsAligned (.refused r) := by rintro _ ⟨⟩

theorem EndsAligned.ite {c : Prop} [Decidable c] {r r' : Res State} (h : EndsAligned r) (h' : EndsAligned r') :
    EndsAligned (if c then r else r') := by
  split
  · exact h
  · exact h'

/-- An access at an effective address, refused if it is misaligned (R110). -/
theorem EndsAligned.withEa {e : Ea} {w : Nat} {k : Ea → Res State} (h : StacksAligned e.st)
    (hk : ∀ {x : Ea}, StacksAligned x.st → EndsAligned (k x)) : EndsAligned (withEa e w k) :=
  .ite (hk h) (.refused _)

section
variable {s : State}

theorem compareA_endsAligned (h : StacksAligned s) {src : RxSrc} {x : Rx} {c : Bool} : EndsAligned (compareA src x c s) :=
  .ite (.refused _) (.next (setT_stacks h))

theorem changeMem_endsAligned (h : StacksAligned s) {m : BmuMem} {f : Word16 → Word16} : EndsAligned (changeMem s m f) :=
  .withEa (bmuEa_stacks h) fun he => .next (write16_read16_stacks he)

theorem testMem_endsAligned (h : StacksAligned s) {m : BmuMem} {f : Word16 → Bool} : EndsAligned (testMem s m f) :=
  .withEa (bmuEa_stacks h) fun he => .next (setT_stacks (read16_stacks he))

theorem execTrap_endsAligned (h : StacksAligned s) : EndsAligned (execTrap s) := by
  have ht : StacksAligned (takeException s 0#12 7#3 s.npc) := takeException_stacks h
  exact .next (ht.congr rfl rfl)

theorem execBreak_endsAligned (h : StacksAligned s) {d : BitVec 16} : EndsAligned (execBreak d s) := by
  unfold execBreak
  split
  · exact .fault _
  · exact .next (jumpTo_stacks (setSrBit_stacks h))

theorem execSkipls_endsAligned (h : StacksAligned s) {d : BitVec 16} : EndsAligned (execSkipls d s) := by
  unfold execSkipls
  split
  · exact .fault _
  · exact .ite (.next (jumpTo_stacks (setSrBit_stacks h))) (.next h)

theorem execContd_endsAligned (h : StacksAligned s) {d : BitVec 16} : EndsAligned (execContd d s) := by
  unfold execContd
  split
  · exact .fault _
  · exact .ite (.next (delayed_stacks (setLc_stacks h))) (.next (delayed_stacks (endLoop_stacks h)))

theorem execCont_endsAligned (h : StacksAligned s) {d : BitVec 16} : EndsAligned (execCont d s) := by
  unfold execCont
  split
  · exact .fault _
  · exact .ite (.next (jumpTo_stacks (setLc_stacks h))) (.next (jumpTo_stacks (endLoop_stacks h)))

/-- No instruction leaves another value than a multiple of 8 in a stack pointer (R31). -/
theorem exec_endsAligned (h : StacksAligned s) (i : Instr) : EndsAligned (exec i s) := by
  unfold exec
  cases i with
  -- DALU arithmetic and multiplication (R210 to R280)
  | abs | addnc | adr | neg | sbr | subnc | mac | macSame | macImm | mpy | mpySame => exact .next (writeArith_stacks h)
  | addImm | addReg | addSame | asl | asr | inc | incListed | incF | subImm => exact .next (setC_stacks (writeArith_stacks h))
  | rnd | macr | macrSame | mpyr | mpyrSame => exact .next (writeRounded_stacks h)
  | iaddnc | imac | imacSame | imaclhuu | imacus | impy | impySame | impyW | impyhluu | impysu | impyuu | macsu | macus | macuu | mpysu
  | mpyus | mpyuu => exact .next (writeWrap_stacks h)
  | decge => exact .next (setT_stacks (setC_stacks (writeWrap_stacks h)))
  | div => exact .next (setC_stacks (overflowIf_stacks (writeArith6_stacks h)))
  | sbc => exact .next (setC_stacks (writeArith6_stacks h))
  | subl => exact .next (setC_stacks (overflowIf_stacks (writeArith_stacks h)))
  | subReg | subRegSwap | subSame => exact .next (subRegs_stacks h)
  | add2 | sub2 | max | min | tfr => exact .next (setD_stacks h)
  | clr => exact .next (setC_stacks (setD_stacks h))
  | max2vitA | max2vitB => exact .next (setSrBit_stacks (setSrBit_stacks (setD_stacks h)))
  | satL =>
    exact .next (ite_stacks (overflow_stacks (setD_stacks h)) (ite_stacks (overflow_stacks (setD_stacks h)) (setD_stacks h)))
  | tfrf => exact .next (ite_stacks h (setD_stacks h))
  | tfrt => exact .next (ite_stacks (setD_stacks h) h)
  | cmpeq | cmpeqU | cmpeqS | cmpgt | cmpgtU | cmpgtS | cmphi | tsteq | tstge => exact .next (setT_stacks h)
  -- DALU logic, shifts and bit fields (R290 to R313)
  | andImmLow | andImmHigh | andReg | clb | eorReg | extractImm | extractReg | extractuImm | extractuReg | insertImm | insertReg | notReg
  | orReg | sxtB | sxtL | sxtW | zxtB | zxtL | zxtW => exact .next (setD_stacks h)
  | asrw | lsr | lsrw | rol | ror => exact .next (setC_stacks (setD_stacks h))
  | aslw => exact .next (overflowIf_stacks (setC_stacks (setD_stacks h)))
  | asllImm | asrrImm | lsrrImm => exact .next (shiftBy_stacks h)
  | asllReg | asrrReg | lsll | lsrrReg => exact .next (shiftReg_stacks h)
  -- AGU arithmetic (R320 to R346)
  | addaImm | addaReg | addl1a | addl2a | asl2a | asla | asra | deca | inca | lsra | subaImm | subaReg | sxtaB | sxtaW | tfra | zxtaB
  | zxtaW => exact .next (setRx_stacks h)
  | addaImm16 | tfraFromOsp => exact .next (setR_stacks h)
  | deceqa | decgea => exact .next (setT_stacks (setRx_stacks h))
  | tfraToOsp => exact .next (setOspShadow_stacks (dropRas_stacks (setOsp_stacks h)))
  | cmpeqa | cmpgta | cmphia => exact compareA_endsAligned h
  | tsteqaL | tsteqaW | tstgeaL | tstgta => exact .next (setT_stacks h)
  -- moves (R350 to R380)
  | move2f | move4f => exact .withEa (eaMode_stacks h) fun he => .next (setDs_stacks (readWords_stacks he))
  | move2l dir =>
    cases dir with
    | read => exact .withEa (eaMode_stacks h) fun he => .next (setDs_stacks (readTwoLongs_stacks he))
    | write => exact .withEa (eaMode_stacks h) fun he => .next (writeTwoLongs_stacks he)
  | move2w dir | move4w dir =>
    cases dir with
    | read => exact .withEa (eaMode_stacks h) fun he => .next (setDs_stacks (readWords_stacks he))
    | write => exact .withEa (eaMode_stacks h) fun he => .next (writeWords_stacks he)
  | movebLoad | moveub => exact .withEa (memEa_stacks h) fun he => .next (writeLoaded_stacks (read8_stacks he))
  | movebStore => exact .withEa (memEa_stacks h) fun he => .next (write8_stacks he)
  | movefImm | moveulImm | moveuwHigh | moveuwLow => exact .next (setD_stacks h)
  | movefLoad => exact .withEa (memEa_stacks h) fun he => .next (setD_stacks (read16_stacks he))
  | movefStore => exact .withEa (memEa_stacks h) fun he => .next (write16_stacks he)
  | movelImmC4 | movewImm16 => exact .next (writeC4_stacks h)
  | movelImmC1 => exact .next (setC1_stacks h)
  | movelC4 dir =>
    cases dir with
    | read => exact .next (setD_stacks h)
    | write => exact .next (writeC4_stacks h)
  | movelC2 dir =>
    cases dir with
    | read => exact .next (setD_stacks h)
    | write => exact .next (setC2_stacks h)
  | movelExtEven | movelExtOdd => exact .withEa (extEa_stacks h) fun he => .next (setExt_stacks (read32_stacks he))
  | movelExtStore => exact .withEa (extEa_stacks h) fun he => .next (write32_stacks he)
  | movel dir =>
    cases dir with
    | read => exact .withEa (memEa_stacks h) fun he => .next (writeLoaded_stacks (read32_stacks he))
    | write => exact .withEa (memEa_stacks h) fun he => .next (write32_stacks he)
  | movelC4Mem dir =>
    cases dir with
    | read => exact .withEa (memEa_stacks h) fun he => .next (writeC4_stacks (read32_stacks he))
    | write => exact .withEa (memEa_stacks h) fun he => .next (write32_stacks he)
  | movelC3 dir =>
    cases dir with
    | read => exact .withEa (eaMode_stacks h) fun he => .next (writeC4_stacks (read32_stacks he))
    | write => exact .withEa (eaMode_stacks h) fun he => .next (write32_stacks he)
  | movewImm7 => exact .next (writeDr_stacks h)
  | movewImmMem => exact .withEa (bmuEa_stacks h) fun he => .next (write16_stacks he)
  | movew dir =>
    cases dir with
    | read => exact .withEa (memEa_stacks h) fun he => .next (writeLoaded_stacks (read16_stacks he))
    | write => exact .withEa (memEa_stacks h) fun he => .next (write16_stacks he)
  | movewC4Mem dir =>
    cases dir with
    | read => exact .withEa (memEa_stacks h) fun he => .next (writeC4_stacks (read16_stacks he))
    | write => exact .withEa (memEa_stacks h) fun he => .next (write16_stacks he)
  | movewC3 dir =>
    cases dir with
    | read => exact .withEa (eaMode_stacks h) fun he => .next (writeC4_stacks (read16_stacks he))
    | write => exact .withEa (eaMode_stacks h) fun he => .next (write16_stacks he)
  | movet => exact .next (ite_stacks (setR_stacks h) h)
  | movef => exact .next (ite_stacks h (setR_stacks h))
  | moves2f | moves4f => exact .withEa (eaMode_stacks h) fun he => .next (setSrBit_stacks (writeWords_stacks he))
  | movesf => exact .withEa (memEa_stacks h) fun he => .next (setSrBit_stacks (write16_stacks he))
  | moveslEa => exact .withEa (eaMode_stacks h) fun he => .next (setSrBit_stacks (write32_stacks he))
  | moveuwC4 => exact .withEa (memEa_stacks h) fun he => .next (writeC4_stacks (read16_stacks he))
  | moveuw => exact .withEa (memEa_stacks h) fun he => .next (writeLoaded_stacks (read16_stacks he))
  | vsl2f | vsl2w => exact .withEa (eaMode_stacks h) fun he => .next (write32_stacks he)
  | vsl4f | vsl4w => exact .withEa (eaMode_stacks h) fun he => .next (writeTwoLongs_stacks he)
  -- the stack (R391 to R394)
  | popEven => exact .next (setEven_stacks (moveSp_stacks (popLong_stacks h)))
  | popOdd => exact .next (setOdd_stacks (moveSp_stacks (popLong_stacks h)))
  | popnEven => exact .next (setEven_stacks (moveNsp_stacks (popLong_stacks h)))
  | popnOdd => exact .next (setOdd_stacks (moveNsp_stacks (popLong_stacks h)))
  | pushEven | pushOdd => exact .next (moveSp_stacks (pushLong_stacks h))
  | pushnEven | pushnOdd => exact .next (moveNsp_stacks (pushLong_stacks h))
  -- bit masks (R395 to R415)
  | bmclrDr | bmsetDr | bmchgDr | andDr | eorDr | notDr | orDr => exact .next (changeDr_stacks h)
  | bmclrC1 | bmsetC1 | bmchgC1 => exact .next (changeC1_stacks h)
  | bmclrMem | bmsetMem | bmchgMem | andMem | eorMem | notMem | orMem => exact changeMem_endsAligned h
  | bmtstcDr | bmtstcC1 | bmtstsDr | bmtstsC1 => exact .next (setT_stacks h)
  | bmtstcMem | bmtstsMem => exact testMem_endsAligned h
  | bmtsetDr => exact .next (setT_stacks (changeDr_stacks h))
  | bmtsetMem => exact .withEa (bmuEa_stacks h) fun he => .next (setT_stacks (write16_read16_stacks he))
  -- changes of flow (R420 to R447)
  | bra | jmp => exact .next (jumpTo_stacks h)
  | bsr | jsr => exact .next (callTo_stacks h)
  | bt | bf | jt | jf => exact .next (jumpIf_stacks h)
  | brad | bsrd | btd | bfd | jmpd | jsrd | jtd | jfd => exact .next (delayed_stacks h)
  | rte => exact .next (returnFromException_stacks h)
  | rted => exact .next (delayed_stacks (setSp_stacks (note_stacks (load32_stacks (load32_stacks h)))))
  | rts => exact .next (jumpTo_stacks (subReturn_stacks h))
  | rtsd => exact .next (delayed_stacks (subReturn_stacks h))
  | rtstk => exact .next (jumpTo_stacks (stackReturn_stacks h))
  | rtstkd => exact .next (delayed_stacks (stackReturn_stacks h))
  | trap => exact execTrap_endsAligned h
  -- loops (R450 to R457)
  | break_ => exact execBreak_endsAligned h
  | skipls => exact execSkipls_endsAligned h
  | contd => exact execContd_endsAligned h
  | cont => exact execCont_endsAligned h
  | dosetup => exact .next (setSa_stacks h)
  | doen => exact .next (setSrBit_stacks (setLc_stacks h))
  | doensh => exact .next (setSrBit_stacks (setSrBit_stacks (setLc_stacks h)))
  -- program control, conditions and marks of a set (R470 to R482)
  | illegal => exact .next (illegalInstruction_stacks h)
  | prefix1 | prefix2 => exact .next (ite_stacks (marks_stacks (withIfc_stacks h)) (illegalInstruction_stacks h))
  | ifa | iff | ift => exact .next (withIfc_stacks h)
  | lpmarka | lpmarkb => exact .next (marks_stacks h)
  | debug => exact .next (debugRequest_stacks h)
  | debugev => exact .next (ite_stacks h h)
  | di | ei => exact .next (setSrBit_stacks h)
  | mark => exact .next (markTrace_stacks h)
  | stop | wait | nop => exact .next h

end

/-- A multiple of 8 reads with its three low bits 0. -/
theorem low_bits_of_spMask {z : Word} (h : z &&& spMask = z) : z.extractLsb' 0 3 = 0#3 := by
  have h8 : z.toNat % 8 = 0 := (spMask_iff z).mp h
  apply BitVec.eq_of_toNat_eq
  simpa [BitVec.extractLsb'_toNat] using h8

/-- Settles O30: the pointers are written through their mask, and every instruction ends in updates that keep them aligned. -/
theorem stackPointersAreMultiplesOf8 : Obligations.StackPointersAreMultiplesOf8 := by
  refine ⟨fun s v => ⟨setNsp_nsp s v, setEsp_esp s v⟩, fun i s t hs hexec => ?_⟩
  have ht : StacksAligned t := exec_endsAligned hs i t hexec
  exact ⟨ht, low_bits_of_spMask ht.1, low_bits_of_spMask ht.2⟩

end Sys2Proof.Machine
end

section
/-! The limit tag bit by bit (O11; spec/40_dalu_arith.md R201).  An arithmetic shift right by k moves the bits 39..k to the bottom and
fills the rest with copies of bit 39, so the shifted value is all zeros or all ones exactly if the bits 39..k are all equal. -/

namespace Sys2Proof.Machine

/-- What is left of a value after its shift right by `k`: bit `k + i`, and beyond the top copies of bit 39. -/
theorem getElem_sshiftRight_eq_getLsbD_min (v : DWord) (k i : Nat) (hi : i < 40) :
    (v.sshiftRight k)[i] = v.getLsbD (min (k + i) 39) := by
  rw [BitVec.getElem_sshiftRight]
  split
  · next hlt => rw [min_eq_left (by omega), BitVec.getLsbD_eq_getElem hlt]
  · next hge => rw [min_eq_right (by omega), BitVec.msb_eq_getLsbD_last]

/-- Every bit of the shifted value is `b` exactly if the bits 39..k are. -/
theorem sshiftRight_all_iff (v : DWord) {k : Nat} (hk : k ≤ 39) (b : Bool) :
    (∀ i (hi : i < 40), (v.sshiftRight k)[i] = b) ↔ ∀ i, k ≤ i → i ≤ 39 → v.getLsbD i = b := by
  simp only [getElem_sshiftRight_eq_getLsbD_min]
  constructor
  · intro h i hki hi
    have hbit : v.getLsbD (min (k + (i - k)) 39) = b := h (i - k) (by omega)
    rwa [show min (k + (i - k)) 39 = i by omega] at hbit
  · intro h i _
    exact h (min (k + i) 39) (by omega) (by omega)

theorem sshiftRight_eq_zero_iff (v : DWord) {k : Nat} (hk : k ≤ 39) :
    v.sshiftRight k = 0#40 ↔ ∀ i, k ≤ i → i ≤ 39 → v.getLsbD i = false := by
  rw [← sshiftRight_all_iff v hk, BitVec.eq_of_getElem_eq_iff]
  simp only [BitVec.getElem_zero]

theorem sshiftRight_eq_allOnes_iff (v : DWord) {k : Nat} (hk : k ≤ 39) :
    v.sshiftRight k = BitVec.allOnes 40 ↔ ∀ i, k ≤ i → i ≤ 39 → v.getLsbD i = true := by
  rw [← sshiftRight_all_iff v hk, BitVec.eq_of_getElem_eq_iff]
  simp only [BitVec.getElem_allOnes]

/-- Bits that are all equal are all clear or all set: which of the two, bit 39 says. -/
theorem topEqual_iff_all_clear_or_set (v : DWord) {k : Nat} (hk : k ≤ 39) :
    TopEqual k v ↔
      (∀ i, k ≤ i → i ≤ 39 → v.getLsbD i = false) ∨ (∀ i, k ≤ i → i ≤ 39 → v.getLsbD i = true) := by
  constructor
  · intro h
    cases hb : v.getLsbD 39 with
    | false => exact .inl fun i hki hi => (h i hki hi).trans hb
    | true => exact .inr fun i hki hi => (h i hki hi).trans hb
  · rintro (h | h) i hki hi <;> rw [h i hki hi, h 39 hk le_rfl]

/-- The test of R201 on the bits 39..k is clear exactly if they are all equal. -/
theorem lnFrom_eq_false_iff (v : DWord) {k : Nat} (hk : k ≤ 39) : lnFrom v k = false ↔ TopEqual k v := by
  rw [topEqual_iff_all_clear_or_set v hk, ← sshiftRight_eq_zero_iff v hk, ← sshiftRight_eq_allOnes_iff v hk]
  simp only [lnFrom, Bool.and_eq_false_iff, bne_eq_false_iff_eq]

/-- `LnCalc` without scaling. -/
theorem lnCalc_of_scaling_zero {s : State} (h : scaling s = 0) (v : DWord) : lnCalc s v = lnFrom v 31 := by
  simp only [lnCalc, h]

/-- `LnCalc` when scaling down. -/
theorem lnCalc_of_scaling_one {s : State} (h : scaling s = 1) (v : DWord) : lnCalc s v = lnFrom v 32 := by
  simp only [lnCalc, h]

/-- `LnCalc` when scaling up. -/
theorem lnCalc_of_scaling_two {s : State} (h : scaling s = 2) (v : DWord) : lnCalc s v = lnFrom v 30 := by
  simp only [lnCalc, h]

/-- Settles O11: in each scaling mode `LnCalc` is the test of R201 from that mode's lowest bit, as `LnCalcNoScale` is from bit 31. -/
theorem limitTagOfAValue : Obligations.LimitTagOfAValue := by
  intro s v
  refine ⟨fun h => ?_, fun h => ?_, fun h => ?_, lnFrom_eq_false_iff v (by decide)⟩
  · rw [lnCalc_of_scaling_zero h, lnFrom_eq_false_iff v (by decide)]
  · rw [lnCalc_of_scaling_one h, lnFrom_eq_false_iff v (by decide)]
  · rw [lnCalc_of_scaling_two h, lnFrom_eq_false_iff v (by decide)]

end Sys2Proof.Machine
end

section
/-! A one-word instruction from its row (spec/30_encoding.md R178).  Rows whose fixed bits differ at a common place match no word
together, so a row decodes the words that match it as soon as every row before it in the table differs from it in such a bit. -/

namespace Sys2Proof

/-- Two rows have a bit that both fix, at different values. -/
def Row.apart (r q : Row) : Bool := (r.mat ^^^ q.mat) &&& r.mask &&& q.mask != 0

/-- A word matches at most one of two rows that are apart. -/
theorem Row.not_hits_of_apart {r q : Row} {w : Nat} (hapart : r.apart q = true) (hr : r.hits w = true) : q.hits w = false := by
  by_contra hq
  simp only [Row.hits, Bool.not_eq_false, beq_iff_eq] at hr hq
  have hsame : (r.mat ^^^ q.mat) &&& r.mask &&& q.mask = 0 := by
    apply Nat.eq_of_testBit_eq
    intro i
    simp only [← hr, ← hq, Nat.testBit_and, Nat.testBit_xor, Nat.zero_testBit]
    cases w.testBit i <;> cases r.mask.testBit i <;> cases q.mask.testBit i <;> rfl
  simp [Row.apart, hsame] at hapart

/-- The first row that is not apart from `r` is `r` itself: every row before it is apart from it. -/
def Row.LeadsIn (r : Row) (rows : List Row) : Prop := rows.find? (fun q => !r.apart q) = some r

/-- The search for a row ends at the row that the word matches, if no row before it can match the word. -/
theorem Row.LeadsIn.find?_hits {r : Row} {rows : List Row} {w : Nat} (hlead : r.LeadsIn rows) (hr : r.hits w = true) :
    rows.find? (·.hits w) = some r := by
  obtain ⟨-, before, after, hrows, hbefore⟩ := List.find?_eq_some_iff_append.mp hlead
  refine List.find?_eq_some_iff_append.mpr ⟨hr, before, after, hrows, fun q hq => ?_⟩
  have hapart : r.apart q = true := by simpa using hbefore q hq
  rw [Row.not_hits_of_apart hapart hr, Bool.not_false]

/-- A single word is read by the one-word rows alone. -/
theorem findRow_single (w : Nat) : findRow [w] = (rows1.find? (·.hits w)).map fun r => (r, w) := rfl

/-- A word that matches a one-word row decodes to what the row builds. -/
theorem decodeAt_single {r : Row} {k : Bank} {w : Nat} {i : Instr} (hlead : r.LeadsIn rows1) (hr : r.hits w = true)
    (hbuild : r.build k (r.unpack w) = some i) : decodeAt k [w] = some (named i, r.words) := by
  rw [decodeAt, findRow_single, hlead.find?_hits hr]
  simp only [Option.map_some, hbuild]

/-- The three bits from bit 7 on of a word with a register code put there. -/
theorem getField_codeAt7 {w n a : Nat} (hw7 : w / 128 % 8 = 0) (hn : n < 8) (ha : w % 128 + a < 128) :
    getField (w + 128 * n + a) [(7, 3)] = n := by
  simp only [getField, List.foldl_cons, List.foldl_nil, Nat.shiftRight_eq_div_pow]
  omega

/-- The three low bits of a word with a register code put there. -/
theorem getField_codeAt0 {w n a : Nat} (hw0 : w % 8 = 0) (ha : a < 8) : getField (w + 128 * n + a) [(0, 3)] = a := by
  simp only [getField, List.foldl_cons, List.foldl_nil, Nat.shiftRight_zero]
  omega

end Sys2Proof

namespace Sys2Proof.Machine

/-- The words of a Type 2 row with Da in bits 2:0 and Dn in bits 9:7 (R160, R161): `w` is the word with both codes 0. -/
theorem daDnWords_of_row {r : Row} {w : Nat} {f : DReg → DReg → Instr} (hlead : r.LeadsIn rows1) (hwords : r.words = 1)
    (hfields : r.fields = [[(0, 3)], [(7, 3)]]) (hw : w % 8 = 0 ∧ w / 128 % 8 = 0)
    (hits : ∀ a n : Fin 8, r.hits (w + 128 * n.val + a.val) = true)
    (hbuild : ∀ a n, r.build Bank.zero [a, n] = some (f (regOf false a) (regOf false n)))
    (hnamed : ∀ a n, named (f a n) = f a n) : DaDnWords w f := by
  intro a n
  obtain ⟨hw0, hw7⟩ := hw
  have hunpack : r.unpack (w + 128 * n.val + a.val) = [a.val, n.val] := by
    simp only [Row.unpack, hfields, List.map_cons, List.map_nil, getField_codeAt0 hw0 a.isLt,
      getField_codeAt7 hw7 n.isLt (show w % 128 + a.val < 128 by omega)]
  rw [decodeAt_single hlead (hits a n) (by rw [hunpack, hbuild]), hnamed, hwords]

/-- The words of a row with Dn in bits 9:7 alone: `w` is the word with its code 0. -/
theorem dnWords_of_row {r : Row} {w : Nat} {f : DReg → Instr} (hlead : r.LeadsIn rows1) (hwords : r.words = 1)
    (hfields : r.fields = [[(7, 3)]]) (hw7 : w / 128 % 8 = 0) (hits : ∀ n : Fin 8, r.hits (w + 128 * n.val) = true)
    (hbuild : ∀ n, r.build Bank.zero [n] = some (f (regOf false n))) (hnamed : ∀ n, named (f n) = f n) : DnWords w f := by
  intro n
  have hunpack : r.unpack (w + 128 * n.val) = [n.val] := by
    simp only [Row.unpack, hfields, List.map_cons, List.map_nil]
    rw [← Nat.add_zero (w + 128 * n.val), getField_codeAt7 hw7 n.isLt (Nat.mod_lt w (by decide))]
  rw [decodeAt_single hlead (hits n) (by rw [hunpack, hbuild]), hnamed, hwords]

end Sys2Proof.Machine
end

section
/-! NOT, OR, EOR and the extensions of data registers (O19, O20; spec/42_dalu_logical.md R296, R304, R305, R308 to R313).  Each ends in
one write of the bit-field unit, whose frame and result are said once; the zero-extensions are masks. -/

namespace Sys2Proof.Machine

/-! ### Results of the bit-field unit -/

/-- A write of the bit-field unit: the bits to Dn, its limit tag clear, nothing else. -/
theorem writeBits_bits (s : State) (n : DReg) (v : DWord) : Bits n v 0#32 s (writeBits s n v) :=
  ⟨setD_frame s n v false, dreg_setD_same s n v false, ltag_setD_same s n v false⟩

/-- An instruction that ends in a write of the bit-field unit completes with that write. -/
theorem runs_of_writeBits {i : Instr} {s : State} {n : DReg} {v : DWord} (h : exec i s = .next (writeBits s n v)) :
    Runs i s fun t => Bits n v 0#32 s t :=
  ⟨_, h, writeBits_bits s n v⟩

/-- The zero-extension of the `k` low bits masks the bits above them. -/
theorem setWidth_low_eq_and_mask (v : DWord) {k : Nat} (hk : k ≤ 40) :
    (v.extractLsb' 0 k).setWidth 40 = v &&& BitVec.ofNat 40 (2 ^ k - 1) := by
  have hpow : 2 ^ k ≤ 2 ^ 40 := Nat.pow_le_pow_right (by decide) hk
  have hpos : 0 < 2 ^ k := Nat.two_pow_pos k
  have hlow : v.toNat % 2 ^ k < 2 ^ 40 := (Nat.mod_lt _ hpos).trans_le hpow
  have hmask : 2 ^ k - 1 < 2 ^ 40 := by omega
  apply BitVec.eq_of_toNat_eq
  rw [BitVec.toNat_setWidth, BitVec.extractLsb'_toNat, BitVec.toNat_and, BitVec.toNat_ofNat, Nat.shiftRight_zero,
    Nat.mod_eq_of_lt hlow, Nat.mod_eq_of_lt hmask, Nat.and_two_pow_sub_one_eq_mod]

/-! ### What each instruction writes -/

section
variable (a n : DReg) (s : State)

theorem exec_notReg : exec (.notReg a n) s = .next (writeBits s n (~~~(dreg s a))) := rfl
theorem exec_orReg : exec (.orReg a n) s = .next (writeBits s n (dreg s a ||| dreg s n)) := rfl
theorem exec_eorReg : exec (.eorReg a n) s = .next (writeBits s n (dreg s a ^^^ dreg s n)) := rfl
theorem exec_sxtB : exec (.sxtB a n) s = .next (writeBits s n (((dreg s a).extractLsb' 0 8).signExtend 40)) := rfl
theorem exec_sxtW : exec (.sxtW a n) s = .next (writeBits s n (((dreg s a).extractLsb' 0 16).signExtend 40)) := rfl
theorem exec_sxtL : exec (.sxtL n) s = .next (writeBits s n (((dreg s n).extractLsb' 0 32).signExtend 40)) := rfl

theorem exec_zxtB : exec (.zxtB a n) s = .next (writeBits s n (dreg s a &&& 0xFF#40)) :=
  congrArg (fun v => Host.Outcome.next (writeBits s n v)) (setWidth_low_eq_and_mask (dreg s a) (k := 8) (by decide))
theorem exec_zxtW : exec (.zxtW a n) s = .next (writeBits s n (dreg s a &&& 0xFFFF#40)) :=
  congrArg (fun v => Host.Outcome.next (writeBits s n v)) (setWidth_low_eq_and_mask (dreg s a) (k := 16) (by decide))
theorem exec_zxtL : exec (.zxtL n) s = .next (writeBits s n (dreg s n &&& 0xFFFFFFFF#40)) :=
  congrArg (fun v => Host.Outcome.next (writeBits s n v)) (setWidth_low_eq_and_mask (dreg s n) (k := 32) (by decide))

end

/-! ### The words of each instruction -/

theorem notReg_words : DaDnWords 0xD800 fun a n => .notReg a n :=
  daDnWords_of_row (r := rowNotReg) rfl rfl rfl (by decide) (by decide) (fun _ _ => rfl) fun _ _ => rfl
theorem orReg_words : DaDnWords 0xDC18 fun a n => .orReg a n :=
  daDnWords_of_row (r := rowOrReg) rfl rfl rfl (by decide) (by decide) (fun _ _ => rfl) fun _ _ => rfl
theorem eorReg_words : DaDnWords 0xDC10 fun a n => .eorReg a n :=
  daDnWords_of_row (r := rowEorReg) rfl rfl rfl (by decide) (by decide) (fun _ _ => rfl) fun _ _ => rfl

section
variable {w : Nat}

theorem sxtB_words (hw : w = 0x3460 ∨ w = 0x7460) : DaDnWords w fun a n => .sxtB a n :=
  daDnWords_of_row (r := rowSxtB) rfl rfl rfl (by omega) (by rcases hw with rfl | rfl <;> decide) (fun _ _ => rfl) fun _ _ => rfl
theorem sxtW_words (hw : w = 0x3460 ∨ w = 0x7460) : DaDnWords (w + 0x10) fun a n => .sxtW a n :=
  daDnWords_of_row (r := rowSxtW) rfl rfl rfl (by omega) (by rcases hw with rfl | rfl <;> decide) (fun _ _ => rfl) fun _ _ => rfl
theorem zxtB_words (hw : w = 0x3460 ∨ w = 0x7460) : DaDnWords (w + 0x8) fun a n => .zxtB a n :=
  daDnWords_of_row (r := rowZxtB) rfl rfl rfl (by omega) (by rcases hw with rfl | rfl <;> decide) (fun _ _ => rfl) fun _ _ => rfl
theorem zxtW_words (hw : w = 0x3460 ∨ w = 0x7460) : DaDnWords (w + 0x18) fun a n => .zxtW a n :=
  daDnWords_of_row (r := rowZxtW) rfl rfl rfl (by omega) (by rcases hw with rfl | rfl <;> decide) (fun _ _ => rfl) fun _ _ => rfl
theorem zxtL_words (hw : w = 0x2460 ∨ w = 0x6460) : DnWords w fun n => .zxtL n :=
  dnWords_of_row (r := rowZxtL) rfl rfl rfl (by omega) (by rcases hw with rfl | rfl <;> decide) (fun _ => rfl) fun _ => rfl
theorem sxtL_words (hw : w = 0x2460 ∨ w = 0x6460) : DnWords (w + 1) fun n => .sxtL n :=
  dnWords_of_row (r := rowSxtL) rfl rfl rfl (by omega) (by rcases hw with rfl | rfl <;> decide) (fun _ => rfl) fun _ => rfl

end

/-- Settles O19: each of the three has its row, and ends in the write of its bitwise result; EOR of a register with itself gives 0. -/
theorem notOrEor : Obligations.NotOrEor := by
  refine ⟨notReg_words, orReg_words, eorReg_words, fun a n s => runs_of_writeBits (exec_notReg a n s),
    fun a n s => runs_of_writeBits (exec_orReg a n s), fun a n s => runs_of_writeBits (exec_eorReg a n s), fun n s => ?_⟩
  obtain ⟨t, hexec, -, hvalue, -⟩ := runs_of_writeBits (exec_eorReg n n s)
  exact ⟨t, hexec, hvalue.trans BitVec.xor_self⟩

/-- Settles O20: each of the six has its row, and ends in the write of its extension. -/
theorem signAndZeroExtension : Obligations.SignAndZeroExtension :=
  ⟨fun _ hw => ⟨sxtB_words hw, sxtW_words hw, zxtB_words hw, zxtW_words hw⟩, fun _ hw => ⟨zxtL_words hw, sxtL_words hw⟩,
    fun a n s => runs_of_writeBits (exec_sxtB a n s), fun a n s => runs_of_writeBits (exec_sxtW a n s),
    fun n s => runs_of_writeBits (exec_sxtL n s), fun a n s => runs_of_writeBits (exec_zxtB a n s),
    fun a n s => runs_of_writeBits (exec_zxtW a n s), fun n s => runs_of_writeBits (exec_zxtL n s)⟩

end Sys2Proof.Machine
end

section
/-! The words of an instruction with one AGU register Rx in bits 11:8 (spec/30_encoding.md R171, R178).  The RRRR codes 0 to 3 name
N0..N3, 7 names SP and 8 to 15 name R0..R7; a row with that single field gives one word per code. -/

namespace Sys2Proof

theorem rxOf_nCode (h : Bool) (k : Fin 4) : rxOf h k = some (.n k) := by
  simp only [rxOf, if_pos k.isLt, Fin.ofNat_val_eq_self]

theorem rxOf_spCode (h : Bool) : rxOf h 7 = some .sp := rfl

theorem rxOf_rCode (h : Bool) (n : Nat) : rxOf h (8 + n) = some (.r (regOf h n)) := by
  rw [rxOf, if_neg (by omega), if_neg (by omega), if_neg (by omega), regOf, regOf, Nat.add_mod_left]

/-- The four bits from bit 8 on of a word with a register code put there. -/
theorem getField_codeAt8 {w c : Nat} (hw8 : w / 256 % 16 = 0) (hc : c < 16) : getField (w + 256 * c) [(8, 4)] = c := by
  simp only [getField, List.foldl_cons, List.foldl_nil, Nat.shiftRight_eq_div_pow]
  omega

end Sys2Proof

namespace Sys2Proof.Machine

/-- The words of a row with Rx in bits 11:8 alone (R171): `w` is the word with its code 0. -/
theorem rxWords_of_row {r : Row} {w : Nat} {f : Rx → Instr} (hlead : r.LeadsIn rows1) (hwords : r.words = 1)
    (hfields : r.fields = [[(8, 4)]]) (hw8 : w / 256 % 16 = 0) (hits : ∀ c : Fin 16, r.hits (w + 256 * c.val) = true)
    (hbuild : ∀ c, r.build Bank.zero [c] = (rxOf false c).map f) (hnamed : ∀ x, named (f x) = f x) : RxWords w f := by
  have hword : ∀ c, c < 16 → ∀ x, rxOf false c = some x → decodeAt Bank.zero [w + 256 * c] = some (f x, 1) := by
    intro c hc x hx
    have hunpack : r.unpack (w + 256 * c) = [c] := by
      simp only [Row.unpack, hfields, List.map_cons, List.map_nil, getField_codeAt8 hw8 hc]
    rw [decodeAt_single hlead (hits ⟨c, hc⟩) (by rw [hunpack, hbuild, hx, Option.map_some]), hnamed, hwords]
  exact ⟨fun k => hword k (by omega) _ (rxOf_nCode false k), hword 7 (by omega) _ (rxOf_spCode false),
    fun n => hword (8 + n) (by omega) _ (rxOf_rCode false n)⟩

end Sys2Proof.Machine
end

section
/-! The tests of an AGU register (O27; spec/43_agu_arith.md R341 to R344).  Each ends in one write of T; what remains is to read the
model's conditions as the statement's: the low word as bits 15..0, and not negative as bit 31 clear. -/

namespace Sys2Proof.Machine

/-- A test writes T alone, and T reads as its outcome (R206). -/
theorem setT_tests (s : State) (b : Bool) : Tests b s (setT s b) := ⟨setT_frame s b, tBit_setT s b⟩

/-- An instruction that ends in a write of T completes as a test with that outcome. -/
theorem runs_of_setT {i : Instr} {s : State} {b : Bool} (h : exec i s = .next (setT s b)) : Runs i s (Tests b s) :=
  ⟨_, h, setT_tests s b⟩

/-- SP reads as the stack pointer that EXP, bit 18 of SR, selects (R30). -/
theorem rxVal_sp (s : State) : rxVal s .sp = if s.sr.getLsbD 18 then s.esp else s.nsp := rfl

/-- A word is not negative exactly if its bit 31 is clear (R343). -/
theorem decide_zero_le_toInt (v : Word) : decide (0 ≤ v.toInt) = !v.getLsbD 31 := by
  have hsign : v.getLsbD 31 = decide (v.toInt < 0) := by rw [← BitVec.msb_eq_toInt, BitVec.msb_eq_getLsbD_last]
  rw [hsign, ← decide_not, decide_eq_decide, not_lt]

/-! ### What each test writes -/

section
variable (x : Rx) (s : State)

theorem exec_tsteqaL : exec (.tsteqaL x) s = .next (setT s (decide (rxVal s x = 0#32))) := rfl
theorem exec_tsteqaW : exec (.tsteqaW x) s = .next (setT s (decide ((rxVal s x).extractLsb' 0 16 = 0#16))) := by
  rw [← BitVec.setWidth_eq_extractLsb' (by decide)]
  rfl
theorem exec_tstgeaL : exec (.tstgeaL x) s = .next (setT s (!(rxVal s x).getLsbD 31)) := by
  rw [← decide_zero_le_toInt]
  rfl
theorem exec_tstgta : exec (.tstgta x) s = .next (setT s (decide (0 < (rxVal s x).toInt))) := rfl

end

/-! ### The words of each test -/

theorem tsteqaL_words : RxWords 0xE0F1 fun x => .tsteqaL x :=
  rxWords_of_row (r := rowTsteqaL) rfl rfl rfl (by decide) (by decide) (fun _ => rfl) fun _ => rfl
theorem tsteqaW_words : RxWords 0xE0F0 fun x => .tsteqaW x :=
  rxWords_of_row (r := rowTsteqaW) rfl rfl rfl (by decide) (by decide) (fun _ => rfl) fun _ => rfl
theorem tstgeaL_words : RxWords 0xE0F3 fun x => .tstgeaL x :=
  rxWords_of_row (r := rowTstgeaL) rfl rfl rfl (by decide) (by decide) (fun _ => rfl) fun _ => rfl
theorem tstgta_words : RxWords 0xE0F2 fun x => .tstgta x :=
  rxWords_of_row (r := rowTstgta) rfl rfl rfl (by decide) (by decide) (fun _ => rfl) fun _ => rfl

/-- Settles O27: each of the four tests has its row, and ends in the write of its outcome to T. -/
theorem aguTests : Obligations.AguTests :=
  ⟨tsteqaL_words, tsteqaW_words, tstgeaL_words, tstgta_words, rxVal_sp, fun x s =>
    ⟨runs_of_setT (exec_tsteqaL x s), runs_of_setT (exec_tsteqaW x s), runs_of_setT (exec_tstgeaL x s),
      runs_of_setT (exec_tstgta x s)⟩⟩

end Sys2Proof.Machine
end

section
/-! What one instruction may change, told against the state before it (O8, O9, O10; spec/70_reset_and_hazards.md R610 to R612).  Every
update of a meaning stays within a list of registers and a set of SR bits; a meaning is a chain of updates that all stay within the
effects listed for its instruction. -/

namespace Sys2Proof.Machine

/-! ### Words without bits outside a mask -/

theorem masked_iff (x m : Word) : x &&& m = x ↔ ∀ i, x.getLsbD i = true → m.getLsbD i = true := by
  constructor
  · intro h i hi
    rw [← h, BitVec.getLsbD_and, Bool.and_eq_true] at hi
    exact hi.2
  · intro h
    apply BitVec.eq_of_getLsbD_eq
    intro i _
    cases hx : x.getLsbD i <;> simp [hx, h i]

/-- A bit of the mask can be written freely. -/
theorem withBit_masked {x m : Word} (h : x &&& m = x) {i : Nat} (hi : i < 32) (hm : m.getLsbD i = true) (b : Bool) :
    withBit x i b &&& m = withBit x i b := by
  rw [masked_iff] at h ⊢
  intro j hj
  rw [getLsbD_withBit x i b j hi] at hj
  split at hj
  · next heq => exact heq ▸ hm
  · exact h j hj

/-- What is cleared inside a mask is not seen outside it. -/
theorem and_not_and_not (x v m : Word) : x &&& ~~~(v &&& m) &&& ~~~m = x &&& ~~~m := by
  apply BitVec.eq_of_getLsbD_eq
  intro i hi
  simp only [BitVec.getLsbD_and, BitVec.getLsbD_not]
  cases m.getLsbD i <;> simp [hi]

theorem and_mask_masked (x m : Word) : x &&& m &&& m = x &&& m := by rw [BitVec.and_assoc, BitVec.and_self]

/-! ### What every update of a meaning keeps -/

/-- From one state to the next: no reserved bit of SR or VBA is set, memory stays canonical, NMID is not set, and the events of the
set that are recorded for EMR are ILIN, ILST and DOVF. -/
structure Keeps (s t : State) : Prop where
  sr : SrLegal s → SrLegal t
  mem : s.mem.wf = true → t.mem.wf = true
  vba : s.vba &&& vbaMask = s.vba → t.vba &&& vbaMask = t.vba
  nmid : t.emr.getLsbD 3 = true → s.emr.getLsbD 3 = true
  events : t.emrEv &&& ~~~7#32 = s.emrEv &&& ~~~7#32

/-- SR, EMR with its recorded events, VBA and memory are as before. -/
def SameControl (s t : State) : Prop := t.sr = s.sr ∧ t.mem = s.mem ∧ t.vba = s.vba ∧ t.emr = s.emr ∧ t.emrEv = s.emrEv

/-- No register, bit of SR or bit of EMR changes. -/
def SameRegs (s t : State) : Prop :=
  t = { t with
    d := s.d, l := s.l, r := s.r, n := s.n, m := s.m, mctl := s.mctl, nsp := s.nsp, esp := s.esp, sa := s.sa, lc := s.lc,
    vba := s.vba, sr := s.sr, emr := s.emr }

theorem SameRegs.untouched {s t : State} (h : SameRegs s t) (ds : List Dest) (b c : Word) : Untouched ds b c s t where
  d _ _ := ⟨(congrArg (dreg · _) h :), (congrArg (ltag · _) h :)⟩
  r _ _ := (congrArg (rreg · _) h :)
  n _ _ := (congrArg (nreg · _) h :)
  m _ _ := (congrArg (mreg · _) h :)
  mctl _ := (congrArg State.mctl h :)
  nsp _ := (congrArg State.nsp h :)
  esp _ := (congrArg State.esp h :)
  sa _ _ := (congrArg (saReg · _) h :)
  lc _ _ := (congrArg (lcReg · _) h :)
  vba _ := (congrArg State.vba h :)
  sr := (congrArg (State.sr · &&& ~~~b) h :)
  emr := (congrArg (State.emr · &&& ~~~c) h :)

theorem Keeps.refl (s : State) : Keeps s s := ⟨id, id, id, id, rfl⟩

theorem Keeps.trans {s t u : State} (h : Keeps s t) (h' : Keeps t u) : Keeps s u :=
  ⟨h'.sr ∘ h.sr, h'.mem ∘ h.mem, h'.vba ∘ h.vba, h.nmid ∘ h'.nmid, h'.events.trans h.events⟩

/-- Only memory of what `Keeps` speaks of changes, and stays canonical. -/
theorem Keeps.of_mem {s t : State} (hmem : s.mem.wf = true → t.mem.wf = true) (hsr : t.sr = s.sr) (hvba : t.vba = s.vba)
    (hemr : t.emr = s.emr) (hev : t.emrEv = s.emrEv) : Keeps s t :=
  ⟨fun h => by rwa [SrLegal, hsr], hmem, fun h => by rwa [hvba], fun h => by rwa [← hemr], by rw [hev]⟩

theorem SameControl.keeps {s t : State} (h : SameControl s t) : Keeps s t := by
  obtain ⟨hsr, hmem, hvba, hemr, hev⟩ := h
  exact .of_mem (fun hm => by rwa [hmem]) hsr hvba hemr hev

/-! ### Within a list of registers and bits -/

/-- From `s` to `t` only the registers `ds`, the bits `b` of SR (and its reserved ones, if `s` had some set) and the sticky bits of EMR
may have changed. -/
structure Within (ds : List Dest) (b : Word) (s t : State) : Prop where
  regs : Untouched ds (b ||| ~~~srMask) 0xF#32 s t
  keeps : Keeps s t

section
variable {ds es : List Dest} {b : Word} {s0 s t : State}

theorem Within.refl (ds : List Dest) (b : Word) (s : State) : Within ds b s s := ⟨.refl _ _ _ _, .refl s⟩

theorem Within.trans (h : Within ds b s0 s) (h' : Within ds b s t) : Within ds b s0 t := by
  refine ⟨(h.regs.trans h'.regs).mono ?_ ?_ ?_, h.keeps.trans h'.keeps⟩
  · intro x hx
    simpa using hx
  · simp
  · simp

/-- An update whose own frame lies inside. -/
theorem Within.step {c e : Word} (h : Within ds b s0 s) (hu : Untouched es c e s t) (hes : ∀ x ∈ es, x ∈ ds)
    (hc : ∀ i : Nat, c.getLsbD i = true → (b ||| ~~~srMask).getLsbD i = true)
    (he : ∀ i : Nat, e.getLsbD i = true → (0xF#32).getLsbD i = true) (hk : Keeps s t) : Within ds b s0 t :=
  h.trans ⟨hu.mono hes hc he, hk⟩

/-- An update of registers. -/
theorem Within.regStep (h : Within ds b s0 s) (hp : Plain es 0#32 s t) (hes : ∀ x ∈ es, x ∈ ds) (hk : SameControl s t) :
    Within ds b s0 t :=
  h.step hp.1 hes (by simp) (by simp) hk.keeps

/-- An update of one register. -/
theorem Within.oneReg {x : Dest} (h : Within ds b s0 s) (hp : Plain [x] 0#32 s t) (hx : x ∈ ds) (hk : SameControl s t) :
    Within ds b s0 t :=
  h.regStep hp (by simpa using hx) hk

/-- An update of what is no register: memory, the EOnCE, the flow and the model's own fields. -/
theorem Within.other (h : Within ds b s0 s) (hu : Untouched [] 0#32 0#32 s t) (hk : Keeps s t) : Within ds b s0 t :=
  h.step hu (by simp) (by simp) (by simp) hk

/-- The end of a chain: no reserved bit of SR was set, so none changed. -/
theorem Within.untouched (h : Within ds b s t) (hs : SrLegal s) : Untouched ds b 0xF#32 s t := by
  have hsr : t.sr &&& ~~~b = s.sr &&& ~~~b := by
    have hboth : t.sr &&& ~~~(b ||| ~~~srMask) = s.sr &&& ~~~(b ||| ~~~srMask) := h.regs.sr
    rw [BitVec.not_or, BitVec.not_not, BitVec.and_comm (~~~b), ← BitVec.and_assoc, ← BitVec.and_assoc, hs, h.keeps.sr hs] at hboth
    exact hboth
  exact { h.regs with sr := hsr }

theorem ite_within {c : Prop} [Decidable c] (hs : Within ds b s0 s) (ht : Within ds b s0 t) :
    Within ds b s0 (if c then s else t) := by
  split
  · exact hs
  · exact ht

/-! ### Updates of registers -/

theorem setD_within (h : Within ds b s0 s) {n : DReg} {v : DWord} {g : Bool} (hn : Dest.d n ∈ ds) : Within ds b s0 (setD s n v g) :=
  h.oneReg (setD_frame s n v g) hn ⟨rfl, rfl, rfl, rfl, rfl⟩

theorem setR_within (h : Within ds b s0 s) {n : RReg} {v : Word} (hn : Dest.r n ∈ ds) : Within ds b s0 (setR s n v) :=
  h.oneReg (setR_frame s n v) hn ⟨rfl, rfl, rfl, rfl, rfl⟩

theorem setN_within (h : Within ds b s0 s) {k : Fin 4} {v : Word} (hk : Dest.n k ∈ ds) : Within ds b s0 (setN s k v) :=
  h.oneReg (setN_frame s k v) hk ⟨rfl, rfl, rfl, rfl, rfl⟩

theorem setM_within (h : Within ds b s0 s) {k : Fin 4} {v : Word} (hk : Dest.m k ∈ ds) : Within ds b s0 (setM s k v) :=
  h.oneReg (setM_frame s k v) hk ⟨rfl, rfl, rfl, rfl, rfl⟩

theorem setSa_within (h : Within ds b s0 s) {k : LoopIx} {v : Word} (hk : Dest.sa k ∈ ds) : Within ds b s0 (setSa s k v) :=
  h.oneReg (setSa_frame s k v) hk ⟨rfl, rfl, rfl, rfl, rfl⟩

theorem setLc_within (h : Within ds b s0 s) {k : LoopIx} {v : Word} (hk : Dest.lc k ∈ ds) : Within ds b s0 (setLc s k v) :=
  h.oneReg (setLc_frame s k v) hk ⟨rfl, rfl, rfl, rfl, rfl⟩

theorem writeMctl_within (h : Within ds b s0 s) {v : Word} (hm : Dest.mctl ∈ ds) : Within ds b s0 (writeMctl s v) :=
  h.oneReg (writeMctl_frame s v) hm ⟨rfl, rfl, rfl, rfl, rfl⟩

theorem writeVba_within (h : Within ds b s0 s) {v : Word} (hv : Dest.vba ∈ ds) : Within ds b s0 (writeVba s v) :=
  h.step (writeVba_frame s v).1 (by simpa using hv) (by simp) (by simp)
    ⟨id, id, fun _ => and_mask_masked v vbaMask, id, rfl⟩

theorem setNsp_within (h : Within ds b s0 s) {v : Word} (hn : Dest.nsp ∈ ds) : Within ds b s0 (setNsp s v) :=
  h.oneReg (setNsp_frame s v) hn ⟨rfl, rfl, rfl, rfl, rfl⟩

theorem setEsp_within (h : Within ds b s0 s) {v : Word} (he : Dest.esp ∈ ds) : Within ds b s0 (setEsp s v) :=
  h.oneReg (setEsp_frame s v) he ⟨rfl, rfl, rfl, rfl, rfl⟩

/-- SP is the one of the two that EXP selects before the instruction; no update before it in a meaning writes SR. -/
theorem setSp_within (h : Within ds b s0 s) {v : Word} (hsr : s.sr = s0.sr) (hd : spDest s0 ∈ ds) : Within ds b s0 (setSp s v) := by
  rw [show spDest s0 = spDest s by rw [spDest, spDest, expMode, expMode, srBit, srBit, hsr]] at hd
  refine h.oneReg (setSp_frame s v) hd ?_
  unfold setSp
  split <;> exact ⟨rfl, rfl, rfl, rfl, rfl⟩

theorem setOsp_within (h : Within ds b s0 s) {v : Word} (hsr : s.sr = s0.sr) (hd : ospDest s0 ∈ ds) :
    Within ds b s0 (setOsp s v) := by
  rw [show ospDest s0 = ospDest s by rw [ospDest, ospDest, expMode, expMode, srBit, srBit, hsr]] at hd
  refine h.oneReg (setOsp_frame s v) hd ?_
  unfold setOsp
  split <;> exact ⟨rfl, rfl, rfl, rfl, rfl⟩

/-! ### Updates of SR and EMR -/

theorem setSrBit_within (h : Within ds b s0 s) {i : Nat} {v : Bool} (hi : i < 32) (hm : srMask.getLsbD i = true)
    (hb : b.getLsbD i = true) : Within ds b s0 (setSrBit s i v) :=
  h.step (setSrBit_frame s i v b hi hb).1 (by simp) (by simp +contextual) (by simp)
    ⟨fun hs => withBit_masked hs hi hm v, id, id, id, rfl⟩

theorem setT_within (h : Within ds b s0 s) {v : Bool} (hb : b.getLsbD 1 = true) : Within ds b s0 (setT s v) :=
  setSrBit_within h (by decide) (by decide) hb

theorem setC_within (h : Within ds b s0 s) {v : Bool} (hb : b.getLsbD 0 = true) : Within ds b s0 (setC s v) :=
  setSrBit_within h (by decide) (by decide) hb

theorem loopFlag_implemented : ∀ n : LoopIx, srMask.getLsbD (27 + n.val) = true := by decide

theorem setLoopFlag_within (h : Within ds b s0 s) {n : LoopIx} {v : Bool} (hb : b.getLsbD (27 + n.val) = true) :
    Within ds b s0 (setLoopFlag s n v) :=
  setSrBit_within h (by omega) (loopFlag_implemented n) hb

theorem setShortLoop_within (h : Within ds b s0 s) {v : Bool} (hb : b.getLsbD 31 = true) : Within ds b s0 (setShortLoop s v) :=
  setSrBit_within h (by decide) (by decide) hb

/-- A write of the whole of SR, by an instruction whose bits are all of SR. -/
theorem writeSr_within (h : Within ds srMask s0 s) {v : Word} : Within ds srMask s0 (writeSr s v) := by
  have hall : srMask ||| ~~~srMask = BitVec.allOnes 32 := by decide
  have hframe : Untouched [] (srMask ||| ~~~srMask) 0#32 s (writeSr s v) := by
    rw [hall]
    constructor <;> intros <;> simp
  exact h.step hframe (by simp) (fun _ hi => hi) (by simp) ⟨fun _ => and_mask_masked v srMask, id, id, id, rfl⟩

/-- EMR changes in sticky bits only, and NMID is not set. -/
theorem Within.emrStep (h : Within ds b s0 s) (hu : Untouched [] 0#32 0xF#32 s t)
    (hk : Keeps s t) : Within ds b s0 t := h.step hu (by simp) (by simp) (fun _ hi => hi) hk

theorem writeEmr_within (h : Within ds b s0 s) {v : Word} : Within ds b s0 (writeEmr s v) := by
  refine h.emrStep ?_ ⟨id, id, id, ?_, rfl⟩
  · constructor <;> intros <;> try simp
    exact and_not_and_not s.emr v 0xF#32
  · intro hbit
    simp only [writeEmr, BitVec.getLsbD_and, Bool.and_eq_true] at hbit
    exact hbit.1

/-- EMR with one of its four sticky bits written. -/
theorem emrBit_untouched {s t : State} (i : Fin 4) (v : Bool) (hr : SameRegs { s with emr := withBit s.emr i.val v } t) :
    Untouched [] 0#32 0xF#32 s t := by
  have hsticky : ∀ i : Fin 4, (0xF#32).getLsbD i.val = true := by decide
  have hemr : t.emr = withBit s.emr i.val v := congrArg State.emr hr
  exact { hr.untouched [] 0#32 0xF#32 with
    emr := hemr ▸ withBit_outside s.emr i.val v 0xF#32 (by omega) (hsticky i) }

theorem clearNmid_within (h : Within ds b s0 s) : Within ds b s0 (clearNmid s) := by
  refine h.emrStep (emrBit_untouched 3 false rfl) ⟨id, id, id, ?_, rfl⟩
  intro hbit
  rw [clearNmid, getLsbD_withBit s.emr 3 false 3 (by decide)] at hbit
  exact absurd hbit (by simp)

/-- An event that sets ILIN, ILST or DOVF and records it. -/
theorem event_keeps {s t : State} (i : Fin 3) (hemr : t.emr = withBit s.emr i.val true) (hev : t.emrEv = s.emrEv ||| 1#32 <<< i.val)
    (hsr : t.sr = s.sr) (hmem : t.mem = s.mem) (hvba : t.vba = s.vba) : Keeps s t := by
  refine ⟨fun h => by rwa [SrLegal, hsr], fun h => by rwa [hmem], fun h => by rwa [hvba], fun h => ?_, ?_⟩
  · rwa [hemr, getLsbD_withBit s.emr i.val true 3 (by omega), if_neg (by omega)] at h
  · rw [hev]
    apply BitVec.eq_of_getLsbD_eq
    intro j hj
    have hlow : ∀ (i : Fin 3) (j : Fin 32), (1#32 <<< i.val).getLsbD j.val = true → (7#32).getLsbD j.val = true := by decide
    simp only [BitVec.getLsbD_and, BitVec.getLsbD_or, BitVec.getLsbD_not, hj, decide_true, Bool.true_and]
    cases hbit : (1#32 <<< i.val).getLsbD j
    · rw [Bool.or_false]
    · rw [hlow i ⟨j, hj⟩ hbit, Bool.not_true, Bool.and_false, Bool.and_false]

theorem overflow_within (h : Within ds b s0 s) : Within ds b s0 (overflow s) :=
  h.emrStep (emrBit_untouched 2 true rfl) (event_keeps 2 rfl rfl rfl rfl rfl)

theorem illegalInstruction_within (h : Within ds b s0 s) : Within ds b s0 (illegalInstruction s) :=
  h.emrStep (emrBit_untouched 0 true rfl) (event_keeps 0 rfl rfl rfl rfl rfl)

theorem illegalSet_within (h : Within ds b s0 s) : Within ds b s0 (illegalSet s) :=
  h.emrStep (emrBit_untouched 1 true rfl) (event_keeps 1 rfl rfl rfl rfl rfl)

/-! ### Updates of what is no register -/

/-- A state that differs in no register, SR, EMR, VBA or memory. -/
theorem Within.same (h : Within ds b s0 s) (hr : SameRegs s t) (hk : SameControl s t) : Within ds b s0 t :=
  h.other (hr.untouched _ _ _) hk.keeps

theorem OnlyEonce.within (ho : OnlyEonce s t) (h : Within ds b s0 s) : Within ds b s0 t := by
  rw [ho]
  exact h.same rfl ⟨rfl, rfl, rfl, rfl, rfl⟩

theorem OnlyMemEonce.within (ho : OnlyMemEonce s t) (hm : s.mem.wf = true → t.mem.wf = true) (h : Within ds b s0 s) :
    Within ds b s0 t := by
  refine h.other (ho.untouched _ _ _) ?_
  rw [ho]
  exact ⟨id, hm, id, id, rfl⟩

theorem DebugOnly.within (hd : DebugOnly s t) (h : Within ds b s0 s) : Within ds b s0 t := by
  obtain ⟨e, q, rfl⟩ := hd
  exact h.same rfl ⟨rfl, rfl, rfl, rfl, rfl⟩

theorem dropRas_within (h : Within ds b s0 s) : Within ds b s0 (dropRas s) :=
  h.same rfl ⟨rfl, rfl, rfl, rfl, rfl⟩

theorem note_within (h : Within ds b s0 s) {x : Access} : Within ds b s0 (note s x) :=
  h.same rfl ⟨rfl, rfl, rfl, rfl, rfl⟩

theorem jumpTo_within (h : Within ds b s0 s) {a : Word} : Within ds b s0 (jumpTo s a) :=
  h.same rfl ⟨rfl, rfl, rfl, rfl, rfl⟩

theorem delayed_within (h : Within ds b s0 s) {d : Delay} : Within ds b s0 (delayed s d) :=
  h.same rfl ⟨rfl, rfl, rfl, rfl, rfl⟩

theorem withIfc_within (h : Within ds b s0 s) {c : BitVec 3} : Within ds b s0 (withIfc s c) :=
  h.same rfl ⟨rfl, rfl, rfl, rfl, rfl⟩

theorem setNspShadow_within (h : Within ds b s0 s) {v : Bool} : Within ds b s0 (setNspShadow s v) :=
  h.same rfl ⟨rfl, rfl, rfl, rfl, rfl⟩

theorem setEspShadow_within (h : Within ds b s0 s) {v : Bool} : Within ds b s0 (setEspShadow s v) :=
  h.same rfl ⟨rfl, rfl, rfl, rfl, rfl⟩

theorem setSpShadow_within (h : Within ds b s0 s) {v : Bool} : Within ds b s0 (setSpShadow s v) :=
  ite_within (setEspShadow_within h) (setNspShadow_within h)

theorem setOspShadow_within (h : Within ds b s0 s) {v : Bool} : Within ds b s0 (setOspShadow s v) :=
  ite_within (setNspShadow_within h) (setEspShadow_within h)

end

end Sys2Proof.Machine
end

section
/-! The composed updates stay within their lists (O8, O9, O10): results of the DALU, operands, accesses, the flow and the marks. -/

namespace Sys2Proof.Machine

section
variable {ds : List Dest} {b : Word} {s0 s : State}

/-! ### Results of the DALU -/

theorem overflowIf_within (h : Within ds b s0 s) {c : Bool} : Within ds b s0 (overflowIf c s) := ite_within (overflow_within h) h

theorem writeSat_within (h : Within ds b s0 s) {n : DReg} {x : Int} {top : DWord} (hn : Dest.d n ∈ ds) :
    Within ds b s0 (writeSat s n x top) :=
  ite_within
    (ite_within (overflow_within (setD_within h hn)) (ite_within (overflow_within (setD_within h hn)) (setD_within h hn)))
    (overflowIf_within (setD_within h hn))

theorem writeArith_within (h : Within ds b s0 s) {n : DReg} {x : Int} (hn : Dest.d n ∈ ds) : Within ds b s0 (writeArith s n x) :=
  writeSat_within h hn

theorem writeRounded_within (h : Within ds b s0 s) {n : DReg} {x : Int} (hn : Dest.d n ∈ ds) :
    Within ds b s0 (writeRounded s n x) := writeSat_within h hn

theorem writeArith6_within (h : Within ds b s0 s) {n : DReg} {x : Int} (hn : Dest.d n ∈ ds) :
    Within ds b s0 (writeArith6 s n x) := overflowIf_within (setD_within h hn)

theorem writeWrap_within (h : Within ds b s0 s) {n : DReg} {x : Int} (hn : Dest.d n ∈ ds) : Within ds b s0 (writeWrap s n x) :=
  overflowIf_within (setD_within h hn)

theorem subRegs_within (h : Within ds b s0 s) {n x y : DReg} (hn : Dest.d n ∈ ds) (hb : b.getLsbD 0 = true) :
    Within ds b s0 (subRegs s n x y) :=
  ite_within (setC_within (setD_within h hn) hb) (setC_within (writeArith_within h hn) hb)

theorem shiftBy_within (h : Within ds b s0 s) {n : DReg} {k : Int} {a : Bool} (hn : Dest.d n ∈ ds) (hb : b.getLsbD 0 = true) :
    Within ds b s0 (shiftBy s n k a) :=
  ite_within (setC_within (setD_within h hn) hb)
    (ite_within (overflowIf_within (setC_within (setD_within h hn) hb)) (setC_within (setD_within h hn) hb))

theorem shiftReg_within (h : Within ds b s0 s) {n : DReg} {k : Int} {a : Bool} (hn : Dest.d n ∈ ds) (hb : b.getLsbD 0 = true) :
    Within ds b s0 (shiftReg s n k a) :=
  ite_within (shiftBy_within h hn hb) (overflowIf_within (setC_within (setD_within h hn) hb))

/-! ### Register operands -/

theorem setRx_within (h : Within ds b s0 s) {x : Rx} {v : Word} (hsr : s.sr = s0.sr) (hx : ∀ y ∈ rxDests s0 x, y ∈ ds) :
    Within ds b s0 (setRx s x v) := by
  cases x with
  | n k => exact setN_within h (hx _ (.head _))
  | sp => exact setSpShadow_within (dropRas_within (setSp_within h hsr (hx _ (.head _))))
  | r n => exact setR_within h (hx _ (.head _))

theorem setDs_within {xs : List (DReg × DWord)} (h : Within ds b s0 s) (hxs : ∀ x ∈ xs, Dest.d x.1 ∈ ds) :
    Within ds b s0 (setDs s xs) := by
  induction xs generalizing s with
  | nil => exact h
  | cons x rest ih => exact ih (setD_within h (hxs x (.head _))) fun y hy => hxs y (.tail _ hy)

/-- Registers that are written with the words of an access, in order. -/
theorem setDs_zip_within {rs : List DReg} {vs : List DWord} (h : Within ds b s0 s) (hrs : ∀ r ∈ rs, Dest.d r ∈ ds) :
    Within ds b s0 (setDs s (rs.zip vs)) :=
  setDs_within h fun _ hx => hrs _ (List.of_mem_zip hx).1

theorem writeDr_within (h : Within ds b s0 s) {x : DR} {v : DWord} (hx : ∀ y ∈ drDests x, y ∈ ds) : Within ds b s0 (writeDr s x v) := by
  cases x with
  | d n => exact setD_within h (hx _ (.head _))
  | r n => exact setR_within h (hx _ (.head _))

theorem writeLoaded_within (h : Within ds b s0 s) {m : Mem} {x : DR} {v : DWord} (hx : ∀ y ∈ drDests x, y ∈ ds) :
    Within ds b s0 (writeLoaded s m x v) :=
  ite_within (writeDr_within h hx) (writeDr_within h hx)

theorem writeC4_within (h : Within ds b s0 s) {x : C4} {v : DWord} (hx : ∀ y ∈ c4Dests x, y ∈ ds) : Within ds b s0 (writeC4 s x v) := by
  cases x with
  | d n => exact setD_within h (hx _ (.head _))
  | r n | b n => exact setR_within h (hx _ (.head _))
  | n k => exact setN_within h (hx _ (.head _))
  | m k => exact setM_within h (hx _ (.head _))

theorem setC1_within {x : C1} (h : Within (c1Dests x) (c1Sr x) s0 s) {v : Word} : Within (c1Dests x) (c1Sr x) s0 (setC1 s x v) := by
  cases x with
  | emr => exact writeEmr_within h
  | vba => exact writeVba_within h (.head _)
  | sr => exact writeSr_within h
  | mctl => exact writeMctl_within h (.head _)

theorem changeC1_within {x : C1} (h : Within (c1Dests x) (c1Sr x) s0 s) {p : Half} {f : Word16 → Word16} :
    Within (c1Dests x) (c1Sr x) s0 (changeC1 s x p f) := by
  cases x with
  | emr => exact writeEmr_within h
  | vba => exact writeVba_within h (.head _)
  | sr => exact writeSr_within h
  | mctl => exact writeMctl_within h (.head _)

theorem setC2_within {x : C2} (h : Within (c2Dests x) (c2Sr x) s0 s) {v : Word} : Within (c2Dests x) (c2Sr x) s0 (setC2 s x v) := by
  cases x with
  | emr => exact writeEmr_within h
  | vba => exact writeVba_within h (.head _)
  | sr => exact writeSr_within h
  | mctl => exact writeMctl_within h (.head _)
  | sa k => exact setSa_within h (.head _)
  | lc k => exact setLc_within h (.head _)

theorem changeDr_within (h : Within ds b s0 s) {x : DR} {p : Half} {f : Word16 → Word16} (hx : ∀ y ∈ drDests x, y ∈ ds) :
    Within ds b s0 (changeDr s x p f) := by
  cases x with
  | d n => exact setD_within h (hx _ (.head _))
  | r n => exact setR_within h (hx _ (.head _))

theorem setExt_within (h : Within ds b s0 s) {n : DReg} {v : BitVec 9} (hn : Dest.d n ∈ ds) : Within ds b s0 (setExt s n v) :=
  setD_within h hn

theorem setEven_within (h : Within ds b s0 s) {x : PushEven} {v : Word} (hx : ∀ y ∈ evenDests x, y ∈ ds) :
    Within ds b s0 (setEven s x v) := by
  cases x with
  | d i => exact setD_within h (hx _ (.head _))
  | r i | b i => exact setR_within h (hx _ (.head _))
  | n i => exact setN_within h (hx _ (.head _))
  | m i => exact setM_within h (hx _ (.head _))
  | sa k => exact setSa_within h (hx _ (.head _))
  | ext i => exact setExt_within h (hx _ (.head _))
  | extPair i => exact setExt_within (setExt_within h (hx _ (.head _))) (hx _ (.tail _ (.head _)))

theorem setOdd_within {x : PushOdd} (h : Within ds (oddSr x) s0 s) {v : Word} (hx : ∀ y ∈ oddDests x, y ∈ ds) :
    Within ds (oddSr x) s0 (setOdd s x v) := by
  cases x with
  | d i => exact setD_within h (hx _ (.head _))
  | r i | b i => exact setR_within h (hx _ (.head _))
  | n i => exact setN_within h (hx _ (.head _))
  | m i => exact setM_within h (hx _ (.head _))
  | lc k => exact setLc_within h (hx _ (.head _))
  | ext i => exact setExt_within h (hx _ (.head _))
  | vba => exact writeVba_within h (hx _ (.head _))
  | sr => exact writeSr_within h
  | mctl => exact writeMctl_within h (hx _ (.head _))

/-! ### Effective addresses and data accesses -/

theorem eaMode_within (h : Within ds b s0 s) {m : EaMode} {rn : RReg} {w : Nat} (hd : ∀ y ∈ eaDests m rn, y ∈ ds) :
    Within ds b s0 (eaMode s m rn w).st := by
  refine h.regStep (eaMode_frame s m rn w) hd ?_
  obtain ⟨r, hr⟩ := eaMode_st s m rn w
  rw [hr]
  exact ⟨rfl, rfl, rfl, rfl, rfl⟩

theorem memEa_within (h : Within ds b s0 s) {m : Mem} {w : Nat} (hd : ∀ y ∈ memDests m, y ∈ ds) :
    Within ds b s0 (memEa s m w).st := by
  refine h.regStep (memEa_frame s m w) hd ?_
  obtain ⟨r, hr⟩ := memEa_st s m w
  rw [hr]
  exact ⟨rfl, rfl, rfl, rfl, rfl⟩

theorem extEa_within (h : Within ds b s0 s) {m : ExtMem} : Within ds b s0 (extEa s m).st := (extEa_st s m).symm ▸ h

theorem bmuEa_within (h : Within ds b s0 s) {m : BmuMem} : Within ds b s0 (bmuEa s m).st := (bmuEa_st s m).symm ▸ h

theorem load32_within (h : Within ds b s0 s) {a : Word} {tag : Nat} : Within ds b s0 (load32 s a tag).2 := (load32_only s a tag).within h

theorem store32_within (h : Within ds b s0 s) {a v : Word} : Within ds b s0 (store32 s a v) :=
  (store32_only s a v).within (store32_wf · a v) h

theorem pushLong_within (h : Within ds b s0 s) {a v : Word} : Within ds b s0 (pushLong s a v) := note_within (store32_within h)

theorem popLong_within (h : Within ds b s0 s) {a : Word} {c : Bool} : Within ds b s0 (popLong s a c).2 := note_within (load32_within h)

theorem pushFrame_within (h : Within ds b s0 s) {sp ret sr : Word} : Within ds b s0 (pushFrame s sp ret sr) :=
  note_within (store32_within (store32_within h))

end

/-! ### Accesses at an effective address -/

section
variable {ds : List Dest} {b : Word} {s0 : State} {e : Ea}

theorem read8_within (h : Within ds b s0 e.st) : Within ds b s0 (read8 e).2 := note_within ((load8_only ..).within h)
theorem read16_within (h : Within ds b s0 e.st) : Within ds b s0 (read16 e).2 := note_within ((load16_only ..).within h)
theorem read32_within (h : Within ds b s0 e.st) : Within ds b s0 (read32 e).2 := note_within (load32_within h)

theorem readWords_within (h : Within ds b s0 e.st) {k : Nat} : Within ds b s0 (readWords e k).2 :=
  note_within ((loadWords_only ..).within h)

theorem readTwoLongs_within (h : Within ds b s0 e.st) : Within ds b s0 (readTwoLongs e).2 :=
  note_within (load32_within (load32_within h))

theorem write8_within (h : Within ds b s0 e.st) {v : Byte} : Within ds b s0 (write8 e v) :=
  note_within ((store8_only ..).within (store8_wf · _ _) h)

theorem write16_within (h : Within ds b s0 e.st) {v : Word16} : Within ds b s0 (write16 e v) :=
  note_within ((store16_only ..).within (store16_wf · _ _) h)

/-- A word is written back to the address that it was read from. -/
theorem write16_read16_within (h : Within ds b s0 e.st) {v : Word16} : Within ds b s0 (write16 { e with st := (read16 e).2 } v) :=
  write16_within (e := { e with st := (read16 e).2 }) (read16_within h)

theorem write32_within (h : Within ds b s0 e.st) {v : Word} : Within ds b s0 (write32 e v) := note_within (store32_within h)

theorem writeWords_within (h : Within ds b s0 e.st) {vs : List Word16} : Within ds b s0 (writeWords e vs) :=
  note_within ((storeWords_only ..).within (storeWords_wf · _ _) h)

theorem writeTwoLongs_within (h : Within ds b s0 e.st) {v w : Word} : Within ds b s0 (writeTwoLongs e v w) :=
  note_within (store32_within (store32_within h))

end

/-! ### Stack pointers, changes of flow and returns

SP is the pointer that EXP selects: the updates before its write leave SR as the instruction found it. -/

section
variable {ds : List Dest} {b : Word} {s0 s : State}

theorem OnlyEonce.sr {t : State} (h : OnlyEonce s t) : t.sr = s.sr := by rw [h]

theorem OnlyMemEonce.sr {t : State} (h : OnlyMemEonce s t) : t.sr = s.sr := by rw [h]

theorem pushLong_sr (s : State) (a v : Word) : (pushLong s a v).sr = s.sr := (store32_only s a v).sr

theorem popLong_sr (s : State) (a : Word) (c : Bool) : (popLong s a c).2.sr = s.sr := (load32_only s a 1).sr

theorem popReturn_sr (s : State) : (popReturn s).2.sr = s.sr := (load32_only s _ 1).sr

theorem pushFrame_sr (s : State) (sp ret v : Word) : (pushFrame s sp ret v).sr = s.sr := by
  obtain ⟨m, e, a, hp⟩ := pushFrame_only s sp ret v
  rw [hp]

/-- The two loads of a return from an exception. -/
theorem load32_load32_sr (s : State) (a a' : Word) (t t' : Nat) : (load32 (load32 s a t).2 a' t').2.sr = s.sr :=
  ((load32_only s a t).trans (load32_only _ a' t')).sr

theorem moveSp_within (h : Within ds b s0 s) {v : Word} (hsr : s.sr = s0.sr) (hd : spDest s0 ∈ ds) : Within ds b s0 (moveSp s v) :=
  setSpShadow_within (setSp_within h hsr hd)

theorem moveNsp_within (h : Within ds b s0 s) {v : Word} (hd : Dest.nsp ∈ ds) : Within ds b s0 (moveNsp s v) :=
  setNspShadow_within (setNsp_within h hd)

theorem jumpIf_within (h : Within ds b s0 s) {c : Bool} {t : Word} : Within ds b s0 (jumpIf c s t) := ite_within (jumpTo_within h) h

theorem dropFrame_within (h : Within ds b s0 s) (hsr : s.sr = s0.sr) (hd : spDest s0 ∈ ds) : Within ds b s0 (dropFrame s) :=
  dropRas_within (setSp_within h hsr hd)

theorem popReturn_within (h : Within ds b s0 s) : Within ds b s0 (popReturn s).2 := note_within (load32_within h)

theorem callTo_within (h : Within ds b s0 s) {ret t : Word} (hsr : s.sr = s0.sr) (hd : spDest s0 ∈ ds) :
    Within ds b s0 (callTo s ret t) := by
  have hsp : Within ds b s0 (setSp (pushFrame s (spOf s) ret s.sr) (spOf s + 8)) :=
    setSp_within (pushFrame_within h) ((pushFrame_sr ..).trans hsr) hd
  exact jumpTo_within (hsp.same (t := { setSp _ _ with ras := ret, rasValid := true }) rfl ⟨rfl, rfl, rfl, rfl, rfl⟩)

theorem subReturn_within (h : Within ds b s0 s) (hsr : s.sr = s0.sr) (hd : spDest s0 ∈ ds) : Within ds b s0 (subReturn s).2 := by
  unfold subReturn
  split
  · exact dropFrame_within h hsr hd
  · exact dropFrame_within (popReturn_within h) ((popReturn_sr s).trans hsr) hd

theorem stackReturn_within (h : Within ds b s0 s) (hsr : s.sr = s0.sr) (hd : spDest s0 ∈ ds) : Within ds b s0 (stackReturn s).2 :=
  clearNmid_within (dropFrame_within (popReturn_within h) ((popReturn_sr s).trans hsr) hd)

theorem returnFromException_within (h : Within ds srMask s0 s) (hsr : s.sr = s0.sr) (hd : spDest s0 ∈ ds) :
    Within ds srMask s0 (returnFromException s) :=
  jumpTo_within (writeSr_within (clearNmid_within
    (setSp_within (note_within (load32_within (load32_within h))) ((load32_load32_sr ..).trans hsr) hd)))

/-! ### Loops and marks -/

theorem endLoop_within (h : Within ds b s0 s) {n : LoopIx} (hd : Dest.lc n ∈ ds) (hb : b.getLsbD (27 + n.val) = true) :
    Within ds b s0 (endLoop s n) :=
  setLoopFlag_within (setLc_within h hd) hb

/-- The count of the active loop is what CONT and CONTD list. -/
theorem activeLoop_dest {n : LoopIx} (h : activeLoop s = some n) : Dest.lc n ∈ loopDests s := by
  simp only [loopDests, h, List.mem_singleton]

theorem loopFlag_listed : ∀ n : LoopIx, (0x78000000#32).getLsbD (27 + n.val) = true := by decide

theorem loopBit_listed : ∀ n : LoopIx, (0x08000000#32 <<< n.val).getLsbD (27 + n.val) = true := by decide

theorem shortLoopBit_listed :
    ∀ n : LoopIx, (0x80000000#32 ||| 0x08000000#32 <<< n.val).getLsbD (27 + n.val) = true
      ∧ (0x80000000#32 ||| 0x08000000#32 <<< n.val).getLsbD 31 = true := by decide

/-- The registers that the marks of a prefix write. -/
def markDests : List Dest := [.lc 0, .lc 1, .lc 2, .lc 3]

/-- SLF and LF3..LF0: the bits of SR that the marks of a prefix write. -/
def markSr : Word := 0xF8000000#32

theorem lc_mem_markDests : ∀ n : LoopIx, Dest.lc n ∈ markDests := by decide

theorem loopFlag_markSr : ∀ n : LoopIx, markSr.getLsbD (27 + n.val) = true := by decide

theorem markA_within (h : Within markDests markSr s0 s) : Within markDests markSr s0 (markA s) := by
  unfold markA
  split
  · exact h
  · next n _ =>
    exact ite_within (jumpTo_within (setLc_within h (lc_mem_markDests n)))
      (setShortLoop_within (endLoop_within h (lc_mem_markDests n) (loopFlag_markSr n)) (by decide))

theorem markEndB_within (h : Within markDests markSr s0 s) (n : LoopIx) : Within markDests markSr s0 (markEndB s n) := by
  have hcount : Within markDests markSr s0 (countDown s n) := setLc_within h (lc_mem_markDests n)
  have hend : Within markDests markSr s0 (endLoop s n) := endLoop_within h (lc_mem_markDests n) (loopFlag_markSr n)
  have hshort : Within markDests markSr s0 (setShortLoop (endLoop s n) false) := setShortLoop_within hend (by decide)
  unfold markEndB
  split
  · exact hcount.same rfl ⟨rfl, rfl, rfl, rfl, rfl⟩
  · exact hend.same rfl ⟨rfl, rfl, rfl, rfl, rfl⟩
  · exact hcount.same rfl ⟨rfl, rfl, rfl, rfl, rfl⟩
  · exact hshort.same rfl ⟨rfl, rfl, rfl, rfl, rfl⟩

theorem markB_within (h : Within markDests markSr s0 s) : Within markDests markSr s0 (markB s) := by
  unfold markB
  split
  · exact h
  · exact markEndB_within h _

theorem marks_within (h : Within markDests markSr s0 s) {p j : Bool} : Within markDests markSr s0 (marks p j s) :=
  ite_within (ite_within (markB_within (markA_within h)) (markA_within h)) (ite_within (markB_within h) h)

/-! ### Debug requests -/

theorem debugState_within (h : Within ds b s0 s) : Within ds b s0 (debugState s) :=
  (mirrorPins_only _).within (h.same rfl ⟨rfl, rfl, rfl, rfl, rfl⟩)

theorem debugRequest_within (h : Within ds b s0 s) : Within ds b s0 (debugRequest s) :=
  ite_within ((debugException_only s _).within h) (debugState_within (h.same rfl ⟨rfl, rfl, rfl, rfl, rfl⟩))

theorem markTrace_within (h : Within ds b s0 s) : Within ds b s0 (markTrace s) := ite_within ((tracePush_only s _).within h) h

end

end Sys2Proof.Machine
end

section
/-! Every instruction stays within its listed effects (O9; spec/70_reset_and_hazards.md R610 to R625). -/

namespace Sys2Proof.Machine

/-- If this is a next state, it is within the lists. -/
def EndsWithin (ds : List Dest) (b : Word) (s : State) (r : Res State) : Prop := ∀ t, r = .next t → Within ds b s t

section
variable {ds : List Dest} {b : Word} {s : State}

theorem EndsWithin.next {t : State} (h : Within ds b s t) : EndsWithin ds b s (.next t) := by
  rintro _ ⟨⟩
  exact h

theorem EndsWithin.fault (r : Fault) : EndsWithin ds b s (.fault r) := by rintro _ ⟨⟩

theorem EndsWithin.refused (r : Refusal) : EndsWithin ds b s (.refused r) := by rintro _ ⟨⟩

theorem EndsWithin.ite {c : Prop} [Decidable c] {r r' : Res State} (h : EndsWithin ds b s r) (h' : EndsWithin ds b s r') :
    EndsWithin ds b s (if c then r else r') := by
  split
  · exact h
  · exact h'

/-- An access at an effective address, refused if it is misaligned (R110). -/
theorem EndsWithin.withEa {e : Ea} {w : Nat} {k : Ea → Res State} (h : Within ds b s e.st)
    (hk : ∀ {x : Ea}, Within ds b s x.st → EndsWithin ds b s (k x)) : EndsWithin ds b s (withEa e w k) :=
  .ite (hk h) (.refused _)

theorem compareA_endsWithin {src : RxSrc} {x : Rx} {c : Bool} : EndsWithin [] bitT s (compareA src x c s) :=
  .ite (.refused _) (.next (setT_within (.refl _ _ _) (by decide)))

theorem changeMem_endsWithin {m : BmuMem} {f : Word16 → Word16} : EndsWithin [] 0#32 s (changeMem s m f) :=
  .withEa (bmuEa_within (.refl _ _ _)) fun he => .next (write16_read16_within he)

theorem testMem_endsWithin {m : BmuMem} {f : Word16 → Bool} : EndsWithin [] bitT s (testMem s m f) :=
  .withEa (bmuEa_within (.refl _ _ _)) fun he => .next (setT_within (read16_within he) (by decide))

theorem execBreak_endsWithin {d : BitVec 16} : EndsWithin [] 0x78000000#32 s (execBreak d s) := by
  unfold execBreak
  split
  · exact .fault _
  · exact .next (jumpTo_within (setLoopFlag_within (.refl _ _ _) (loopFlag_listed _)))

theorem execSkipls_endsWithin {d : BitVec 16} : EndsWithin [] 0x78000000#32 s (execSkipls d s) := by
  unfold execSkipls
  split
  · exact .fault _
  · exact .ite (.next (jumpTo_within (setLoopFlag_within (.refl _ _ _) (loopFlag_listed _)))) (.next (.refl _ _ _))

theorem execContd_endsWithin {d : BitVec 16} : EndsWithin (loopDests s) 0x78000000#32 s (execContd d s) := by
  unfold execContd
  split
  · exact .fault _
  · next n hn =>
    exact .ite (.next (delayed_within (setLc_within (.refl _ _ _) (activeLoop_dest hn))))
      (.next (delayed_within (endLoop_within (.refl _ _ _) (activeLoop_dest hn) (loopFlag_listed n))))

theorem execCont_endsWithin {d : BitVec 16} : EndsWithin (loopDests s) 0x78000000#32 s (execCont d s) := by
  unfold execCont
  split
  · exact .fault _
  · next n hn =>
    exact .ite (.next (jumpTo_within (setLc_within (.refl _ _ _) (activeLoop_dest hn))))
      (.next (jumpTo_within (endLoop_within (.refl _ _ _) (activeLoop_dest hn) (loopFlag_listed n))))

theorem rted_within : EndsWithin [spDest s] 0#32 s (execRted s) :=
  .next (delayed_within (setSp_within (note_within (load32_within (load32_within (.refl _ _ _)))) (load32_load32_sr ..) (.head _)))

theorem bitC_listed : bitC.getLsbD 0 = true := by decide
theorem bitT_listed : bitT.getLsbD 1 = true := by decide
theorem bitS_listed : bitS.getLsbD 6 = true := by decide
theorem bitCT_listed : (bitC ||| bitT).getLsbD 0 = true ∧ (bitC ||| bitT).getLsbD 1 = true := by decide
theorem viterbiLow_listed : (0x300#32).getLsbD 8 = true ∧ (0x300#32).getLsbD 9 = true := by decide
theorem viterbiHigh_listed : (0xC00#32).getLsbD 10 = true ∧ (0xC00#32).getLsbD 11 = true := by decide
theorem bitDi_listed : (0x00080000#32).getLsbD 19 = true := by decide

/-- Every instruction but TRAP and the prefix words stays within its listed effects. -/
theorem exec_endsWithin (i : Instr) (htrap : i ≠ .trap) (hpre : prefixWords i = none ∨ i = .nop) (s : State) :
    EndsWithin (effects s i).dests (effects s i).sr s (exec i s) := by
  have h : Within (effects s i).dests (effects s i).sr s s := .refl _ _ _
  unfold exec
  cases i with
  -- DALU arithmetic and multiplication (R210 to R280)
  | abs | addnc | adr | neg | sbr | subnc | mac | macSame | macImm | mpy | mpySame => exact .next (writeArith_within h (.head _))
  | addImm | addReg | addSame | asl | asr | inc | incListed | incF | subImm =>
    exact .next (setC_within (writeArith_within h (.head _)) bitC_listed)
  | rnd | macr | macrSame | mpyr | mpyrSame => exact .next (writeRounded_within h (.head _))
  | iaddnc | imac | imacSame | imaclhuu | imacus | impy | impySame | impyW | impyhluu | impysu | impyuu | macsu | macus | macuu | mpysu
  | mpyus | mpyuu => exact .next (writeWrap_within h (.head _))
  | decge => exact .next (setT_within (setC_within (writeWrap_within h (.head _)) bitCT_listed.1) bitCT_listed.2)
  | div => exact .next (setC_within (overflowIf_within (writeArith6_within h (.head _))) bitC_listed)
  | sbc => exact .next (setC_within (writeArith6_within h (.head _)) bitC_listed)
  | subl => exact .next (setC_within (overflowIf_within (writeArith_within h (.head _))) bitC_listed)
  | subReg | subRegSwap | subSame => exact .next (subRegs_within h (.head _) bitC_listed)
  | add2 | sub2 | max | min | tfr => exact .next (setD_within h (.head _))
  | clr => exact .next (setC_within (setD_within h (.head _)) bitC_listed)
  | max2vitA =>
    exact .next (setSrBit_within (setSrBit_within (setD_within h (.head _)) (by decide) (by decide) viterbiLow_listed.1)
      (by decide) (by decide) viterbiLow_listed.2)
  | max2vitB =>
    exact .next (setSrBit_within (setSrBit_within (setD_within h (.head _)) (by decide) (by decide) viterbiHigh_listed.1)
      (by decide) (by decide) viterbiHigh_listed.2)
  | satL =>
    exact .next (ite_within (overflow_within (setD_within h (.head _)))
      (ite_within (overflow_within (setD_within h (.head _))) (setD_within h (.head _))))
  | tfrf => exact .next (ite_within h (setD_within h (.head _)))
  | tfrt => exact .next (ite_within (setD_within h (.head _)) h)
  | cmpeq | cmpeqU | cmpeqS | cmpgt | cmpgtU | cmpgtS | cmphi | tsteq | tstge => exact .next (setT_within h bitT_listed)
  -- DALU logic, shifts and bit fields (R290 to R313)
  | andImmLow | andImmHigh | andReg | clb | eorReg | extractImm | extractReg | extractuImm | extractuReg | insertImm | insertReg | notReg
  | orReg | sxtB | sxtL | sxtW | zxtB | zxtL | zxtW => exact .next (setD_within h (.head _))
  | asrw | lsr | lsrw | rol | ror => exact .next (setC_within (setD_within h (.head _)) bitC_listed)
  | aslw => exact .next (overflowIf_within (setC_within (setD_within h (.head _)) bitC_listed))
  | asllImm | asrrImm | lsrrImm => exact .next (shiftBy_within h (.head _) bitC_listed)
  | asllReg | asrrReg | lsll | lsrrReg => exact .next (shiftReg_within h (.head _) bitC_listed)
  -- AGU arithmetic (R320 to R346)
  | addaImm | addaReg | addl1a | addl2a | asl2a | asla | asra | deca | inca | lsra | subaImm | subaReg | sxtaB | sxtaW | tfra | zxtaB
  | zxtaW => exact .next (setRx_within h rfl fun _ hy => hy)
  | addaImm16 | tfraFromOsp => exact .next (setR_within h (.head _))
  | deceqa | decgea => exact .next (setT_within (setRx_within h rfl fun _ hy => hy) bitT_listed)
  | tfraToOsp => exact .next (setOspShadow_within (dropRas_within (setOsp_within h rfl (.head _))))
  | cmpeqa | cmpgta | cmphia => exact compareA_endsWithin
  | tsteqaL | tsteqaW | tstgeaL | tstgta => exact .next (setT_within h bitT_listed)
  -- moves (R350 to R380)
  | move2f ea rn p =>
    exact .withEa (eaMode_within h fun _ hy => List.mem_append_right _ hy) fun he => .next
      (setDs_zip_within (rs := pairRegs p) (readWords_within he) fun r hr => List.mem_append_left _ (by simpa [pairRegs, pairDests] using hr))
  | move4f ea rn q =>
    exact .withEa (eaMode_within h fun _ hy => List.mem_append_right _ hy) fun he => .next
      (setDs_zip_within (rs := quadRegs q) (readWords_within he) fun r hr => List.mem_append_left _ (by simpa [quadRegs, quadDests] using hr))
  | move2l dir ea rn p =>
    cases dir with
    | read =>
      exact .withEa (eaMode_within h fun _ hy => List.mem_append_right _ hy) fun he => .next
        (setDs_zip_within (rs := pairRegs p) (vs := [_, _]) (readTwoLongs_within he) fun r hr =>
          List.mem_append_left _ (by simpa [pairRegs, pairDests] using hr))
    | write => exact .withEa (eaMode_within h fun _ hy => hy) fun he => .next (writeTwoLongs_within he)
  | move2w dir ea rn p =>
    cases dir with
    | read =>
      exact .withEa (eaMode_within h fun _ hy => List.mem_append_right _ hy) fun he => .next
        (setDs_zip_within (rs := pairRegs p) (readWords_within he) fun r hr => List.mem_append_left _ (by simpa [pairRegs, pairDests] using hr))
    | write => exact .withEa (eaMode_within h fun _ hy => hy) fun he => .next (writeWords_within he)
  | move4w dir ea rn q =>
    cases dir with
    | read =>
      exact .withEa (eaMode_within h fun _ hy => List.mem_append_right _ hy) fun he => .next
        (setDs_zip_within (rs := quadRegs q) (readWords_within he) fun r hr => List.mem_append_left _ (by simpa [quadRegs, quadDests] using hr))
    | write => exact .withEa (eaMode_within h fun _ hy => hy) fun he => .next (writeWords_within he)
  | movebLoad | moveub =>
    exact .withEa (memEa_within h fun _ hy => List.mem_append_right _ hy) fun he => .next
      (writeLoaded_within (read8_within he) fun _ hy => List.mem_append_left _ hy)
  | movebStore => exact .withEa (memEa_within h fun _ hy => hy) fun he => .next (write8_within he)
  | movefImm | moveulImm | moveuwHigh | moveuwLow => exact .next (setD_within h (.head _))
  | movefLoad => exact .withEa (memEa_within h fun _ hy => .tail _ hy) fun he => .next (setD_within (read16_within he) (.head _))
  | movefStore => exact .withEa (memEa_within h fun _ hy => hy) fun he => .next (write16_within he)
  | movelImmC4 | movewImm16 => exact .next (writeC4_within h fun _ hy => hy)
  | movelImmC1 => exact .next (setC1_within h)
  | movelC4 dir =>
    cases dir with
    | read => exact .next (setD_within h (.head _))
    | write => exact .next (writeC4_within h fun _ hy => hy)
  | movelC2 dir =>
    cases dir with
    | read => exact .next (setD_within h (.head _))
    | write => exact .next (setC2_within h)
  | movelExtEven | movelExtOdd => exact .withEa (extEa_within h) fun he => .next (setExt_within (read32_within he) (.head _))
  | movelExtStore => exact .withEa (extEa_within h) fun he => .next (write32_within he)
  | movel dir =>
    cases dir with
    | read =>
      exact .withEa (memEa_within h fun _ hy => List.mem_append_right _ hy) fun he => .next
        (writeLoaded_within (read32_within he) fun _ hy => List.mem_append_left _ hy)
    | write => exact .withEa (memEa_within h fun _ hy => hy) fun he => .next (write32_within he)
  | movelC4Mem dir =>
    cases dir with
    | read =>
      exact .withEa (memEa_within h fun _ hy => List.mem_append_right _ hy) fun he => .next
        (writeC4_within (read32_within he) fun _ hy => List.mem_append_left _ hy)
    | write => exact .withEa (memEa_within h fun _ hy => hy) fun he => .next (write32_within he)
  | movelC3 dir =>
    cases dir with
    | read => exact .withEa h fun he => .next (writeC4_within (read32_within he) fun _ hy => hy)
    | write => exact .withEa h fun he => .next (write32_within he)
  | movewImm7 => exact .next (writeDr_within h fun _ hy => hy)
  | movewImmMem => exact .withEa (bmuEa_within h) fun he => .next (write16_within he)
  | movew dir =>
    cases dir with
    | read =>
      exact .withEa (memEa_within h fun _ hy => List.mem_append_right _ hy) fun he => .next
        (writeLoaded_within (read16_within he) fun _ hy => List.mem_append_left _ hy)
    | write => exact .withEa (memEa_within h fun _ hy => hy) fun he => .next (write16_within he)
  | movewC4Mem dir =>
    cases dir with
    | read =>
      exact .withEa (memEa_within h fun _ hy => List.mem_append_right _ hy) fun he => .next
        (writeC4_within (read16_within he) fun _ hy => List.mem_append_left _ hy)
    | write => exact .withEa (memEa_within h fun _ hy => hy) fun he => .next (write16_within he)
  | movewC3 dir =>
    cases dir with
    | read => exact .withEa h fun he => .next (writeC4_within (read16_within he) fun _ hy => hy)
    | write => exact .withEa h fun he => .next (write16_within he)
  | movet => exact .next (ite_within (setR_within h (.head _)) h)
  | movef => exact .next (ite_within h (setR_within h (.head _)))
  | moves2f | moves4f =>
    exact .withEa (eaMode_within h fun _ hy => hy) fun he => .next (setSrBit_within (writeWords_within he) (by decide) (by decide) bitS_listed)
  | movesf => exact .withEa (memEa_within h fun _ hy => hy) fun he => .next (setSrBit_within (write16_within he) (by decide) (by decide) bitS_listed)
  | moveslEa => exact .withEa (eaMode_within h fun _ hy => hy) fun he => .next (setSrBit_within (write32_within he) (by decide) (by decide) bitS_listed)
  | moveuwC4 =>
    exact .withEa (memEa_within h fun _ hy => List.mem_append_right _ hy) fun he => .next
      (writeC4_within (read16_within he) fun _ hy => List.mem_append_left _ hy)
  | moveuw =>
    exact .withEa (memEa_within h fun _ hy => List.mem_append_right _ hy) fun he => .next
      (writeLoaded_within (read16_within he) fun _ hy => List.mem_append_left _ hy)
  | vsl2f _ rn | vsl2w _ rn =>
    exact .withEa (eaMode_within (m := .postN 0) (rn := rn) h fun _ hy => hy) fun he => .next (write32_within he)
  | vsl4f _ rn | vsl4w _ rn =>
    exact .withEa (eaMode_within (m := .postN 0) (rn := rn) h fun _ hy => hy) fun he => .next (writeTwoLongs_within he)
  -- the stack (R391 to R394)
  | popEven =>
    exact .next (setEven_within (moveSp_within (popLong_within h) (popLong_sr ..) (.head _)) fun _ hy => .tail _ hy)
  | popOdd => exact .next (setOdd_within (moveSp_within (popLong_within h) (popLong_sr ..) (.head _)) fun _ hy => .tail _ hy)
  | popnEven => exact .next (setEven_within (moveNsp_within (popLong_within h) (.head _)) fun _ hy => .tail _ hy)
  | popnOdd => exact .next (setOdd_within (moveNsp_within (popLong_within h) (.head _)) fun _ hy => .tail _ hy)
  | pushEven | pushOdd => exact .next (moveSp_within (pushLong_within h) (pushLong_sr ..) (.head _))
  | pushnEven | pushnOdd => exact .next (moveNsp_within (pushLong_within h) (.head _))
  -- bit masks (R395 to R415)
  | bmclrDr | bmsetDr | bmchgDr | andDr | eorDr | notDr | orDr => exact .next (changeDr_within h fun _ hy => hy)
  | bmclrC1 | bmsetC1 | bmchgC1 => exact .next (changeC1_within h)
  | bmclrMem | bmsetMem | bmchgMem | andMem | eorMem | notMem | orMem => exact changeMem_endsWithin
  | bmtstcDr | bmtstcC1 | bmtstsDr | bmtstsC1 => exact .next (setT_within h bitT_listed)
  | bmtstcMem | bmtstsMem => exact testMem_endsWithin
  | bmtsetDr => exact .next (setT_within (changeDr_within h fun _ hy => hy) bitT_listed)
  | bmtsetMem => exact .withEa (bmuEa_within h) fun he => .next (setT_within (write16_read16_within he) bitT_listed)
  -- changes of flow (R420 to R447)
  | bra | jmp => exact .next (jumpTo_within h)
  | bsr | jsr => exact .next (callTo_within h rfl (.head _))
  | bt | bf | jt | jf => exact .next (jumpIf_within h)
  | brad | bsrd | btd | bfd | jmpd | jsrd | jtd | jfd => exact .next (delayed_within h)
  | rte => exact .next (returnFromException_within h rfl (.head _))
  | rted => exact rted_within
  | rts => exact .next (jumpTo_within (subReturn_within h rfl (.head _)))
  | rtsd => exact .next (delayed_within (subReturn_within h rfl (.head _)))
  | rtstk => exact .next (jumpTo_within (stackReturn_within h rfl (.head _)))
  | rtstkd => exact .next (delayed_within (stackReturn_within h rfl (.head _)))
  | trap => exact absurd rfl htrap
  -- loops (R450 to R457)
  | break_ => exact execBreak_endsWithin
  | skipls => exact execSkipls_endsWithin
  | contd => exact execContd_endsWithin
  | cont => exact execCont_endsWithin
  | dosetup => exact .next (setSa_within h (.head _))
  | doen l => exact .next (setLoopFlag_within (setLc_within h (.head _)) (loopBit_listed l))
  | doensh l =>
    exact .next (setShortLoop_within (setLoopFlag_within (setLc_within h (.head _)) (shortLoopBit_listed l).1) (shortLoopBit_listed l).2)
  -- program control (R470 to R482)
  | illegal => exact .next (illegalInstruction_within h)
  | prefix1 | prefix2 | ifa | iff | ift | lpmarka | lpmarkb => simp [prefixWords] at hpre
  | debug => exact .next (debugRequest_within h)
  | debugev => exact .next (ite_within (h.same rfl ⟨rfl, rfl, rfl, rfl, rfl⟩) h)
  | di | ei => exact .next (setSrBit_within h (by decide) (by decide) bitDi_listed)
  | mark => exact .next (markTrace_within h)
  | stop | wait => exact .next (h.same rfl ⟨rfl, rfl, rfl, rfl, rfl⟩)
  | nop => exact .next h

/-- Settles O9: every update of a meaning stays within the listed effects, and from a legal SR no reserved bit of it changes. -/
theorem execWritesOnlyItsEffects : Obligations.ExecWritesOnlyItsEffects := by
  intro i s t hsr htrap hpre hexec
  exact (exec_endsWithin i htrap hpre s t hexec).untouched hsr

end

end Sys2Proof.Machine
end

section
/-! What any part of a step keeps (O8, O10): the reserved bits of SR and VBA, the alignment of the stack pointers, EMR but for its four
sticky bits, and NMID, which no instruction sets.  First the single instruction, then the instructions of a set put together. -/

namespace Sys2Proof.Machine

/-- From `s` to `t` nothing that the invariant asks of SR, VBA and the stack pointers is lost, and of EMR only sticky bits change, NMID
not being set. -/
structure Sane (s t : State) : Prop where
  sr : SrLegal s → SrLegal t
  vba : s.vba &&& vbaMask = s.vba → t.vba &&& vbaMask = t.vba
  pointers : StacksAligned s → StacksAligned t
  emr : t.emr &&& ~~~0xF#32 = s.emr &&& ~~~0xF#32
  nmid : t.emr.getLsbD 3 = true → s.emr.getLsbD 3 = true

/-- Memory stays canonical. -/
def MemKept (s t : State) : Prop := s.mem.wf = true → t.mem.wf = true

/-- What an instruction does: besides, the events that it records for EMR are ILIN, ILST and DOVF. -/
structure Executed (s t : State) : Prop where
  sane : Sane s t
  mem : MemKept s t
  events : t.emrEv &&& ~~~7#32 = s.emrEv &&& ~~~7#32

theorem Sane.refl (s : State) : Sane s s := ⟨id, id, id, rfl, id⟩

theorem Sane.trans {s t u : State} (h : Sane s t) (h' : Sane t u) : Sane s u :=
  ⟨h'.sr ∘ h.sr, h'.vba ∘ h.vba, h'.pointers ∘ h.pointers, h'.emr.trans h.emr, h.nmid ∘ h'.nmid⟩

/-- Nothing that `Sane` speaks of changes. -/
def SameSane (s t : State) : Prop := t.sr = s.sr ∧ t.vba = s.vba ∧ t.nsp = s.nsp ∧ t.esp = s.esp ∧ t.emr = s.emr

theorem SameSane.sane {s t : State} (h : SameSane s t) : Sane s t := by
  obtain ⟨hsr, hvba, hnsp, hesp, hemr⟩ := h
  exact ⟨fun hs => by rwa [SrLegal, hsr], fun hv => by rwa [hvba], fun ha => ha.congr hnsp hesp, by rw [hemr], fun hb => by rwa [← hemr]⟩

theorem DebugOnly.sameSane {s t : State} (h : DebugOnly s t) : SameSane s t := by
  obtain ⟨e, q, rfl⟩ := h
  exact ⟨rfl, rfl, rfl, rfl, rfl⟩

theorem DebugOnly.mem {s t : State} (h : DebugOnly s t) : t.mem = s.mem := by
  obtain ⟨e, q, rfl⟩ := h
  rfl

theorem Within.executed {ds : List Dest} {b : Word} {s t : State} (h : Within ds b s t) (hst : StacksAligned s → StacksAligned t) :
    Executed s t :=
  ⟨⟨h.keeps.sr, h.keeps.vba, hst, h.regs.emr, h.keeps.nmid⟩, h.keeps.mem, h.keeps.events⟩

/-! ### TRAP and the prefix words -/

/-- SR at the entry of an exception has no reserved bit that it had not before. -/
theorem entrySr_masked {v : Word} (h : v &&& srMask = v) (lvl : BitVec 3) : entrySr v lvl &&& srMask = entrySr v lvl := by
  have hbits : ∀ i : Fin 3, srMask.getLsbD (21 + i.val) = true := by decide
  have hlevel : (lvl.setWidth 32 <<< 21) &&& srMask = (lvl.setWidth 32 <<< 21 : Word) := by
    rw [masked_iff]
    intro i hi
    simp only [BitVec.getLsbD_shiftLeft, BitVec.getLsbD_setWidth, Bool.and_eq_true, Bool.not_eq_true', decide_eq_false_iff_not] at hi
    obtain ⟨⟨-, hlow⟩, -, hbit⟩ := hi
    have hlt : i - 21 < 3 := BitVec.lt_of_getLsbD hbit
    rw [show i = 21 + (i - 21) by omega]
    exact hbits ⟨i - 21, hlt⟩
  have hkept : v &&& 0x071FFFCC#32 &&& srMask = v &&& 0x071FFFCC#32 := by
    rw [BitVec.and_assoc, BitVec.and_comm _ srMask, ← BitVec.and_assoc, h]
  have hexp : 0x00040000#32 &&& srMask = 0x00040000#32 := by decide
  have hor : ∀ x y m : Word, (x ||| y) &&& m = (x &&& m) ||| (y &&& m) := by
    intro x y m
    apply BitVec.eq_of_getLsbD_eq
    intro i _
    simp only [BitVec.getLsbD_and, BitVec.getLsbD_or, Bool.and_or_distrib_right]
  rw [entrySr, hor, hor, hkept, hlevel, hexp]

/-- A write of the whole of SR with a legal value. -/
theorem srWrite_within {ds : List Dest} {s0 s : State} (h : Within ds srMask s0 s) {v : Word} (hv : SrLegal s → v &&& srMask = v) :
    Within ds srMask s0 { s with sr := v } := by
  have hsr : v &&& ~~~(srMask ||| ~~~srMask) = s.sr &&& ~~~(srMask ||| ~~~srMask) := by
    rw [show ~~~(srMask ||| ~~~srMask) = 0#32 by decide, BitVec.and_zero, BitVec.and_zero]
  have hframe : Untouched [] (srMask ||| ~~~srMask) 0#32 s { s with sr := v } :=
    ⟨fun _ _ => ⟨rfl, rfl⟩, fun _ _ => rfl, fun _ _ => rfl, fun _ _ => rfl, fun _ => rfl, fun _ => rfl, fun _ => rfl, fun _ _ => rfl,
      fun _ _ => rfl, fun _ => rfl, hsr, rfl⟩
  exact h.step hframe (by simp) (fun _ hi => hi) (by simp) ⟨hv, id, id, id, rfl⟩

theorem takeException_within (s : State) (off : BitVec 12) (lvl : BitVec 3) (ret : Word) :
    Within [.esp] srMask s (takeException s off lvl ret) := by
  have hpush : Within [.esp] srMask s (pushFrame s s.esp ret s.sr) := pushFrame_within (.refl _ _ _)
  have hsr : SrLegal (pushFrame s s.esp ret s.sr) → entrySr s.sr lvl &&& srMask = entrySr s.sr lvl := fun h =>
    entrySr_masked (by rwa [SrLegal, pushFrame_sr] at h) lvl
  exact jumpTo_within (setEsp_within (srWrite_within hpush hsr) (.head _))

theorem execTrap_within {s t : State} (h : execTrap s = .next t) : Within [.esp] srMask s t := by
  have htake : Within [.esp] srMask s (takeException s 0#12 7#3 s.npc) := takeException_within s 0#12 7#3 s.npc
  unfold execTrap at h
  generalize takeException s 0#12 7#3 s.npc = u at h htake
  cases h
  exact htake.same rfl ⟨rfl, rfl, rfl, rfl, rfl⟩

/-- A prefix word changes what its marks change, or is an illegal instruction. -/
theorem prefix_within {i : Instr} (hpre : prefixWords i ≠ none) (s : State) : EndsWithin markDests markSr s (exec i s) := by
  have h : Within markDests markSr s s := .refl _ _ _
  unfold exec
  cases i with
  | nop => exact .next h
  | ifa | ift | iff => exact .next (withIfc_within h)
  | lpmarka | lpmarkb => exact .next (marks_within h)
  | prefix1 | prefix2 => exact .next (ite_within (marks_within (withIfc_within h)) (illegalInstruction_within h))
  | _ => exact absurd rfl hpre

/-- Every instruction that completes keeps what the invariant asks for. -/
theorem exec_executed {i : Instr} {s t : State} (h : exec i s = .next t) : Executed s t := by
  have hst : StacksAligned s → StacksAligned t := fun hs => exec_endsAligned hs i t h
  by_cases htrap : i = .trap
  · subst htrap
    exact (execTrap_within h).executed hst
  · by_cases hpre : prefixWords i = none
    · exact (exec_endsWithin i htrap (.inl hpre) s t h).executed hst
    · exact (prefix_within hpre s t h).executed hst

/-! ### Going on with a next state -/

theorem andThen_eq_next {α β : Type} {r : Res α} {k : α → Res β} {y : β} (h : andThen r k = .next y) :
    ∃ x, r = .next x ∧ k x = .next y := by
  cases r with
  | next x => exact ⟨x, rfl, h⟩
  | fault f => cases h
  | refused f => cases h

/-! ### The results of a set put together -/

/-- A property of every result and of the values without and with several writers holds of the merged register. -/
theorem owned_induction {α : Type} {ds : List Done} {x : Dest} {old fresh : α} {get : State → α} (P : α → Prop) (hold : P old)
    (hds : ∀ d ∈ ds, P (get d.st)) (hfresh : P fresh) : P (owned ds x old fresh get) := by
  have hmem : ∀ d ∈ ds.filter (fun d => d.eff.dests.contains x), P (get d.st) := fun d hd => hds d (List.mem_of_mem_filter hd)
  unfold owned
  split
  · exact hold
  · next d heq => exact hmem d (by rw [heq]; exact .head _)
  · next d _ _ heq =>
    split
    · exact hmem d (by rw [heq]; exact .head _)
    · exact hfresh

theorem masked_and {x m : Word} (h : x &&& m = x) (y : Word) : x &&& y &&& m = x &&& y := by
  rw [BitVec.and_assoc, BitVec.and_comm y, ← BitVec.and_assoc, h]

theorem masked_or {x y m : Word} (hx : x &&& m = x) (hy : y &&& m = y) : (x ||| y) &&& m = x ||| y := by
  rw [masked_iff] at *
  intro i hi
  rw [BitVec.getLsbD_or, Bool.or_eq_true] at hi
  exact hi.elim (hx i) (hy i)

theorem masked_xor {x y m : Word} (hx : x &&& m = x) (hy : y &&& m = y) : (x ^^^ y) &&& m = x ^^^ y := by
  apply BitVec.eq_of_getLsbD_eq
  intro i _
  have hxi := congrArg (·.getLsbD i) hx
  have hyi := congrArg (·.getLsbD i) hy
  simp only [BitVec.getLsbD_and, BitVec.getLsbD_xor] at hxi hyi ⊢
  rw [← hxi, ← hyi]
  cases x.getLsbD i <;> cases y.getLsbD i <;> cases m.getLsbD i <;> rfl

/-- Merging takes every bit of SR from a legal SR. -/
theorem mergeSr_masked {base : Word} {ds : List Done} (hbase : base &&& srMask = base) (hds : ∀ d ∈ ds, SrLegal d.st) :
    mergeSr base ds &&& srMask = mergeSr base ds := by
  refine List.foldlRecOn (motive := fun x => x &&& srMask = x) ds _ hbase fun x hx d hd => ?_
  have hd' : d.st.sr &&& srMask = d.st.sr := hds d hd
  exact masked_or (masked_and (masked_or (masked_and hx _) (masked_and hd' _)) _) (masked_and hd' _)

end Sys2Proof.Machine
end

section
/-! The instructions of a set put together (O8, O10): merging the results of instructions that each keep what the invariant asks for
keeps it. -/

namespace Sys2Proof.Machine

/-- The result of one of several instructions that ran on the state `s`, perhaps with another memory or other free values. -/
structure DoneOk (s : State) (d : Done) : Prop where
  sane : Sane s d.st
  events : d.st.emrEv &&& ~~~7#32 = s.emrEv &&& ~~~7#32

/-! ### EMR of the merged state, bit by bit -/

/-- Words that agree outside a mask agree in every bit outside it. -/
theorem getLsbD_of_and_not {x y m : Word} (h : x &&& ~~~m = y &&& ~~~m) {i : Nat} (hm : m.getLsbD i = false) :
    x.getLsbD i = y.getLsbD i := by
  by_cases hi : i < 32
  · have hbit := congrArg (·.getLsbD i) h
    simpa only [BitVec.getLsbD_and, BitVec.getLsbD_not, hm, hi, decide_true, Bool.not_false, Bool.and_true] using hbit
  · rw [BitVec.getLsbD_of_ge x i (by omega), BitVec.getLsbD_of_ge y i (by omega)]

theorem and_not_of_getLsbD {x y m : Word} (h : ∀ i, i < 32 → m.getLsbD i = false → x.getLsbD i = y.getLsbD i) : x &&& ~~~m = y &&& ~~~m := by
  apply BitVec.eq_of_getLsbD_eq
  intro i hi
  rw [BitVec.getLsbD_and, BitVec.getLsbD_and, BitVec.getLsbD_not]
  cases hm : m.getLsbD i
  · rw [h i hi hm]
  · simp

/-- A bit that every result has as the base has is so in the AND of all. -/
theorem getLsbD_foldl_and {ds : List Done} {base : Word} {i : Nat} (h : ∀ d ∈ ds, d.st.emr.getLsbD i = base.getLsbD i) :
    (ds.foldl (fun x d => x &&& d.st.emr) base).getLsbD i = base.getLsbD i := by
  refine List.foldlRecOn (motive := fun x : Word => x.getLsbD i = base.getLsbD i) ds _ rfl fun x hx d hd => ?_
  rw [BitVec.getLsbD_and, hx, h d hd, Bool.and_self]

/-- A bit of the AND of all is a bit of the base. -/
theorem getLsbD_foldl_and_le {ds : List Done} {base : Word} {i : Nat}
    (h : (ds.foldl (fun x d => x &&& d.st.emr) base).getLsbD i = true) : base.getLsbD i = true := by
  refine List.foldlRecOn (motive := fun x : Word => x.getLsbD i = true → base.getLsbD i = true) ds _ id (fun x hx d _ hbit => ?_) h
  rw [BitVec.getLsbD_and, Bool.and_eq_true] at hbit
  exact hx hbit.1

/-- A bit that no result has among its events is not added by them. -/
theorem getLsbD_foldl_events {ds : List Done} {base : Word} {i : Nat} (h : ∀ d ∈ ds, d.st.emrEv.getLsbD i = false) :
    (ds.foldl (fun x d => x ||| d.st.emrEv) base).getLsbD i = base.getLsbD i := by
  refine List.foldlRecOn (motive := fun x : Word => x.getLsbD i = base.getLsbD i) ds _ rfl fun x hx d hd => ?_
  rw [BitVec.getLsbD_or, hx, h d hd, Bool.or_false]

theorem emrWritten_sticky (i : Instr) : emrWritten i &&& 0xF#32 = emrWritten i := by
  unfold emrWritten
  split
  · decide
  · decide
  · decide
  · split <;> decide

/-- The bits of EMR with two writers are sticky ones. -/
theorem emrLoose_sticky (ds : List Done) (p : Word × Word) (hp : p.1 &&& 0xF#32 = p.1 ∧ p.2 &&& 0xF#32 = p.2) :
    (ds.foldl (fun x d => (x.1 ||| emrWritten d.instr, x.2 ||| (x.1 &&& emrWritten d.instr))) p).2 &&& 0xF#32
      = (ds.foldl (fun x d => (x.1 ||| emrWritten d.instr, x.2 ||| (x.1 &&& emrWritten d.instr))) p).2 := by
  refine (List.foldlRecOn (motive := fun x : Word × Word => x.1 &&& 0xF#32 = x.1 ∧ x.2 &&& 0xF#32 = x.2) ds _ hp
    fun x hx d _ => ?_).2
  obtain ⟨h1, h2⟩ := hx
  exact ⟨masked_or h1 (emrWritten_sticky d.instr), masked_or h2 (masked_and h1 _)⟩

/-- What of EMR is left when the writes of the set are put together, before its events are added. -/
def keptEmr (base fresh : Word) (ds : List Done) : Word :=
  let kept := ds.foldl (fun x d => x &&& d.st.emr) base
  let loose := (ds.foldl (fun (x : Word × Word) d => (x.1 ||| emrWritten d.instr, x.2 ||| (x.1 &&& emrWritten d.instr))) (0#32, 0#32)).2
  if loose = 0#32 then kept else (kept &&& ~~~loose) ||| (base &&& fresh &&& loose)

theorem mergeEmr_eq (base fresh : Word) (ds : List Done) :
    mergeEmr base fresh ds = ds.foldl (fun x d => x ||| d.st.emrEv) (keptEmr base fresh ds) := rfl

/-- A write only clears: a bit that is left was a bit of the base. -/
theorem keptEmr_le {base fresh : Word} {ds : List Done} {i : Nat} (h : (keptEmr base fresh ds).getLsbD i = true) :
    base.getLsbD i = true := by
  unfold keptEmr at h
  dsimp only at h
  split at h
  · exact getLsbD_foldl_and_le h
  · rw [BitVec.getLsbD_or, BitVec.getLsbD_and, BitVec.getLsbD_and, BitVec.getLsbD_and, Bool.or_eq_true, Bool.and_eq_true,
      Bool.and_eq_true, Bool.and_eq_true] at h
    obtain ⟨hkept, -⟩ | ⟨⟨hbase, -⟩, -⟩ := h
    · exact getLsbD_foldl_and_le hkept
    · exact hbase

/-- Bits that are not sticky are left as they are. -/
theorem keptEmr_outside {base fresh : Word} {ds : List Done} {i : Nat} (hi : i < 32) (hm : (0xF#32).getLsbD i = false)
    (h : ∀ d ∈ ds, d.st.emr.getLsbD i = base.getLsbD i) : (keptEmr base fresh ds).getLsbD i = base.getLsbD i := by
  unfold keptEmr
  dsimp only
  split
  · exact getLsbD_foldl_and h
  · have hloose : ∀ x : Word, x &&& 0xF#32 = x → x.getLsbD i = false := by
      intro x hx
      rw [← hx, BitVec.getLsbD_and, hm, Bool.and_false]
    rw [BitVec.getLsbD_or, BitVec.getLsbD_and, BitVec.getLsbD_and, BitVec.getLsbD_not,
      hloose _ (emrLoose_sticky ds (0#32, 0#32) ⟨by decide, by decide⟩), getLsbD_foldl_and h]
    simp [hi]

section
variable {s : State} {ds : List Done} (hds : ∀ d ∈ ds, DoneOk s d) (hev : s.emrEv = 0#32)
include hds hev

/-- No result has an event outside the three that instructions raise. -/
theorem done_event_outside {i : Nat} (hi : (7#32).getLsbD i = false) : ∀ d ∈ ds, d.st.emrEv.getLsbD i = false := by
  intro d hd
  rw [getLsbD_of_and_not (hds d hd).events hi, hev, BitVec.getLsbD_zero]

theorem mergeEmr_outside (fresh : Word) : mergeEmr s.emr fresh ds &&& ~~~0xF#32 = s.emr &&& ~~~0xF#32 := by
  refine and_not_of_getLsbD fun i hi hm => ?_
  have hevents : ∀ i : Fin 32, (0xF#32).getLsbD i.val = false → (7#32).getLsbD i.val = false := by decide
  rw [mergeEmr_eq, getLsbD_foldl_events (done_event_outside hds hev (hevents ⟨i, hi⟩ hm)),
    keptEmr_outside hi hm fun d hd => getLsbD_of_and_not (hds d hd).sane.emr hm]

theorem mergeEmr_nmid (fresh : Word) (h : (mergeEmr s.emr fresh ds).getLsbD 3 = true) : s.emr.getLsbD 3 = true := by
  rw [mergeEmr_eq, getLsbD_foldl_events (done_event_outside hds hev (by decide))] at h
  exact keptEmr_le h

end

/-! ### The merged state -/

/-- The results of a set that keep what the invariant asks for keep it together. -/
theorem merge_sane {s : State} {ds : List Done} (hds : ∀ d ∈ ds, DoneOk s d) (hev : s.emrEv = 0#32) : Sane s (merge s ds) where
  sr hs := mergeSr_masked hs fun d hd => (hds d hd).sane.sr hs
  vba hv := owned_induction (fun v => v &&& vbaMask = v) hv (fun d hd => (hds d hd).sane.vba hv) (and_mask_masked _ _)
  pointers hs := ⟨owned_induction (fun v => v &&& spMask = v) hs.1 (fun d hd => ((hds d hd).sane.pointers hs).1) (by decide),
    owned_induction (fun v => v &&& spMask = v) hs.2 (fun d hd => ((hds d hd).sane.pointers hs).2) (by decide)⟩
  emr := mergeEmr_outside hds hev _
  nmid := mergeEmr_nmid hds hev _

/-- Memory is put together by writes of single bytes. -/
theorem mergeMem_wf {s : State} (hm : s.mem.wf = true) (ds : List Done) : (mergeMem s ds).wf = true :=
  freeBytes_wf s _ (List.foldlRecOn (motive := fun m : Memory => m.wf = true) ds _ hm fun _ hx _ _ => copyBytes_wf _ _ hx) 200

theorem merge_mem (s : State) (ds : List Done) : MemKept s (merge s ds) := fun hm => mergeMem_wf (s := mergeBase s) hm ds

/-! ### Running the instructions of a set -/

/-- The results of one instruction of several, on a state that differs from the set's in memory and free values. -/
theorem runOne_ok {s t : State} {k : Nat} {x : Slot} {d : Done} (h : runOne t k x = .next d)
    (hst : SameSane s t ∧ t.emrEv = s.emrEv) : DoneOk s d := by
  obtain ⟨u, hexec, hu⟩ := andThen_eq_next h
  cases hu
  have hex : Executed { t with fresh := t.fresh + k } u := exec_executed hexec
  obtain ⟨hsane, hev⟩ := hst
  exact ⟨hsane.sane.trans ⟨hex.sane.sr, hex.sane.vba, hex.sane.pointers, hex.sane.emr, hex.sane.nmid⟩, hev ▸ hex.events⟩

theorem runEach_ok {s : State} {xs : List Slot} {k : Nat} {ds : List Done} (h : runEach s k xs = .next ds) : ∀ d ∈ ds, DoneOk s d := by
  induction xs generalizing k ds with
  | nil =>
    cases h
    simp
  | cons x rest ih =>
    obtain ⟨d, hone, h'⟩ := andThen_eq_next h
    obtain ⟨es, hrest, hcons⟩ := andThen_eq_next h'
    cases hcons
    intro e he
    obtain rfl | he := List.mem_cons.mp he
    · exact runOne_ok hone ⟨⟨rfl, rfl, rfl, rfl, rfl⟩, rfl⟩
    · exact ih hrest e he

theorem rerun_ok {s : State} {all : List Done} {frame : List Word} {xs : List Slot} {k : Nat} {ds es : List Done}
    (hds : ∀ d ∈ ds, DoneOk s d) (h : rerun s all frame k xs ds = .next es) : ∀ d ∈ es, DoneOk s d := by
  induction xs generalizing k ds es with
  | nil =>
    cases h
    simp
  | cons x rest ih =>
    cases ds with
    | nil =>
      cases h
      simp
    | cons d ds =>
      obtain ⟨e, hone, h'⟩ := andThen_eq_next h
      obtain ⟨fs, hrest, hcons⟩ := andThen_eq_next h'
      cases hcons
      intro f hf
      obtain rfl | hf := List.mem_cons.mp hf
      · split at hone
        · cases hone
          exact hds _ (.head _)
        · exact runOne_ok hone ⟨⟨rfl, rfl, rfl, rfl, rfl⟩, rfl⟩
      · exact ih (fun d hd => hds d (.tail _ hd)) hrest f hf

/-- A stage of a step: what the invariant asks for is kept, memory's form too. -/
def Stage (s t : State) : Prop := Sane s t ∧ MemKept s t

theorem Stage.refl (s : State) : Stage s s := ⟨.refl s, id⟩

theorem Stage.trans {s t u : State} (h : Stage s t) (h' : Stage t u) : Stage s u := ⟨h.1.trans h'.1, h'.2 ∘ h.2⟩

theorem Stage.of_same {s t : State} (h : SameSane s t) (hm : MemKept s t) : Stage s t := ⟨h.sane, hm⟩

theorem DebugOnly.stage {s t : State} (h : DebugOnly s t) : Stage s t := .of_same h.sameSane fun hm => by rwa [h.mem]

theorem Executed.stage {s t : State} (h : Executed s t) : Stage s t := ⟨h.sane, h.mem⟩

theorem runSeveral_stage {s t : State} {xs : List Slot} {frame : List Word} (hev : s.emrEv = 0#32)
    (h : runSeveral s xs frame = .next t) : Stage s t := by
  obtain ⟨ds, heach, h'⟩ := andThen_eq_next h
  have hds : ∀ d ∈ ds, DoneOk s d := runEach_ok heach
  dsimp only at h'
  split at h'
  · have hmerge : Stage s (merge s ds) := ⟨merge_sane hds hev, merge_mem s ds⟩
    generalize merge s ds = m at h' hmerge
    cases h'
    exact hmerge
  · obtain ⟨es, hrerun, hm⟩ := andThen_eq_next h'
    have hmerge : Stage s (merge s es) := ⟨merge_sane (rerun_ok hds hrerun) hev, merge_mem s es⟩
    generalize merge s es = m at hm hmerge
    cases hm
    exact hmerge.trans (.of_same ⟨rfl, rfl, rfl, rfl, rfl⟩ fun hw => freeBytes_wf s _ hw 260)

theorem looseNext_same (base : State) (tag : Nat) (s : State) : SameSane s (looseNext base tag s) ∧ (looseNext base tag s).mem = s.mem :=
  ⟨⟨rfl, rfl, rfl, rfl, rfl⟩, rfl⟩

theorem overTrap_stage (s m t : State) (k : Nat) : Stage t (overTrap s m t k) := by
  have hmem : MemKept t (overTrap s m t k) := by
    intro hm
    unfold overTrap
    dsimp only
    split <;> exact freeBytes_wf s _ hm 320
  refine .of_same ?_ hmem
  unfold overTrap
  dsimp only
  split <;> exact ⟨rfl, rfl, rfl, rfl, rfl⟩

theorem runSlots_stage {s t : State} {xs : List Slot} (hev : s.emrEv = 0#32) (h : runSlots s xs = .next t) : Stage s t := by
  unfold runSlots at h
  split at h
  · cases h
    exact .refl s
  · obtain ⟨u, hexec, hu⟩ := andThen_eq_next h
    cases hu
    exact (exec_executed hexec).stage.trans (.of_same ⟨rfl, rfl, rfl, rfl, rfl⟩ id)
  · obtain ⟨m, hseveral, h'⟩ := andThen_eq_next h
    have hm : Stage s m := runSeveral_stage hev hseveral
    split at h'
    · cases h'
      exact hm
    · obtain ⟨u, htrap, hu⟩ := andThen_eq_next h'
      cases hu
      have hnpc : Stage m { m with npc := s.npc } := .of_same ⟨rfl, rfl, rfl, rfl, rfl⟩ id
      exact ((hm.trans hnpc).trans (exec_executed htrap).stage).trans (overTrap_stage ..)

/-! ### The set with its prefix -/

/-- The marks' effect is laid over the result by bits that are legal in both. -/
theorem overlayMarks_stage {b m : State} (hm : SrLegal b → SrLegal m) (is : List Instr) {s : State} (hs : Stage b s) :
    Stage b (overlayMarks b m is s) := by
  have hmem : (overlayMarks b m is s).mem = s.mem := by
    unfold overlayMarks
    dsimp only
    split <;> rfl
  have hsr : SrLegal b → SrLegal (overlayMarks b m is s) := by
    intro hb
    have hx : (b.sr ^^^ m.sr) &&& srMask = b.sr ^^^ m.sr := masked_xor hb (hm hb)
    refine masked_or (masked_and (hs.1.sr hb) _) ?_
    split
    · exact masked_and (hm hb) _
    · rw [BitVec.and_comm _ (b.sr ^^^ m.sr)]
      exact masked_and hx _
  have hrest : (overlayMarks b m is s).vba = s.vba ∧ (overlayMarks b m is s).nsp = s.nsp ∧ (overlayMarks b m is s).esp = s.esp
      ∧ (overlayMarks b m is s).emr = s.emr := by
    unfold overlayMarks
    dsimp only
    split <;> exact ⟨rfl, rfl, rfl, rfl⟩
  obtain ⟨hvba, hnsp, hesp, hemr⟩ := hrest
  exact ⟨⟨hsr, fun hv => by rw [hvba]; exact hs.1.vba hv, fun ha => (hs.1.pointers ha).congr hnsp hesp, by rw [hemr]; exact hs.1.emr,
    fun hn => hs.1.nmid (hemr ▸ hn)⟩, fun hw => by rw [hmem]; exact hs.2 hw⟩

theorem runLegal_stage {b m t : State} {xs : List Slot} (hev : b.emrEv = 0#32) (hm : Stage b m) (h : runLegal b m xs = .next t) :
    Stage b t := by
  unfold runLegal at h
  split at h
  · cases h
    exact hm
  · obtain ⟨r, hslots, hr⟩ := andThen_eq_next h
    cases hr
    have hr : Stage { b with ifc := m.ifc } r := runSlots_stage hev hslots
    exact overlayMarks_stage hm.1.sr _ ⟨⟨hr.1.sr, hr.1.vba, hr.1.pointers, hr.1.emr, hr.1.nmid⟩, hr.2⟩

theorem prefixEffect_stage {b m : State} {p : Option Instr} (h : prefixEffect b p = .next m) : Stage b m := by
  cases p with
  | none =>
    cases h
    exact .refl b
  | some i => exact (exec_executed h).stage

theorem illegalEffect_stage (ilin ilst : Bool) (s : State) : Stage s (illegalEffect ilin ilst s) := by
  have hwithin : Within [] 0#32 s (illegalEffect ilin ilst s) :=
    ite_within (illegalSet_within (ite_within (illegalInstruction_within (.refl _ _ _)) (.refl _ _ _)))
      (ite_within (illegalInstruction_within (.refl _ _ _)) (.refl _ _ _))
  exact (hwithin.executed fun h => hwithin.regs.stacks List.not_mem_nil List.not_mem_nil h).stage

theorem runDecoded_stage {b t : State} {x : ExecSet} (hev : b.emrEv = 0#32) (h : runDecoded b x = .next t) : Stage b t := by
  obtain ⟨m, hprefix, h'⟩ := andThen_eq_next h
  dsimp only at h'
  split at h'
  · cases h'
    exact illegalEffect_stage ..
  · obtain ⟨r, hlegal, hr⟩ := andThen_eq_next h'
    cases hr
    exact (runLegal_stage hev (prefixEffect_stage hprefix) hlegal).trans (traceFlow_only ..).stage

end Sys2Proof.Machine
end

section
/-! Every step keeps the invariant (O8), and EMR's NMID, BEM and GP change at their events only (O10): the end of a set, the entry of an
exception, debug state and the events of the outside. -/

namespace Sys2Proof.Machine

/-! ### The registers after reset -/

theorem emrReset_masked (p : Params) : emrReset p &&& emrMask = emrReset p := by
  have hpin : ∀ i : Fin 7, emrMask.getLsbD (17 + i.val) = true := by decide
  have hgp : (p.emrGp.setWidth 32 <<< 17 : Word) &&& emrMask = p.emrGp.setWidth 32 <<< 17 := by
    rw [masked_iff]
    intro i hi
    simp only [BitVec.getLsbD_shiftLeft, BitVec.getLsbD_setWidth, Bool.and_eq_true, Bool.not_eq_true', decide_eq_false_iff_not] at hi
    obtain ⟨⟨-, hlow⟩, -, hbit⟩ := hi
    have hlt : i - 17 < 7 := BitVec.lt_of_getLsbD hbit
    rw [show i = 17 + (i - 17) by omega]
    exact hpin ⟨i - 17, hlt⟩
  refine masked_or hgp ?_
  split <;> decide

theorem resetSr_masked : 0x00E40000#32 &&& srMask = 0x00E40000#32 := by decide

/-- Settles O7: every register that the invariant speaks of has its reset value written out, and memory is empty. -/
theorem invariantHoldsAtReset : Obligations.InvariantHoldsAtReset := by
  have hreset : ∀ p, Invariant (State.resetWith p) := fun p =>
    { mem := rfl, nsp := BitVec.zero_and, esp := BitVec.zero_and, pc := and_mask_masked _ _, sr := resetSr_masked
      emr := emrReset_masked p, vba := and_mask_masked _ _, acc := rfl, ifc := rfl }
  exact ⟨hreset _, hreset⟩

/-! ### From one boundary between sets to the next -/

/-- What a step keeps from boundary to boundary: as `Stage`, but an NMI that is requested may set NMID; PC stays even, and nothing of a
set is left over. -/
structure StepOk (s t : State) : Prop where
  sr : SrLegal s → SrLegal t
  vba : s.vba &&& vbaMask = s.vba → t.vba &&& vbaMask = t.vba
  pointers : StacksAligned s → StacksAligned t
  emr : t.emr &&& ~~~0xF#32 = s.emr &&& ~~~0xF#32
  nmid : t.emr.getLsbD 3 = true → s.emr.getLsbD 3 = true ∨ s.inputs.nmiReq = true
  mem : MemKept s t
  pc : s.pc &&& pcMask = s.pc → t.pc &&& pcMask = t.pc
  rest : s.acc = [] ∧ s.ifc = 0#3 → t.acc = [] ∧ t.ifc = 0#3

/-- Nothing that `StepOk` speaks of changes. -/
structure Still (s t : State) : Prop where
  sane : SameSane s t
  mem : t.mem = s.mem
  pc : t.pc = s.pc
  rest : t.acc = s.acc ∧ t.ifc = s.ifc
  inputs : t.inputs = s.inputs

theorem Still.refl (s : State) : Still s s := ⟨⟨rfl, rfl, rfl, rfl, rfl⟩, rfl, rfl, ⟨rfl, rfl⟩, rfl⟩

theorem Still.trans {s t u : State} (h : Still s t) (h' : Still t u) : Still s u := by
  obtain ⟨⟨hsr, hvba, hnsp, hesp, hemr⟩, hmem, hpc, ⟨hacc, hifc⟩, hin⟩ := h
  obtain ⟨⟨hsr', hvba', hnsp', hesp', hemr'⟩, hmem', hpc', ⟨hacc', hifc'⟩, hin'⟩ := h'
  exact ⟨⟨hsr'.trans hsr, hvba'.trans hvba, hnsp'.trans hnsp, hesp'.trans hesp, hemr'.trans hemr⟩, hmem'.trans hmem, hpc'.trans hpc,
    ⟨hacc'.trans hacc, hifc'.trans hifc⟩, hin'.trans hin⟩

theorem DebugOnly.still {s t : State} (h : DebugOnly s t) : Still s t := by
  obtain ⟨e, q, rfl⟩ := h
  exact ⟨⟨rfl, rfl, rfl, rfl, rfl⟩, rfl, rfl, ⟨rfl, rfl⟩, rfl⟩

theorem Still.ite {s t u : State} {c : Prop} [Decidable c] (h : Still s t) (h' : Still s u) : Still s (if c then t else u) := by
  split
  · exact h
  · exact h'

theorem StepOk.of_stage {s t : State} (h : Stage s t) (hpc : s.pc &&& pcMask = s.pc → t.pc &&& pcMask = t.pc)
    (hrest : s.acc = [] ∧ s.ifc = 0#3 → t.acc = [] ∧ t.ifc = 0#3) : StepOk s t :=
  ⟨h.1.sr, h.1.vba, h.1.pointers, h.1.emr, fun hb => .inl (h.1.nmid hb), h.2, hpc, hrest⟩

theorem Still.stage {s t : State} (h : Still s t) : Stage s t := .of_same h.sane fun hm => by rwa [h.mem]

theorem Still.stepOk {s t : State} (h : Still s t) : StepOk s t :=
  .of_stage h.stage (fun hp => by rwa [h.pc]) fun hr => by rwa [h.rest.1, h.rest.2]

theorem StepOk.after {s t u : State} (h : StepOk s t) (h' : Still t u) : StepOk s u := by
  have hu : StepOk t u := h'.stepOk
  obtain ⟨-, -, -, -, hemr⟩ := h'.sane
  exact ⟨hu.sr ∘ h.sr, hu.vba ∘ h.vba, hu.pointers ∘ h.pointers, hu.emr.trans h.emr, fun hb => h.nmid (hemr ▸ hb), hu.mem ∘ h.mem,
    hu.pc ∘ h.pc, hu.rest ∘ h.rest⟩

theorem StepOk.before {s t u : State} (h : Still s t) (h' : StepOk t u) : StepOk s u := by
  have ht : StepOk s t := h.stepOk
  obtain ⟨-, -, -, -, hemr⟩ := h.sane
  exact ⟨h'.sr ∘ ht.sr, h'.vba ∘ ht.vba, h'.pointers ∘ ht.pointers, h'.emr.trans ht.emr,
    fun hb => (h'.nmid hb).imp (fun hn => hemr ▸ hn) fun hi => h.inputs ▸ hi, h'.mem ∘ ht.mem, h'.pc ∘ ht.pc, h'.rest ∘ ht.rest⟩

/-! ### The end of a set -/

theorem endReturn_stage {s : State} {f a v : Word} {k : State → Word → Word → State} (hk : ∀ x c w, Stage s x → Stage s (k x c w)) :
    Stage s (endReturn s f a v k) := by
  obtain hclean | ⟨c, w, hfree⟩ := endReturn_cases s f a v k
  · rw [hclean]
    exact hk s a v (.refl s)
  · rw [hfree]
    exact hk _ c w (.of_same ⟨rfl, rfl, rfl, rfl, rfl⟩ fun hm => freeBytes_wf s _ hm 400)

theorem goTo_stage {s t : State} (h : Stage s t) (a : Word) : Stage s (goTo t a) := h.trans (.of_same ⟨rfl, rfl, rfl, rfl, rfl⟩ id)

theorem endDelay_stage (d : Delay) (s : State) : Stage s (endDelay d s) := by
  cases d with
  | none | fallthrough => exact .refl s
  | jump t => exact goTo_stage (.refl s) t
  | call t => exact ((callTo_within (.refl [spDest s] 0#32 s) rfl (.head _)).executed fun h => callTo_stacks h).stage
  | sub t f => exact endReturn_stage (v := 0#32) fun x c w hx => goTo_stage hx c
  | ret t v f =>
    refine endReturn_stage (k := fun x a v => goTo (clearNmid (writeSr x v)) a) fun x c w hx => goTo_stage (hx.trans ?_) c
    exact ((clearNmid_within (writeSr_within (.refl [] srMask x))).executed fun h => clearNmid_stacks (writeSr_stacks h)).stage

theorem finish_stage (b s : State) :
    Stage s (finish b s) ∧ (finish b s).pc &&& pcMask = (finish b s).pc ∧ (finish b s).acc = [] ∧ (finish b s).ifc = 0#3 := by
  obtain ⟨e, q, hfinish⟩ := finish_eq b s
  obtain ⟨x, n, j, hloose, -, -⟩ := looseEnd_only b.delay s
  rw [hfinish _ rfl, hloose]
  have hloose : Stage s { s with npc := n, loopJump := j } := .of_same ⟨rfl, rfl, rfl, rfl, rfl⟩ id
  have hdelay : Stage s (endDelay x { s with npc := n, loopJump := j }) := hloose.trans (endDelay_stage x _)
  generalize endDelay x { s with npc := n, loopJump := j } = u at hdelay ⊢
  exact ⟨hdelay.trans (.of_same ⟨rfl, rfl, rfl, rfl, rfl⟩ id), and_mask_masked _ _, rfl, rfl⟩

theorem runSet_stepOk {s t : State} (h : runSet s = .next t) : StepOk s t := by
  obtain ⟨r, hdecoded, hr⟩ := andThen_eq_next h
  cases hr
  have hbegin : Stage s (begin s (decodeSet s (fetchWords s)).len) := .of_same ⟨rfl, rfl, rfl, rfl, rfl⟩ id
  have hset : Stage s r := hbegin.trans (runDecoded_stage rfl hdecoded)
  obtain ⟨hend, hpc, hrest⟩ := finish_stage s r
  exact .of_stage (hset.trans hend) (fun _ => hpc) fun _ => hrest

/-! ### Exceptions -/

/-- Going to the next set leaves all but PC and the fields of one set. -/
theorem advance_stage (s : State) :
    Stage s (advance s) ∧ (advance s).pc &&& pcMask = (advance s).pc ∧ (advance s).acc = [] ∧ (advance s).ifc = 0#3 := by
  obtain ⟨e, q, h⟩ := mirrorPins_only { s with
    pc := s.npc &&& pcMask, fresh := s.fresh + 8, flowed := false, acc := [], emrEv := 0#32, ifc := 0#3 }
  unfold advance
  rw [h]
  exact ⟨.of_same ⟨rfl, rfl, rfl, rfl, rfl⟩ id, and_mask_masked _ _, rfl, rfl⟩

theorem pending_nmi {s : State} (h : pending s = some .nmi) : s.inputs.nmiReq = true := by
  unfold pending at h
  split at h
  · cases h
  split at h
  · cases h
  split at h
  · cases h
  split at h
  · next hreq => exact (Bool.and_eq_true _ _ ▸ hreq).1
  split at h <;> cases h

/-- Acknowledging an exception writes no register; only an NMI writes EMR, and there sets NMID alone. -/
theorem acknowledge_keeps (s : State) (k : Pending) :
    (acknowledge s k).sr = s.sr ∧ (acknowledge s k).vba = s.vba ∧ (acknowledge s k).nsp = s.nsp ∧ (acknowledge s k).esp = s.esp
      ∧ (acknowledge s k).mem = s.mem ∧ (acknowledge s k).emr = if k = .nmi then withBit s.emr 3 true else s.emr := by
  cases k <;> exact ⟨rfl, rfl, rfl, rfl, rfl, rfl⟩

theorem acknowledge_emr (s : State) (k : Pending) :
    (acknowledge s k).emr &&& ~~~0xF#32 = s.emr &&& ~~~0xF#32
      ∧ ((acknowledge s k).emr.getLsbD 3 = true → s.emr.getLsbD 3 = true ∨ k = .nmi) := by
  obtain ⟨-, -, -, -, -, hemr⟩ := acknowledge_keeps s k
  rw [hemr]
  split
  · next hk => exact ⟨withBit_outside s.emr 3 true 0xF#32 (by decide) (by decide), fun _ => .inr hk⟩
  · exact ⟨rfl, .inl⟩

/-- The state that an exception is entered from: pending events of the outside go before the debug exception (R720). -/
def entered (b : State) (k : Pending) : State := if k = .debug then settle b else b

theorem entered_still (b : State) (k : Pending) : Still b (entered b k) :=
  .ite ((eonceEvents_only b.eonce Detected.none false b).still.trans (mirrorPins_only _).still) (.refl b)

/-- After the frame and SR are written the entry only acknowledges, and goes to the handler. -/
theorem enter_stage (b : State) (k : Pending) :
    Stage (acknowledge (takeException { entered b k with acc := [] } (offsetOf (entered b k) k) (levelOf (entered b k) k)
        (entered b k).pc) k) (enter b k)
      ∧ (enter b k).pc &&& pcMask = (enter b k).pc ∧ (enter b k).acc = [] ∧ (enter b k).ifc = 0#3 := by
  unfold enter
  rw [show (if k = .debug then settle b else b) = entered b k from rfl]
  dsimp only
  generalize acknowledge (takeException { entered b k with acc := [] } (offsetOf (entered b k) k) (levelOf (entered b k) k)
    (entered b k).pc) k = u
  obtain ⟨hadvance, hpc, hrest⟩ := advance_stage (samplePcs (entered b k).eonce.pcLast
    (eonceEvents (entered b k).eonce
      { detect (entered b k).eonce (traceInt { u with window := 3 } (entered b k).lastPc
          (vectorAddr (entered b k) (offsetOf (entered b k) k))) with pcs := 0#18 } false
      (traceInt { u with window := 3 } (entered b k).lastPc (vectorAddr (entered b k) (offsetOf (entered b k) k)))))
  have hwindow : Stage u { u with window := 3 } := .of_same ⟨rfl, rfl, rfl, rfl, rfl⟩ id
  refine ⟨?_, hpc, hrest⟩
  exact hwindow.trans ((traceInt_only ..).stage.trans ((eonceEvents_only ..).stage.trans ((samplePcs_only ..).stage.trans hadvance)))

/-- Entering a pending exception: the frame, SR and ESP by `takeException`, NMID by the acknowledgement of an NMI that is requested. -/
theorem enter_stepOk {s : State} {k : Pending} (hk : pending s = some k) : StepOk s (enter s k) := by
  obtain ⟨hentry, hpc, hrest⟩ := enter_stage s k
  have hstart : Stage s { entered s k with acc := [] } :=
    (entered_still s k).stage.trans (.of_same ⟨rfl, rfl, rfl, rfl, rfl⟩ id)
  have htake : Stage { entered s k with acc := [] }
      (takeException { entered s k with acc := [] } (offsetOf (entered s k) k) (levelOf (entered s k) k) (entered s k).pc) :=
    ((takeException_within ..).executed fun h => takeException_stacks h).stage
  generalize takeException { entered s k with acc := [] } (offsetOf (entered s k) k) (levelOf (entered s k) k) (entered s k).pc = u
    at hentry htake
  have hu : Stage s u := hstart.trans htake
  obtain ⟨hsr, hvba, hnsp, hesp, hmem, -⟩ := acknowledge_keeps u k
  obtain ⟨hemr, hnmid⟩ := acknowledge_emr u k
  refine ⟨fun hs => hentry.1.sr ?_, fun hv => hentry.1.vba ?_, fun ha => hentry.1.pointers ((hu.1.pointers ha).congr hnsp hesp),
    (hentry.1.emr.trans hemr).trans hu.1.emr, fun hb => ?_, fun hw => hentry.2 ?_, fun _ => hpc, fun _ => hrest⟩
  · rw [SrLegal, hsr]
    exact hu.1.sr hs
  · rw [hvba]
    exact hu.1.vba hv
  · obtain hset | rfl := hnmid (hentry.1.nmid hb)
    · exact .inl (hu.1.nmid hset)
    · exact .inr (pending_nmi hk)
  · rw [hmem]
    exact hu.2 hw

theorem coreStep_stepOk {s t : State} (h : coreStep s = .next t) : StepOk s t := by
  unfold coreStep at h
  split at h
  · next k hk =>
    split at h
    · cases h
      exact enter_stepOk hk
    · exact runSet_stepOk h
  · exact runSet_stepOk h

theorem leaveWait_stepOk (s : State) : StepOk s (leaveWait s) := by
  have hproc : Still s { s with proc := .execution } := ⟨⟨rfl, rfl, rfl, rfl, rfl⟩, rfl, rfl, ⟨rfl, rfl⟩, rfl⟩
  unfold leaveWait
  dsimp only
  split
  · next k hk =>
    split
    · exact .before hproc (enter_stepOk hk)
    · exact hproc.stepOk
  · exact hproc.stepOk

/-! ### Debug state and the EOnCE -/

/-- An update of the processing state and the EOnCE. -/
theorem Still.procEonce (s : State) (p : Proc) (e : Eonce) : Still s { s with proc := p, eonce := e } :=
  ⟨⟨rfl, rfl, rfl, rfl, rfl⟩, rfl, rfl, ⟨rfl, rfl⟩, rfl⟩

theorem settle_still (s : State) : Still s (settle s) :=
  (eonceEvents_only s.eonce Detected.none false s).still.trans (mirrorPins_only _).still

theorem samplePcNext_still (s : State) : Still s (samplePcNext s) := .ite (DebugOnly.eonce s _).still (.refl s)

theorem enterDebug_still (s : State) : Still s (enterDebug s) :=
  (samplePcNext_still s).trans (((Still.procEonce ..).trans (mirrorPins_only _).still).trans (settle_still _))

theorem exitDebug_still (s : State) : Still s (exitDebug s) := (Still.procEonce ..).trans (mirrorPins_only _).still

theorem settleEvents_still (s : State) : Still s (settleEvents s) := .ite (.refl s) (settle_still s)

theorem raise_still (s : State) (x : BitVec 18) : Still s (raise s x) :=
  .ite ((DebugOnly.eonce s _).still.trans (settleEvents_still _)) (.refl s)

theorem releaseReset_still (s : State) : Still s (releaseReset s) :=
  .ite (.ite ((DebugOnly.eonce s _).still.trans (enterDebug_still _)) (.ite (enterDebug_still s) (Still.procEonce ..))) (.refl s)

theorem setEePins_still (s : State) (x : BitVec 7) : Still s (setEePins s x) := by
  have hpins : ∀ {t : State} (v : BitVec 18) (c : Prop) [Decidable c], Still s t →
      Still s (raise (if c then debugStateRequest t 0x400#32 else t) v) := fun v c _ ht =>
    ht.trans ((Still.ite (debugStateRequest_only _ _).still (.refl _)).trans (raise_still _ v))
  exact hpins _ _ (DebugOnly.eonce s _).still

theorem jtagSet_still (s : State) (k : Nat) (v : BitVec 64) : Still s (jtagSet s k v) :=
  .ite (.ite ((DebugOnly.eonce s _).still.trans (debugException_only _ _).still) (DebugOnly.eonce s _).still)
    (.ite (.refl s) (DebugOnly.eonce s _).still)

theorem jtagGet_still (s : State) (k : Nat) : Still s (jtagGet s k) :=
  .ite (.ite ((DebugOnly.eonce s _).still.trans (debugException_only _ _).still) (DebugOnly.eonce s _).still)
    (.ite (DebugOnly.eonce s _).still (.refl s))

theorem setEcr_still (s : State) (r g x : Bool) (k : BitVec 7) : Still s (setEcr s r g x k) := (DebugOnly.eonce s _).still

/-! ### JTAG commands -/

/-- If this is a next state, the step to it keeps what the invariant asks for. -/
def EndsOk (s : State) (r : Res State) : Prop := ∀ t, r = .next t → StepOk s t

theorem EndsOk.next {s t : State} (h : StepOk s t) : EndsOk s (.next t) := by
  rintro _ ⟨⟩
  exact h

theorem EndsOk.still {s t : State} (h : Still s t) : EndsOk s (.next t) := .next h.stepOk

theorem EndsOk.ite {s : State} {c : Prop} [Decidable c] {r r' : Res State} (h : EndsOk s r) (h' : EndsOk s r') :
    EndsOk s (if c then r else r') := by
  split
  · exact h
  · exact h'

theorem EndsOk.before {s t : State} {r : Res State} (h : Still s t) (h' : EndsOk t r) : EndsOk s r := fun u hu => .before h (h' u hu)

theorem EndsOk.after {s : State} {r : Res State} {k : State → State} (h : EndsOk s r) (hk : ∀ u, Still u (k u)) :
    EndsOk s (andThen r fun u => .next (k u)) := by
  intro t ht
  obtain ⟨u, hu, hnext⟩ := andThen_eq_next ht
  cases hnext
  exact (h u hu).after (hk u)

theorem singleStep_endsOk (s : State) (ex : Bool) : EndsOk s (singleStep s ex) := by
  have hcore : EndsOk s (coreStep (exitDebug s)) := .before (exitDebug_still s) fun _ => coreStep_stepOk
  have hdebug : ∀ (e : State → Eonce) (u : State), Still u (enterDebug { u with eonce := e u }) := fun e u =>
    (DebugOnly.eonce u (e u)).still.trans (enterDebug_still _)
  exact .ite hcore (hcore.after (hdebug _))

theorem goExit_endsOk (s : State) (go ex : Bool) : EndsOk s (goExit s go ex) :=
  .ite (.ite (singleStep_endsOk s ex) (.ite (.still (exitDebug_still s)) (.still (.refl s)))) (.still (.refl s))

theorem inject_endsOk (s : State) (i : Instr) : EndsOk s (inject s i) := by
  intro t ht
  obtain ⟨r, hexec, hnext⟩ := andThen_eq_next ht
  cases hnext
  have hstart : Stage s { s with npc := s.pc, acc := [], emrEv := 0#32, ifc := 0#3 } := .of_same ⟨rfl, rfl, rfl, rfl, rfl⟩ id
  obtain ⟨hadvance, hpc, hrest⟩ := advance_stage r
  exact .of_stage (hstart.trans ((exec_executed hexec).stage.trans hadvance)) (fun _ => hpc) fun _ => hrest

theorem runCoreCmd_endsOk (s : State) : EndsOk s (runCoreCmd s) := by
  have hillegal : Stage s { illegalInstruction s with emrEv := 0#32 } :=
    ((illegalInstruction_within (.refl [] 0#32 s)).executed fun h => illegalInstruction_stacks h).stage.trans
      (.of_same ⟨rfl, rfl, rfl, rfl, rfl⟩ id)
  unfold runCoreCmd
  dsimp only
  split
  · exact .next (.of_stage hillegal id id)
  · exact .ite (inject_endsOk s _) (.still (.refl s))

theorem coreCommand_endsOk (s : State) (c : CoreCmd) (ex : Bool) : EndsOk s (coreCommand s c ex) := by
  have hdone : EndsOk s (runCoreCmd { s with eonce := { s.eonce with coreCmd := c } }) :=
    .before (DebugOnly.eonce s _).still (runCoreCmd_endsOk _)
  exact .ite (.ite (hdone.after exitDebug_still) hdone) (.still (.refl s))

theorem jtagWrite_endsOk (s : State) (k : BitVec 7) (v : BitVec 64) (go ex : Bool) : EndsOk s (jtagWrite s k v go ex) :=
  .ite (.ite (.ite (coreCommand_endsOk s _ ex) (.before (DebugOnly.eonce s _).still (goExit_endsOk _ false ex))) (.still (.refl s)))
    (.before ((jtagSet_still s _ v).trans (mirrorPins_only _).still) (goExit_endsOk _ go ex))

theorem jtagRead_endsOk (s : State) (k : BitVec 7) (go ex : Bool) : EndsOk s (jtagRead s k go ex) :=
  .before ((jtagGet_still s _).trans (mirrorPins_only _).still) (goExit_endsOk _ _ ex)

/-! ### Events of the outside -/

/-- Every event but the assertion of reset. -/
theorem applyEvent_endsOk (s : State) (v : HostEvent) (hv : v ≠ .reset true) : EndsOk s (applyEvent s v) := by
  cases v with
  | reset b =>
    cases b with
    | true => exact absurd rfl hv
    | false => exact .still (releaseReset_still s)
  | inputs x => exact .next (.of_stage (.of_same ⟨rfl, rfl, rfl, rfl, rfl⟩ id) id id)
  | wakeFromStop => exact .still (.ite (Still.procEonce ..) (.refl s))
  | memWrite a b => exact .next (.of_stage (.of_same ⟨rfl, rfl, rfl, rfl, rfl⟩ fun hm => putByte_wf hm a b) id id)
  | eePins x => exact .still (setEePins_still s x)
  | ecPulse i => exact .still (.ite ((DebugOnly.eonce s _).still.trans (settleEvents_still _)) (.refl s))
  | extEdca i => exact .still (.ite (raise_still s _) (.refl s))
  | sysDebug => exact .still (debugStateRequest_only s _).still
  | jtagEnable => exact .still (DebugOnly.eonce s _).still
  | jtagDebugRequest => exact .still ((DebugOnly.eonce s _).still.trans (debugStateRequest_only _ _).still)
  | jtagWrite k x go ex => exact .before (setEcr_still ..) (jtagWrite_endsOk _ k x go ex)
  | jtagRead k go ex => exact .before (setEcr_still ..) (jtagRead_endsOk _ k go ex)
  | coreCommand ws hi lo ex => exact .before (setEcr_still ..) (coreCommand_endsOk _ _ ex)

/-- A step that handles no assertion of reset. -/
theorem step_stepOk {s t : State} (hreset : s.events.head? ≠ some (.reset true)) (h : step s = .next t) : StepOk s t := by
  unfold step at h
  split at h
  · next v rest hev =>
    have hv : v ≠ .reset true := by
      rintro rfl
      exact hreset (by rw [hev]; rfl)
    have hevents : Still s { s with events := rest } := ⟨⟨rfl, rfl, rfl, rfl, rfl⟩, rfl, rfl, ⟨rfl, rfl⟩, rfl⟩
    exact .before hevents (applyEvent_endsOk { s with events := rest } v hv t h)
  · split at h
    · cases h
      exact (Still.refl s).stepOk
    · cases h
      exact (Still.refl s).stepOk
    · cases h
      split
      · exact (enterDebug_still s).stepOk
      · split
        · exact leaveWait_stepOk s
        · exact (Still.refl s).stepOk
    · cases h
      exact (Still.ite (enterDebug_still s) (.ite (Still.procEonce ..) (.refl s))).stepOk
    · split at h
      · cases h
        exact (enterDebug_still s).stepOk
      · exact coreStep_stepOk h

/-- The step that handles the assertion of reset. -/
theorem step_of_reset {s : State} {rest : List HostEvent} (h : s.events = .reset true :: rest) :
    step s = .next (assertReset { s with events := rest }) := by
  unfold step
  rw [h]
  rfl

/-! ### The invariant and EMR -/

/-- EMR keeps its reserved bits as long as only the four sticky bits change. -/
theorem emr_masked_of_sticky {x y : Word} (h : y &&& ~~~0xF#32 = x &&& ~~~0xF#32) (hx : x &&& emrMask = x) : y &&& emrMask = y := by
  have hsticky : ∀ i : Fin 32, (0xF#32).getLsbD i.val = true → emrMask.getLsbD i.val = true := by decide
  rw [masked_iff] at hx ⊢
  intro i hi
  cases hm : (0xF#32).getLsbD i with
  | true => exact hsticky ⟨i, BitVec.lt_of_getLsbD hi⟩ hm
  | false => exact hx i (by rw [← getLsbD_of_and_not h hm, hi])

theorem StepOk.invariant {s t : State} (h : StepOk s t) (hs : Invariant s) : Invariant t := by
  obtain ⟨hnsp, hesp⟩ := h.pointers ⟨hs.nsp, hs.esp⟩
  obtain ⟨hacc, hifc⟩ := h.rest ⟨hs.acc, hs.ifc⟩
  exact { mem := h.mem hs.mem, nsp := hnsp, esp := hesp, pc := h.pc hs.pc, sr := h.sr hs.sr, emr := emr_masked_of_sticky h.emr hs.emr
          vba := h.vba hs.vba, acc := hacc, ifc := hifc }

/-- Reset writes what the invariant speaks of, but for memory, which stays. -/
theorem assertReset_invariant {s : State} (hm : s.mem.wf = true) : Invariant (assertReset s) :=
  { invariantHoldsAtReset.2 s.params with mem := hm }

/-- Settles O8: reset writes the registers that the invariant speaks of, every other step keeps what it asks for. -/
theorem stepKeepsTheInvariant : Obligations.StepKeepsTheInvariant := by
  intro s t hs hstep
  by_cases hreset : s.events.head? = some (.reset true)
  · obtain ⟨rest, hrest⟩ := List.head?_eq_some_iff.mp hreset
    rw [step_of_reset hrest] at hstep
    cases hstep
    exact assertReset_invariant hs.mem
  · exact (step_stepOk hreset hstep).invariant hs

/-- EMR holds no NMID after reset. -/
theorem emrReset_nmid (p : Params) : (emrReset p).getLsbD 3 = false := by
  have hbem : (if p.bigEndian then 0x00010000#32 else 0#32).getLsbD 3 = false := by split <;> decide
  rw [emrReset, BitVec.getLsbD_or, hbem, Bool.or_false, BitVec.getLsbD_shiftLeft]
  simp

/-- The pins in EMR are not sticky bits, so a step keeps them with all but those. -/
theorem pins_of_sticky {x y : Word} (h : y &&& ~~~0xF#32 = x &&& ~~~0xF#32) : y &&& 0x00FF0000#32 = x &&& 0x00FF0000#32 := by
  have hpins : (0x00FF0000#32 : Word) = ~~~0xF#32 &&& 0x00FF0000#32 := by decide
  rw [hpins, ← BitVec.and_assoc, ← BitVec.and_assoc, h]

/-- Settles O10: no instruction sets NMID, and only the acknowledgement of an NMI that is requested does; but for reset only sticky bits
of EMR are written. -/
theorem emrBitsChangeAtTheirEventsOnly : Obligations.EmrBitsChangeAtTheirEventsOnly := by
  intro s t hstep
  by_cases hreset : s.events.head? = some (.reset true)
  · obtain ⟨rest, hrest⟩ := List.head?_eq_some_iff.mp hreset
    rw [step_of_reset hrest] at hstep
    cases hstep
    exact ⟨fun hset _ => absurd hset (by simp only [assertReset, State.resetWith, emrReset_nmid, Bool.false_eq_true, not_false_iff]),
      fun hne => absurd hreset hne⟩
  · have h : StepOk s t := step_stepOk hreset hstep
    refine ⟨fun hset hclear => (h.nmid hset).resolve_left ?_, fun _ => pins_of_sticky h.emr⟩
    rw [hclear]
    exact Bool.false_ne_true

end Sys2Proof.Machine
end

section
/-! The saturable additions, subtractions and shifts by one (O12; spec/40_dalu_arith.md R202, R205).  Each instruction ends in
`writeArith` of its exact result, the carry written over it where it has one; a register minus itself is CLR, whose zero is what
`writeArith` of 0 says. -/

namespace Sys2Proof.Machine

/-- An instruction that ends in a state completes with what holds of that state. -/
theorem Runs.of_exec {i : Instr} {s t : State} {P : State → Prop} (h : exec i s = .next t) (hp : P t) : Runs i s P := ⟨t, h, hp⟩

/-! ### The carry over a result -/

@[simp] theorem dreg_setC (s : State) (c : Bool) (n : DReg) : dreg (setC s c) n = dreg s n := rfl
@[simp] theorem ltag_setC (s : State) (c : Bool) (n : DReg) : ltag (setC s c) n = ltag s n := rfl
@[simp] theorem dovf_setC (s : State) (c : Bool) : dovf (setC s c) = dovf s := rfl

/-- The carry is no part of a result. -/
theorem Written.withC {n : DReg} {x top : Int} {s t : State} (h : Written n x top s t) (c : Bool) :
    Written n x top s (setC t c) :=
  ⟨h.wrapped, h.tagged, h.overflow, h.clamped, h.untagged, h.saturated⟩

/-- A saturable result with a carry. -/
theorem Saturable.withC {n : DReg} {x : Int} {s t : State} (h : Saturable n x 0#32 s t) (c : Bool) :
    Saturable n x bitC s (setC t c) ∧ carry (setC t c) = c := by
  obtain ⟨hframe, hwritten⟩ := h
  refine ⟨⟨?_, hwritten.withC c⟩, carry_setC t c⟩
  simpa using hframe.withC c

/-! ### Sums, differences and zero -/

/-- A sum with its carry out of bit 39 (R205, R212). -/
theorem addTo_spec (s : State) (n : DReg) (a b : DWord) :
    Saturable n (a.toInt + b.toInt) bitC s (addTo s n a b) ∧ carry (addTo s n a b) = decide (2 ^ 40 ≤ a.toNat + b.toNat) :=
  (writeArith_spec s n (a.toInt + b.toInt)).withC (carryOut a b 0)

/-- A difference with its borrow (R205, R239). -/
theorem subTo_spec (s : State) (n : DReg) (a b : DWord) :
    Saturable n (a.toInt - b.toInt) bitC s (subTo s n a b) ∧ carry (subTo s n a b) = decide (a.toNat < b.toNat) :=
  (writeArith_spec s n (a.toInt - b.toInt)).withC (borrowOut a b 0)

/-- CLR writes 0 and clears the limit tag and C (R218). -/
theorem clear_spec (s : State) (n : DReg) :
    Plain [.d n] bitC s (clear s n) ∧ dreg (clear s n) n = 0#40 ∧ ltag (clear s n) n = false ∧ carry (clear s n) = false := by
  refine ⟨?_, dreg_setD_same s n 0#40 false, ltag_setD_same s n 0#40 false, carry_setC _ _⟩
  simpa [clear] using (setD_frame s n 0#40 false).trans (setC_frame (setD s n 0#40 false) false)

/-- The zero that CLR writes is a saturable result of 0: it fits every limit. -/
theorem clear_saturable (s : State) (n : DReg) : Saturable n 0 bitC s (clear s n) := by
  obtain ⟨hframe, hvalue, htag, -⟩ := clear_spec s n
  have hdovf : dovf (clear s n) = dovf s := rfl
  have hfits : ∀ k, beyond k 0 = false := fun k => by simp [beyond]
  refine ⟨hframe.arith, ?_⟩
  constructor <;> intros <;> simp [hvalue, htag, hdovf, hfits]

/-- The difference of two registers; of a register and itself it is CLR (R218, R239). -/
theorem subRegs_spec (s : State) (n a b : DReg) :
    Saturable n (sD s a - sD s b) bitC s (subRegs s n a b) ∧ carry (subRegs s n a b) = decide (uD s a < uD s b) := by
  unfold subRegs
  split
  case isTrue hab =>
    obtain ⟨-, -, -, hcarry⟩ := clear_spec s n
    subst hab
    rw [sub_self, hcarry]
    exact ⟨clear_saturable s n, by simp⟩
  case isFalse => exact subTo_spec s n (dreg s a) (dreg s b)

/-! ### The immediate operands -/

theorem toNat_zeroExtend40 {w : Nat} (u : BitVec w) (h : w < 40) : (u.setWidth 40).toNat = u.toNat :=
  BitVec.toNat_setWidth_of_le h.le

/-- A zero-extended immediate is not negative. -/
theorem toInt_zeroExtend40 {w : Nat} (u : BitVec w) (h : w < 40) : (u.setWidth 40).toInt = u.toNat := by
  have hpow : 2 ^ (w + 1) ≤ 2 ^ 40 := Nat.pow_le_pow_right (by decide) h
  have hlt : 2 * (u.setWidth 40).toNat < 2 ^ 40 := by
    rw [toNat_zeroExtend40 u h]
    have := u.isLt
    omega
  rw [BitVec.toInt_eq_toNat_of_lt hlt, toNat_zeroExtend40 u h]

/-- Settles O12: each instruction ends in `writeArith` of its exact result. -/
theorem saturableArithmetic : Obligations.SaturableArithmetic := by
  refine ⟨fun n s => .of_exec rfl ?abs, fun u n s => .of_exec rfl ?addImm, fun a b n s => .of_exec rfl (addTo_spec ..),
    fun a b n s => .of_exec rfl (addTo_spec ..), fun v a n s => .of_exec rfl (writeArith_spec ..),
    fun a n s => .of_exec rfl ((writeArith_spec ..).withC _), fun a n s => .of_exec rfl ((writeArith_spec ..).withC _),
    fun n s => .of_exec rfl (addTo_spec ..), fun n s => .of_exec rfl (addTo_spec ..), fun n s => .of_exec rfl (addTo_spec ..),
    fun n s => .of_exec rfl ?neg, fun u n s => .of_exec rfl ?subImm, fun a b n s => .of_exec rfl (subRegs_spec ..),
    fun a b n s => .of_exec rfl (subRegs_spec ..), fun a b n s => .of_exec rfl (subRegs_spec ..),
    fun v n s => .of_exec rfl (writeArith_spec ..)⟩
  case abs =>
    have habs : ((sD s n).natAbs : Int) = if sD s n < 0 then -sD s n else sD s n := by omega
    exact habs ▸ writeArith_spec s n _
  case addImm =>
    have h := addTo_spec s n (dreg s n) (u.setWidth 40)
    rwa [toInt_zeroExtend40 u (by decide), toNat_zeroExtend40 u (by decide)] at h
  case neg => exact zero_sub (sD s n) ▸ writeArith_spec s n _
  case subImm =>
    have h := subTo_spec s n (dreg s n) (u.setWidth 40)
    rwa [toInt_zeroExtend40 u (by decide), toNat_zeroExtend40 u (by decide)] at h

end Sys2Proof.Machine
end

section
/-! SUBL, SBC, DIV, DECGE, IADDNC.W and CLR (O13; spec/40_dalu_arith.md R203, R218, R223 to R225, R237, R241).  A second
overflow condition, the sign change of a shift, is laid over the result: overflow events compose. -/

namespace Sys2Proof.Machine

/-! ### A second overflow over a result -/

/-- Two overflow events in a row are one. -/
theorem OverflowRule.trans {s t u : State} (h : OverflowRule s t) (h' : OverflowRule t u) (hov : ovEnable t = ovEnable s) :
    OverflowRule s u where
  sticky hs := h'.sticky (h.sticky hs)
  request := by
    have hst := h.sticky
    have htu := h'.sticky
    rw [h'.request, h.request, hov]
    cases hs : dovf s <;> cases ht : dovf t <;> cases hu : dovf u <;> simp_all
  eonce := by rw [h'.eonce, h.eonce]
  quiet hq := by
    have hst := h.sticky
    have htu := h'.sticky
    have hq1 : (dovf t && !dovf s && ovEnable s) = false := by
      cases ht : dovf t
      · rfl
      · simpa [htu ht] using hq
    have hq2 : (dovf u && !dovf t && ovEnable t) = false := by
      rw [hov]
      cases hs : dovf s
      · cases ht : dovf t <;> simp_all
      · simp [hst hs]
    rw [h'.quiet hq2, h.quiet hq1]

/-- SR keeps its bits when none is listed. -/
theorem Untouched.sr_eq {ds : List Dest} {c : Word} {s t : State} (h : Untouched ds 0#32 c s t) : t.sr = s.sr := by
  have hsr := h.sr
  rwa [and_not_zero, and_not_zero] at hsr

theorem overflowIf_frame (s : State) (b : Bool) : Arith [] 0#32 s (overflowIf b s) := by
  cases b
  · exact (Plain.refl [] 0#32 s).arith
  · exact overflow_frame s

/-- A result with an overflow event over it: the frame is the result's. -/
theorem Arith.withOverflow {ds : List Dest} {s t : State} (h : Arith ds 0#32 s t) (b : Bool) :
    Arith ds 0#32 s (overflowIf b t) := by
  obtain ⟨hu, hc, hf, hr, ho, hm⟩ := h
  obtain ⟨hu', hc', ⟨hf1, hf2⟩, hr', ho', hm'⟩ := overflowIf_frame t b
  have hov : ovEnable t = ovEnable s := by rw [ovEnable, srBit, hu.sr_eq]; rfl
  refine ⟨?_, hc.trans hc', ⟨hf1.trans hf.1, hf2.trans hf.2⟩, hr.trans hr', ho.trans ho' hov, fun a => (hm' a).trans (hm a)⟩
  simpa using hu.trans hu'

/-! ### Bits and signs of 40-bit values -/

/-- Bit 39 is the sign. -/
theorem getLsbD_39_eq (v : DWord) : v.getLsbD 39 = decide (v.toInt < 0) := by
  rw [← BitVec.msb_eq_toInt, BitVec.msb_eq_getLsbD_last]

/-- Bits 39 and 38 differ exactly if the value, doubled, leaves 40 bits. -/
theorem signChanges_eq_beyond (v : DWord) : (v.getLsbD 39 != v.getLsbD 38) = beyond 38 v.toInt := by
  have h38 : v.getLsbD 38 = decide (v.toNat / 2 ^ 38 % 2 = 1) := Nat.testBit_eq_decide_div_mod_eq
  have hlt := v.isLt
  have hcond := BitVec.toInt_eq_toNat_cond v
  rw [getLsbD_39_eq, h38, beyond, Bool.eq_iff_iff]
  simp only [bne_iff_ne, ne_eq, decide_eq_decide, Bool.or_eq_true, decide_eq_true_eq]
  split at hcond <;> omega

/-- Masking the 16 low bits off rounds down to a multiple of 65536 (R224). -/
theorem toInt_and_high (v : DWord) : (v &&& 0xFFFFFF0000#40).toInt = v.toInt / 65536 * 65536 := by
  have hmask : ∀ i : Fin 40, (0xFFFFFF0000#40).getLsbD i.val = decide (16 ≤ i.val) := by decide
  have hshift : v &&& 0xFFFFFF0000#40 = (v >>> 16) <<< 16 := by
    apply BitVec.eq_of_getLsbD_eq
    intro i hi
    have hback : 16 ≤ i → 16 + (i - 16) = i := by omega
    have := hmask ⟨i, hi⟩
    by_cases h16 : 16 ≤ i
    · simp_all [hback h16]
    · simp_all
  have hnat : (v &&& 0xFFFFFF0000#40).toNat = v.toNat / 65536 * 65536 := by
    rw [hshift, BitVec.toNat_shiftLeft, BitVec.toNat_ushiftRight, Nat.shiftLeft_eq, Nat.shiftRight_eq_div_pow]
    have := v.isLt
    omega
  have hlt := v.isLt
  rw [BitVec.toInt_eq_toNat_cond, BitVec.toInt_eq_toNat_cond v, hnat]
  split <;> split <;> omega

/-! ### The instructions -/

/-- A doubled register less another, the sign change of the doubling over it (R241). -/
theorem subl_spec (a n : DReg) (s : State) : Runs (.subl a n) s fun t =>
    Arith [.d n] bitC s t ∧ carry t = decide (2 * uD s n % 2 ^ 40 < uD s a)
      ∧ (satMode s = false →
          (dreg t n).toInt = (2 * sD s n - sD s a).bmod (2 ^ 40)
            ∧ (scaling s ≠ 3 → ltag t n = beyond (limitBits s) ((2 * sD s n - sD s a).bmod (2 ^ 40)))
            ∧ dovf t = (dovf s || beyond 39 (2 * sD s n - sD s a) || beyond 38 (sD s n)))
      ∧ (satMode s = true →
          (dreg t n).toInt = (if 2 ^ 31 ≤ 2 * sD s n - sD s a then 2 ^ 31 - 1
              else if 2 * sD s n - sD s a < -2 ^ 31 then -2 ^ 31 else 2 * sD s n - sD s a)
            ∧ ltag t n = false ∧ dovf t = (dovf s || beyond 31 (2 * sD s n - sD s a) || beyond 38 (sD s n))) := by
  have hmoved := signChanges_eq_beyond (dreg s n)
  obtain ⟨hframe, hw⟩ := writeArith_spec s n (2 * sD s n - sD s a)
  refine .of_exec rfl ⟨?_, ?_, fun hm => ?_, fun hm => ?_⟩
  · simpa using (hframe.withOverflow _).withC _
  · rw [carry_setC, borrowOut, BitVec.toNat_shiftLeft, Nat.shiftLeft_eq, pow_one, Nat.mul_comm]
    rfl
  · simp only [dreg_setC, ltag_setC, dovf_setC, dreg_overflowIf, ltag_overflowIf, dovf_overflowIf, hmoved]
    exact ⟨hw.wrapped hm, hw.tagged hm, by rw [hw.overflow hm]; rfl⟩
  · simp only [dreg_setC, ltag_setC, dovf_setC, dreg_overflowIf, ltag_overflowIf, dovf_overflowIf, hmoved]
    exact ⟨hw.clamped hm, hw.untagged hm, by rw [hw.saturated hm]; rfl⟩

/-- A special result with a carry. -/
theorem Special.withC {n : DReg} {x : Int} {s t : State} (h : Special n x 0#32 s t) (c : Bool) : Special n x bitC s (setC t c) := by
  obtain ⟨hframe, hvalue, htag⟩ := h
  exact ⟨by simpa using hframe.withC c, hvalue, htag⟩

/-- A special result with an overflow event over it. -/
theorem Special.withOverflow {n : DReg} {x : Int} {s t : State} (h : Special n x 0#32 s t) (b : Bool) :
    Special n x 0#32 s (overflowIf b t) := by
  obtain ⟨hframe, hvalue, htag⟩ := h
  exact ⟨hframe.withOverflow b, by rwa [dreg_overflowIf], by rwa [ltag_overflowIf]⟩

/-- One step of a non-restoring division (R224). -/
theorem div_spec (a n : DReg) (s : State) (x : Int)
    (hx : x = (if (sD s n < 0) = (sD s a < 0) then 2 * sD s n + (carry s).toNat - sD s a / 65536 * 65536
      else 2 * sD s n + (carry s).toNat + sD s a / 65536 * 65536)) :
    Runs (.div a n) s fun t => Special n x bitC s t ∧ dovf t = (dovf s || beyond 39 x || beyond 38 (sD s n))
      ∧ carry t = decide (0 ≤ x.bmod (2 ^ 40)) := by
  have hm : ((dreg s a) &&& 0xFFFFFF0000#40).toInt = sD s a / 65536 * 65536 := toInt_and_high (dreg s a)
  have hsigns : ((dreg s n).getLsbD 39 != (dreg s a).getLsbD 39) = !decide ((sD s n < 0) = (sD s a < 0)) := by
    rw [getLsbD_39_eq, getLsbD_39_eq]
    change (decide (sD s n < 0) != decide (sD s a < 0)) = _
    by_cases hn : sD s n < 0 <;> by_cases ha : sD s a < 0 <;> simp [hn, ha]
  have hexec : exec (.div a n) s = .next (setC (overflowIf ((dreg s n).getLsbD 39 != (dreg s n).getLsbD 38)
      (writeArith6 s n x)) (!(wrap40 x).getLsbD 39)) := by
    show execDiv a n s = _
    rw [execDiv, hm, hsigns]
    by_cases h : (sD s n < 0) = (sD s a < 0)
    · simp only [h, decide_true, Bool.not_true, Bool.false_eq_true, if_false, if_true] at hx ⊢
      rw [hx]; rfl
    · simp only [h, decide_false, Bool.not_false, if_false, if_true] at hx ⊢
      rw [hx]; rfl
  obtain ⟨hspecial, hdovf⟩ := writeArith6_spec s n x
  refine .of_exec hexec ⟨(hspecial.withOverflow _).withC _, ?_, ?_⟩
  · rw [dovf_setC, dovf_overflowIf, hdovf, signChanges_eq_beyond]
    rfl
  · rw [carry_setC, getLsbD_39_eq, toInt_wrap40, ← decide_not]
    exact decide_eq_decide.mpr Int.not_lt

/-- A decrement that tests its exact result (R223). -/
theorem decge_spec (n : DReg) (s : State) : Runs (.decge n) s fun t =>
    Wrapping n (sD s n - 1) (bitC ||| bitT) s t ∧ carry t = decide (uD s n = 0) ∧ tBit t = decide (1 ≤ sD s n) := by
  obtain ⟨hframe, hrest⟩ := writeWrap_spec s n (sD s n - 1)
  refine .of_exec rfl ⟨⟨?_, hrest⟩, ?_, ?_⟩
  · simpa using (hframe.withC (borrowOut (dreg s n) 1#40 0)).withT (decide (0 ≤ sD s n - 1))
  · have hcarry : ∀ (t : State) (b : Bool), carry (setT t b) = carry t := fun t b => srBit_setSrBit t 1 b 0 (by decide)
    rw [hcarry, carry_setC]
    exact decide_eq_decide.mpr Nat.lt_one_iff
  · rw [tBit_setT]
    exact decide_eq_decide.mpr (by omega)

/-- CLR, and SUB of a register from itself, is `clear` (R218). -/
theorem exec_clears (a n : DReg) (s : State) (i : Instr)
    (hi : i ∈ ([.clr a n, .subReg a a n, .subRegSwap a a n, .subSame a a n] : List Instr)) : exec i s = .next (clear s n) := by
  have hsub : subRegs s n a a = clear s n := if_pos rfl
  simp only [List.mem_cons, List.not_mem_nil, or_false] at hi
  obtain rfl | rfl | rfl | rfl := hi
  · rfl
  all_goals
    rw [← hsub]
    rfl

/-- Settles O13. -/
theorem specialArithmetic : Obligations.SpecialArithmetic := by
  refine ⟨subl_spec, fun c d s => ?sbc, div_spec, decge_spec, fun v n s => .of_exec rfl (writeWrap_spec ..),
    fun a n s i hi => .of_exec (exec_clears a n s i hi) (clear_spec s n)⟩
  case sbc =>
    obtain ⟨hspecial, hdovf⟩ := writeArith6_spec s d (sD s d - sD s c - carryNat s)
    exact .of_exec rfl ⟨hspecial.withC _, hdovf, carry_setC _ _⟩

end Sys2Proof.Machine
end

section
/-! Rounding and the multiplies (O14, O17, O18; spec/40_dalu_arith.md R204, spec/41_dalu_multiply.md R260 to R280).  Every
instruction ends in one of the three writes of its exact result, rounded or not. -/

namespace Sys2Proof.Machine

/-! ### Rounding at a bit (R204) -/

/-- Does `rndAt` round up? -/
def roundsUp (k : Nat) (twos : Bool) (x : Int) : Bool :=
  if twos then decide ((2 : Int) ^ (k - 1) ≤ x % 2 ^ k)
  else decide ((2 : Int) ^ (k - 1) < x % 2 ^ k) || (decide (x % 2 ^ k = 2 ^ (k - 1)) && decide (x / 2 ^ k % 2 = 1))

theorem half_le_of_roundsUp {k : Nat} {twos : Bool} {x : Int} (h : roundsUp k twos x = true) :
    (2 : Int) ^ (k - 1) ≤ x % 2 ^ k := by
  unfold roundsUp at h
  split at h
  · simpa using h
  · simp only [Bool.or_eq_true, Bool.and_eq_true, decide_eq_true_eq] at h
    omega

theorem le_half_of_not_roundsUp {k : Nat} {twos : Bool} {x : Int} (h : roundsUp k twos x = false) :
    x % 2 ^ k ≤ (2 : Int) ^ (k - 1) := by
  unfold roundsUp at h
  split at h
  · simp only [decide_eq_false_iff_not] at h
    omega
  · simp only [Bool.or_eq_false_iff, decide_eq_false_iff_not] at h
    omega

/-- Rounding drops the bits below bit `k`, or completes them to the next multiple of `2^k`. -/
theorem rndAt_eq (k : Nat) (twos : Bool) (x : Int) (hk : 1 ≤ k) :
    rndAt k twos x = if roundsUp k twos x then x - x % 2 ^ k + 2 ^ k else x - x % 2 ^ k := by
  have hpow : (2 : Int) ^ k = 2 * 2 ^ (k - 1) := by rw [← pow_succ', Nat.sub_add_cancel hk]
  have hhalf : (0 : Int) < 2 ^ (k - 1) := by positivity
  have hlow := Int.emod_nonneg x (b := 2 ^ k) (by omega)
  have hhigh := Int.emod_lt_of_pos x (b := 2 ^ k) (by omega)
  have hrounds : rndAt k twos x = (if roundsUp k twos x then x + 2 ^ (k - 1) else x)
      - (if roundsUp k twos x then x + 2 ^ (k - 1) else x) % 2 ^ k := rfl
  rw [hrounds]
  cases hup : roundsUp k twos x
  · rfl
  · have hmid := half_le_of_roundsUp hup
    have hmod : (x + 2 ^ (k - 1)) % 2 ^ k = x % 2 ^ k - 2 ^ (k - 1) := by
      have hdiv := Int.emod_add_mul_ediv x (2 ^ k)
      have hsplit : x + 2 ^ (k - 1) = (x % 2 ^ k - 2 ^ (k - 1)) + 2 ^ k * (x / 2 ^ k + 1) := by
        rw [mul_add, mul_one]
        omega
      rw [hsplit, Int.add_mul_emod_self_left]
      exact Int.emod_eq_of_lt (by omega) (by omega)
    simp only [if_true, hmod]
    omega

/-- Rounding at bit `k` gives a nearest multiple of `2^k`, and of two the one that the rounding mode names (R204). -/
theorem rndAt_spec (k : Nat) (twos : Bool) (x : Int) (hk : 1 ≤ k) :
    rndAt k twos x % 2 ^ k = 0 ∧ 2 * (rndAt k twos x - x) ≤ 2 ^ k ∧ -(2 ^ k) ≤ 2 * (rndAt k twos x - x)
      ∧ (2 * (x % 2 ^ k) = 2 ^ k →
        rndAt k twos x = (if twos || decide (x / 2 ^ k % 2 = 1) then x + 2 ^ (k - 1) else x - 2 ^ (k - 1))) := by
  have hpow : (2 : Int) ^ k = 2 * 2 ^ (k - 1) := by rw [← pow_succ', Nat.sub_add_cancel hk]
  have hmult : (x - x % 2 ^ k) % 2 ^ k = 0 := by simp
  have hmultUp : (x - x % 2 ^ k + 2 ^ k) % 2 ^ k = 0 := by simp
  have htie : 2 * (x % 2 ^ k) = 2 ^ k → roundsUp k twos x = (twos || decide (x / 2 ^ k % 2 = 1)) := fun h => by
    have hmid : x % 2 ^ k = 2 ^ (k - 1) := by omega
    unfold roundsUp
    cases twos <;> simp [hmid]
  have hlow := Int.emod_nonneg x (b := 2 ^ k) (by positivity)
  have hhigh := Int.emod_lt_of_pos x (b := 2 ^ k) (by positivity)
  rw [rndAt_eq k twos x hk]
  cases hr : roundsUp k twos x
  · have hd := le_half_of_not_roundsUp hr
    refine ⟨hmult, ?_, ?_, fun h => ?_⟩
    · simp only [Bool.false_eq_true, if_false]
      omega
    · simp only [Bool.false_eq_true, if_false]
      omega
    · rw [← htie h, hr, if_neg Bool.false_ne_true, if_neg Bool.false_ne_true]
      omega
  · have hu := half_le_of_roundsUp hr
    refine ⟨hmultUp, ?_, ?_, fun h => ?_⟩
    · simp only [if_true]
      omega
    · simp only [if_true]
      omega
    · rw [← htie h, hr, if_pos rfl, if_pos rfl]
      omega

/-- With the scaling mode defined, the rounding boundary is that of Table 2-13. -/
theorem roundingBit_of_defined {s : State} (h : scalingDefined s) : roundingBit s = some (roundAt s) := by
  unfold roundingBit roundAt
  cases hm : satMode s
  · have hlt : scaling s < 4 := Nat.mod_lt _ (by decide)
    have hne : scaling s ≠ 3 := by simpa [scalingDefined, hm] using h
    have hcases : scaling s = 0 ∨ scaling s = 1 ∨ scaling s = 2 := by omega
    rcases hcases with h | h | h <;> simp [h]
  · rfl

theorem rnd_of_defined {s : State} (h : scalingDefined s) (x : Int) : rnd s x = rndAt (roundAt s) (roundMode s) x := by
  rw [rnd, roundingBit_of_defined h]

/-- A rounded result that may saturate to 32 bits. -/
theorem writeArith_rnd (s : State) (n : DReg) (y : Int) : ∃ x, Saturable n x 0#32 s (writeArith s n (rnd s y)) ∧
    (scalingDefined s → x = rndAt (roundAt s) (roundMode s) y) :=
  ⟨rnd s y, writeArith_spec s n _, fun h => rnd_of_defined h y⟩

/-- A rounded result that saturates to the rounded constant. -/
theorem writeRounded_rnd (s : State) (n : DReg) (y : Int) : ∃ x, SaturableRounded n x s (writeRounded s n (rnd s y)) ∧
    (scalingDefined s → x = rndAt (roundAt s) (roundMode s) y) :=
  ⟨rnd s y, writeRounded_spec s n _, fun h => rnd_of_defined h y⟩

/-- An accumulator plus a product or its negative. -/
theorem add_signed (neg : Bool) (x p : Int) : x + signed neg p = if neg then x - p else x + p := by
  cases neg
  · rfl
  · exact (sub_eq_add_neg x p).symm

/-- Settles O14: each instruction writes its exact result, rounded by `rnd`. -/
theorem roundedResults : Obligations.RoundedResults := by
  refine ⟨rndAt_spec, fun a n s => .of_exec rfl (writeArith_rnd ..), fun a n s => .of_exec rfl (writeArith_rnd ..),
    fun a n s => .of_exec rfl (writeRounded_rnd ..), ?_⟩
  rintro a b n s p rfl
  have hmac : ∀ neg : Bool, ∃ x, SaturableRounded n x s
      (writeRounded s n (rnd s (sD s n + signed neg (fracHighHigh s a b)))) ∧ (scalingDefined s →
        x = rndAt (roundAt s) (roundMode s) (if neg then sD s n - fracHighHigh s a b else sD s n + fracHighHigh s a b)) :=
    fun neg => add_signed neg (sD s n) (fracHighHigh s a b) ▸ writeRounded_rnd s n _
  exact ⟨.of_exec rfl (writeRounded_rnd ..), .of_exec rfl (writeRounded_rnd ..),
    fun neg => ⟨.of_exec rfl (hmac neg), .of_exec rfl (hmac neg)⟩⟩

/-! ### The multiplies -/

/-- Settles O17: each instruction ends in `writeWrap` of its exact product or sum. -/
theorem integerMultiplies : Obligations.IntegerMultiplies := by
  refine ⟨?_, fun a b n s => .of_exec rfl ?_, fun a b n s => .of_exec rfl (writeWrap_spec ..),
    fun v n s => .of_exec rfl (writeWrap_spec ..), fun a b n s => .of_exec rfl ?_, fun a b n s => .of_exec rfl (writeWrap_spec ..),
    fun a b n s => .of_exec rfl ?_⟩
  · rintro neg a b n s p rfl
    have himac : Wrapping n (if neg then sD s n - intLowLow s a b else sD s n + intLowLow s a b) 0#32 s
        (writeWrap s n (sD s n + signed neg (intLowLow s a b))) :=
      add_signed neg (sD s n) (intLowLow s a b) ▸ writeWrap_spec s n _
    exact ⟨.of_exec rfl himac, .of_exec rfl himac, .of_exec rfl (writeWrap_spec ..), .of_exec rfl (writeWrap_spec ..)⟩
  all_goals
    rw [Nat.cast_mul]
    exact writeWrap_spec s n _

/-- Settles O18: each instruction ends in `writeArith` or `writeWrap` of its exact product or sum. -/
theorem fractionalMultiplies : Obligations.FractionalMultiplies := by
  refine ⟨?_, fun v a n s => .of_exec rfl (writeArith_spec ..), fun c d n s => ⟨.of_exec rfl (writeWrap_spec ..),
    .of_exec rfl (writeWrap_spec ..), .of_exec rfl (writeWrap_spec ..), .of_exec rfl (writeWrap_spec ..),
    .of_exec rfl (writeWrap_spec ..), .of_exec rfl (writeWrap_spec ..)⟩⟩
  rintro neg a b n s p rfl
  have hmac : Saturable n (if neg then sD s n - fracHighHigh s a b else sD s n + fracHighHigh s a b) 0#32 s
      (writeArith s n (sD s n + signed neg (fracHighHigh s a b))) :=
    add_signed neg (sD s n) (fracHighHigh s a b) ▸ writeArith_spec s n _
  exact ⟨.of_exec rfl hmac, .of_exec rfl hmac, .of_exec rfl (writeArith_spec ..), .of_exec rfl (writeArith_spec ..)⟩

end Sys2Proof.Machine
end

section
/-! The compares and tests of the DALU, its transfers and selections (O15, O16; spec/40_dalu_arith.md R213, R219 to R221, R228 to
R232, R236, R240, R243 to R247). -/

namespace Sys2Proof.Machine

/-! ### Compares (R219 to R221) -/

theorem toInt_signExtend40 {w : Nat} (v : BitVec w) (h : w ≤ 40) : (v.signExtend 40).toInt = v.toInt :=
  BitVec.toInt_signExtend_of_le h

/-- Equal bits are equal signed values. -/
theorem beq_eq_decide_toInt (v w : DWord) : (v == w) = decide (v.toInt = w.toInt) := by
  rw [Bool.eq_iff_iff, beq_iff_eq, decide_eq_true_eq, BitVec.toInt_inj]

/-- The unsigned order of bits 31:0 (R221). -/
theorem ult_dLong (s : State) (a n : DReg) : (dLong s a).ult (dLong s n) = decide (uD s a % 2 ^ 32 < uD s n % 2 ^ 32) := by
  rw [BitVec.ult, dLong, dLong, BitVec.extractLsb'_toNat, BitVec.extractLsb'_toNat, Nat.shiftRight_zero, Nat.shiftRight_zero]
  rfl

/-- A compare writes T with its outcome, however that is spelled. -/
theorem Runs.of_setT {i : Instr} {s : State} {b c : Bool} (h : exec i s = .next (setT s b)) (hbc : b = c) : Runs i s (Tests c s) :=
  hbc ▸ runs_of_setT h

/-- Settles O15: each compare ends in a write of T. -/
theorem daluComparesAndTests : Obligations.DaluComparesAndTests := by
  refine ⟨fun a n s => .of_setT rfl (beq_eq_decide_toInt ..), fun u n s => .of_setT rfl ?cmpeqU, fun v n s => .of_setT rfl ?cmpeqS,
    fun a n s => runs_of_setT rfl, fun u n s => runs_of_setT rfl, fun v n s => runs_of_setT rfl,
    fun a n s => .of_setT rfl (ult_dLong ..), fun n s => .of_setT rfl (beq_eq_decide_toInt ..), fun n s => runs_of_setT rfl⟩
  case cmpeqU => rw [beq_eq_decide_toInt, toInt_zeroExtend40 u (by decide)]; rfl
  case cmpeqS => rw [beq_eq_decide_toInt, toInt_signExtend40 v (by decide)]; rfl

/-! ### Halves of a register -/

/-- The parts of a register put together from an extension byte and two halves. -/
theorem parts_of_append (e : Byte) (h l : Word16) :
    (e ++ (h ++ l)).extractLsb' 32 8 = e ∧ (e ++ (h ++ l)).extractLsb' 16 16 = h ∧ (e ++ (h ++ l)).extractLsb' 0 16 = l := by
  refine ⟨?_, ?_, ?_⟩ <;>
  · apply BitVec.eq_of_getLsbD_eq
    intro i hi
    simp only [BitVec.getLsbD_extractLsb', BitVec.getLsbD_append]
    grind

section
variable (s : State) (n : DReg) (e : Byte) (h l : Word16) (b : Bool)

theorem dExt_setD_parts : dExt (setD s n (e ++ (h ++ l)) b) n = e := by
  rw [dExt, dreg_setD_same]
  exact (parts_of_append e h l).1

theorem dHigh_setD_parts : dHigh (setD s n (e ++ (h ++ l)) b) n = h := by
  rw [dHigh, dreg_setD_same]
  exact (parts_of_append e h l).2.1

theorem dLow_setD_parts : dLow (setD s n (e ++ (h ++ l)) b) n = l := by
  rw [dLow, dreg_setD_same]
  exact (parts_of_append e h l).2.2

end

/-! ### Selections and transfers -/

/-- MAX2VIT keeps the greater of each half, with a Viterbi flag for each (R230, D26). -/
theorem max2vit_spec (a b : DReg) (s : State) (k : Nat) (m : Word) (hk : k + 1 < 32) (hlo : m.getLsbD k = true)
    (hhi : m.getLsbD (k + 1) = true) :
    Plain [.d b] m s (max2vit a b k s) ∧ dExt (max2vit a b k s) b = dExt s b ∧ ltag (max2vit a b k s) b = false
      ∧ dLow (max2vit a b k s) b = (if decide ((dLow s a).toInt ≤ (dLow s b).toInt) then dLow s b else dLow s a)
      ∧ dHigh (max2vit a b k s) b = (if decide ((dHigh s a).toInt ≤ (dHigh s b).toInt) then dHigh s b else dHigh s a)
      ∧ srBit (max2vit a b k s) k = decide ((dLow s a).toInt ≤ (dLow s b).toInt)
      ∧ srBit (max2vit a b k s) (k + 1) = decide ((dHigh s a).toInt ≤ (dHigh s b).toInt) := by
  refine ⟨?_, dExt_setD_parts s b _ _ _ false, ?_, dLow_setD_parts s b _ _ _ false, dHigh_setD_parts s b _ _ _ false, ?_, ?_⟩
  · simpa [max2vit] using (setD_frame s b _ false).trans
      ((setSrBit_frame _ k _ m (by omega) hlo).trans (setSrBit_frame _ (k + 1) _ m hk hhi))
  · rw [max2vit, ltag_setSrBit, ltag_setSrBit, ltag_setD_same]
  · rw [max2vit, srBit_setSrBit _ _ _ _ hk, if_neg (by omega), srBit_setSrBit _ _ _ _ (by omega), if_pos rfl]
  · rw [max2vit, srBit_setSrBit _ _ _ _ hk, if_pos rfl]

/-- A transfer calculates the limit tag again (R243). -/
theorem transfer_spec (a n : DReg) (s : State) : Plain [.d n] 0#32 s (transfer s a n) ∧ dreg (transfer s a n) n = dreg s a ∧
    (scalingDefined s → ltag (transfer s a n) n = specialTag s (sD s a)) := by
  refine ⟨setD_frame .., dreg_setD_same .., fun h => ?_⟩
  rw [transfer, ltag_setD_same, lnCalc6, specialTag]
  cases hm : satMode s
  · exact lnCalc_eq_beyond s _ (by simpa [scalingDefined, hm] using h)
  · exact lnFrom_eq_beyond _ 31

/-- A conditional transfer is the transfer or nothing (R244, R245). -/
theorem exec_tfrt (a n : DReg) (s : State) : exec (.tfrt a n) s = .next (if tBit s then transfer s a n else s) := rfl
theorem exec_tfrf (a n : DReg) (s : State) : exec (.tfrf a n) s = .next (if tBit s then s else transfer s a n) := rfl

/-- SAT.L clamps to 32 bits (R236). -/
theorem satL_spec (n : DReg) (s : State) : Runs (.satL n) s fun t => Arith [.d n] 0#32 s t ∧ ltag t n = false
    ∧ dovf t = (dovf s || beyond 31 (sD s n))
    ∧ (dreg t n).toInt = (if 2 ^ 31 ≤ sD s n then 2 ^ 31 - 1 else if sD s n < -2 ^ 31 then -2 ^ 31 else sD s n) := by
  have hwrite : ∀ (v : DWord) (b : Bool) (t : State), t = overflowIf b (setD s n v false) →
      Arith [.d n] 0#32 s t ∧ ltag t n = false ∧ dovf t = (dovf s || b) ∧ (dreg t n).toInt = v.toInt := by
    rintro v b t rfl
    exact ⟨overflowIf_setD_frame .., by simp, by simp, by simp⟩
  refine .of_exec (t := if 0x7FFFFFFF < sD s n then overflow (setD s n 0x007FFFFFFF#40 false)
    else if sD s n < -2 ^ 31 then overflow (setD s n 0xFF80000000#40 false) else setD s n (dreg s n) false) rfl ?_
  have hbeyond : beyond 31 (sD s n) = (decide (sD s n < -2 ^ 31) || decide (2 ^ 31 ≤ sD s n)) := rfl
  rw [hbeyond]
  by_cases hhigh : 0x7FFFFFFF < sD s n
  · obtain ⟨hf, htag, hd, hv⟩ := hwrite 0x007FFFFFFF#40 true _ rfl
    rw [if_pos hhigh, if_pos (show 2 ^ 31 ≤ sD s n by omega), decide_eq_true (show 2 ^ 31 ≤ sD s n by omega), Bool.or_true]
    exact ⟨hf, htag, hd, hv⟩
  · rw [if_neg hhigh, if_neg (show ¬2 ^ 31 ≤ sD s n by omega), decide_eq_false (show ¬2 ^ 31 ≤ sD s n by omega), Bool.or_false]
    by_cases hlow : sD s n < -2 ^ 31
    · obtain ⟨hf, htag, hd, hv⟩ := hwrite 0xFF80000000#40 true _ rfl
      rw [if_pos hlow, if_pos hlow, decide_eq_true hlow]
      exact ⟨hf, htag, hd, hv⟩
    · obtain ⟨hf, htag, hd, hv⟩ := hwrite (dreg s n) false _ rfl
      rw [if_neg hlow, if_neg hlow, decide_eq_false hlow]
      exact ⟨hf, htag, hd, hv⟩

/-- Settles O16. -/
theorem transfersAndSelections : Obligations.TransfersAndSelections := by
  refine ⟨fun g h s => runs_of_writeBits rfl, fun g h s => runs_of_writeBits rfl, ?max2vit, ?tfr,
    fun a n s => .of_exec rfl ⟨setD_frame .., ltag_setD_same .., dLow_setD_parts .., dHigh_setD_parts ..⟩,
    fun a n s => .of_exec rfl ⟨setD_frame .., ltag_setD_same .., dLow_setD_parts .., dHigh_setD_parts ..⟩, satL_spec⟩
  case max2vit =>
    rintro a b s lo hi rfl rfl
    exact ⟨.of_exec rfl (max2vit_spec a b s 8 0x300#32 (by decide) (by decide) (by decide)),
      .of_exec rfl (max2vit_spec a b s 10 0xC00#32 (by decide) (by decide) (by decide))⟩
  case tfr =>
    rintro a n s P rfl
    refine ⟨.of_exec rfl (transfer_spec a n s), fun ht => ?_, fun ht => ?_⟩
    · rw [exec_tfrf, ht]
      exact ⟨.of_exec ((exec_tfrt a n s).trans (by rw [ht]; rfl)) (transfer_spec a n s), rfl⟩
    · rw [exec_tfrt, ht]
      exact ⟨.of_exec ((exec_tfrf a n s).trans (by rw [ht]; rfl)) (transfer_spec a n s), rfl⟩

end Sys2Proof.Machine
end

section
/-! AND, the shifts and CLB (O21, O22; spec/42_dalu_logical.md R290 to R303, R306, R307).  Each instruction writes bits, and C over
them; only an arithmetic shift left has an overflow over that. -/

namespace Sys2Proof.Machine

/-! ### Bits with a carry -/

/-- The bits of a shift with the bit shifted out in C. -/
theorem writeBits_setC (s : State) (n : DReg) (v : DWord) (c : Bool) :
    Plain [.d n] bitC s (setC (writeBits s n v) c) ∧ dreg (setC (writeBits s n v) c) n = v
      ∧ ltag (setC (writeBits s n v) c) n = false ∧ carry (setC (writeBits s n v) c) = c := by
  obtain ⟨hframe, hvalue, htag⟩ := writeBits_bits s n v
  refine ⟨?_, hvalue, htag, carry_setC _ _⟩
  simpa using hframe.trans (setC_frame (writeBits s n v) c)

/-- An overflow over bits with a carry. -/
theorem overflowIf_setC_frame (s : State) (n : DReg) (v : DWord) (c b : Bool) :
    Arith [.d n] bitC s (overflowIf b (setC (writeBits s n v) c)) := by
  obtain ⟨hframe, -⟩ := writeBits_setC s n v c
  cases b
  · exact hframe.arith
  · have hov : ovEnable (setC (writeBits s n v) c) = ovEnable s := srBit_setSrBit _ 0 c 20 (by decide)
    simpa [overflowIf] using hframe.trans_arith (overflow_frame _) hov

@[simp] theorem carry_overflowIf (b : Bool) (s : State) : carry (overflowIf b s) = carry s := by cases b <;> rfl

/-! ### One bit and 16 bits -/

theorem getLsbD_toNat_testBit {w : Nat} (v : BitVec w) (i : Nat) : (v.getLsbD i).toNat = v.toNat / 2 ^ i % 2 := by
  rw [BitVec.getLsbD, Nat.testBit_eq_decide_div_mod_eq]
  rcases Nat.mod_two_eq_zero_or_one (v.toNat / 2 ^ i) with h | h <;> simp [h]

/-- The bit that a rotate puts in, as a 40-bit value. -/
theorem toNat_carryIn (c : Bool) : (BitVec.setWidth 40 (BitVec.ofBool c)).toNat = c.toNat := by cases c <;> rfl

/-- A rotate left is a doubling that keeps its 41 bits (R306). -/
theorem rol_value (v : DWord) (c : Bool) :
    ((v <<< 1) ||| BitVec.setWidth 40 (BitVec.ofBool c)).toNat + 2 ^ 40 * (v.getLsbD 39).toNat = 2 * v.toNat + c.toNat := by
  have hlt := v.isLt
  have hdisjoint : (v <<< 1) &&& BitVec.setWidth 40 (BitVec.ofBool c) = 0#40 := by
    apply BitVec.eq_of_getLsbD_eq
    intro i hi
    cases c <;> by_cases h0 : i = 0 <;> simp [h0]
  rw [← BitVec.add_eq_or_of_and_eq_zero _ _ hdisjoint, BitVec.toNat_add, BitVec.toNat_shiftLeft, toNat_carryIn,
    Nat.shiftLeft_eq, getLsbD_toNat_testBit]
  have := c.toNat_le
  omega

/-- A rotate right halves a value of 41 bits (R307). -/
theorem ror_value (v : DWord) (c : Bool) :
    2 * ((v >>> 1) ||| (BitVec.setWidth 40 (BitVec.ofBool c) <<< 39)).toNat + (v.getLsbD 0).toNat = v.toNat + 2 ^ 40 * c.toNat := by
  have hlt := v.isLt
  have hdisjoint : (v >>> 1) &&& (BitVec.setWidth 40 (BitVec.ofBool c) <<< 39) = 0#40 := by
    apply BitVec.eq_of_getLsbD_eq
    intro i hi
    by_cases h39 : i = 39
    · simp [h39]
    · simp [show i < 39 by omega]
  rw [← BitVec.add_eq_or_of_and_eq_zero _ _ hdisjoint, BitVec.toNat_add, BitVec.toNat_ushiftRight, BitVec.toNat_shiftLeft,
    toNat_carryIn, Nat.shiftLeft_eq, Nat.shiftRight_eq_div_pow, getLsbD_toNat_testBit]
  have := c.toNat_le
  omega

/-- A shift left is the product modulo 2^40. -/
theorem toInt_shiftLeft40 (v : DWord) (k : Nat) : (v <<< k).toInt = (v.toInt * 2 ^ k).bmod (2 ^ 40) := by
  have hnat : (v <<< k).toInt = ((v.toNat * 2 ^ k : Nat) : Int).bmod (2 ^ 40) := by
    rw [BitVec.toInt_shiftLeft, Nat.shiftLeft_eq]
  have hpow : ((2 ^ k : Nat) : Int) = 2 ^ k := by norm_cast
  rw [hnat, Nat.cast_mul, hpow, BitVec.toInt_eq_toNat_bmod, Int.bmod_mul_bmod]

/-- An arithmetic shift right rounds down. -/
theorem toInt_sshiftRight40 (v : DWord) (k : Nat) : (v.sshiftRight k).toInt = v.toInt / 2 ^ k := by
  rw [BitVec.toInt_sshiftRight, Int.shiftRight_eq_div_pow]
  norm_cast

theorem toNat_ushiftRight40 (v : DWord) (k : Nat) : (v >>> k).toNat = v.toNat / 2 ^ k := by
  rw [BitVec.toNat_ushiftRight, Nat.shiftRight_eq_div_pow]

/-! ### CLB (R295) -/

/-- The run of equal leading bits: as long as it says, of equal bits, and ended by another bit. -/
theorem leadingRun_spec (v : DWord) (b : Bool) (fuel : Nat) :
    leadingRun v b fuel ≤ fuel ∧ (∀ i, fuel - leadingRun v b fuel ≤ i → i < fuel → v.getLsbD i = b)
      ∧ (leadingRun v b fuel < fuel → v.getLsbD (fuel - 1 - leadingRun v b fuel) ≠ b) := by
  induction fuel with
  | zero => exact ⟨Nat.le_refl 0, fun i _ hi => absurd hi (Nat.not_lt_zero i), fun h => absurd h (Nat.lt_irrefl 0)⟩
  | succ k ih =>
    obtain ⟨hle, hrun, hend⟩ := ih
    by_cases hk : v.getLsbD k = b
    · have heq : leadingRun v b (k + 1) = leadingRun v b k + 1 := by rw [leadingRun, if_pos hk, Nat.add_comm]
      rw [heq]
      refine ⟨by omega, fun i hi hlt => ?_, fun h => ?_⟩
      · rcases Nat.lt_succ_iff_lt_or_eq.mp hlt with h | h
        · exact hrun i (by omega) h
        · exact h ▸ hk
      · have hidx : k + 1 - 1 - (leadingRun v b k + 1) = k - 1 - leadingRun v b k := by omega
        exact hidx ▸ hend (by omega)
    · have heq : leadingRun v b (k + 1) = 0 := by rw [leadingRun, if_neg hk]
      rw [heq]
      exact ⟨Nat.zero_le _, fun i hi hlt => by omega, fun _ => hk⟩

/-- The sign bit itself is one of the leading bits equal to it. -/
theorem one_le_leadingRun (v : DWord) : 1 ≤ leadingRun v (v.getLsbD 39) 40 := by
  rw [leadingRun, if_pos rfl]
  exact Nat.le_add_right 1 _

/-- CLB's count (R295). -/
theorem clb_spec (a n : DReg) (s : State) : Runs (.clb a n) s fun t => Plain [.d n] 0#32 s t ∧ ltag t n = false
    ∧ (dreg s a = 0#40 → sD t n = 0)
    ∧ (dreg s a ≠ 0#40 → ∃ k : Nat, 1 ≤ k ∧ k ≤ 40 ∧ sD t n = 9 - k
      ∧ (∀ i, 40 - k ≤ i → i < 40 → (dreg s a).getLsbD i = (dreg s a).getLsbD 39)
      ∧ (k < 40 → (dreg s a).getLsbD (39 - k) ≠ (dreg s a).getLsbD 39)) := by
  obtain ⟨hframe, hvalue, htag⟩ := writeBits_bits s n (wrap40 (clbCount (dreg s a)))
  refine .of_exec rfl ⟨hframe, htag, fun h0 => ?_, fun h0 => ?_⟩
  · rw [sD, hvalue, toInt_wrap40, clbCount, if_pos h0]
    rfl
  · obtain ⟨hle, hrun, hend⟩ := leadingRun_spec (dreg s a) ((dreg s a).getLsbD 39) 40
    have hone := one_le_leadingRun (dreg s a)
    refine ⟨leadingRun (dreg s a) ((dreg s a).getLsbD 39) 40, hone, hle, ?_, hrun, hend⟩
    rw [sD, hvalue, toInt_wrap40, clbCount, if_neg h0]
    exact Int.bmod_eq_of_le (by omega) (by omega)

/-- Settles O21. -/
theorem daluAndAndSingleShifts : Obligations.DaluAndAndSingleShifts := by
  refine ⟨fun u a n s => runs_of_writeBits rfl, fun u a n s => runs_of_writeBits rfl, fun a n s => runs_of_writeBits rfl,
    fun n s => .of_exec rfl ?lsr, fun n s => .of_exec rfl ?rol, fun n s => .of_exec rfl ?ror, fun a n s => .of_exec rfl ?aslw,
    fun a n s => .of_exec rfl ?asrw, fun a n s => .of_exec rfl ?lsrw, clb_spec⟩
  case lsr =>
    obtain ⟨hframe, hvalue, htag, hcarry⟩ := writeBits_setC s n (dreg s n >>> 1) ((dreg s n).getLsbD 0)
    exact ⟨hframe, (congrArg BitVec.toNat hvalue).trans (toNat_ushiftRight40 (dreg s n) 1), htag, hcarry⟩
  case rol =>
    obtain ⟨hframe, hvalue, htag, hcarry⟩ := writeBits_setC s n
      ((dreg s n <<< 1) ||| BitVec.setWidth 40 (BitVec.ofBool (carry s))) ((dreg s n).getLsbD 39)
    refine ⟨hframe, htag, ?_⟩
    rw [uD, hvalue, hcarry]
    exact rol_value (dreg s n) (carry s)
  case ror =>
    obtain ⟨hframe, hvalue, htag, hcarry⟩ := writeBits_setC s n
      ((dreg s n >>> 1) ||| (BitVec.setWidth 40 (BitVec.ofBool (carry s)) <<< 39)) ((dreg s n).getLsbD 0)
    refine ⟨hframe, htag, ?_⟩
    rw [uD, hvalue, hcarry]
    exact ror_value (dreg s n) (carry s)
  case aslw =>
    obtain ⟨-, hvalue, htag, hcarry⟩ := writeBits_setC s n (dreg s a <<< 16) ((dreg s a).getLsbD 24)
    refine ⟨overflowIf_setC_frame .., ?_, ?_, ?_, ?_⟩
    · rw [dreg_overflowIf, hvalue]
      exact toInt_shiftLeft40 (dreg s a) 16
    · rw [ltag_overflowIf, htag]
    · rw [carry_overflowIf, hcarry]
    · rw [dovf_overflowIf, outside40_eq_beyond]
      rfl
  case asrw =>
    obtain ⟨hframe, hvalue, htag, hcarry⟩ := writeBits_setC s n ((dreg s a).sshiftRight 16) ((dreg s a).getLsbD 15)
    exact ⟨hframe, (congrArg BitVec.toInt hvalue).trans (toInt_sshiftRight40 (dreg s a) 16), htag, hcarry⟩
  case lsrw =>
    obtain ⟨hframe, hvalue, htag, hcarry⟩ := writeBits_setC s n (dreg s a >>> 16) ((dreg s a).getLsbD 15)
    exact ⟨hframe, (congrArg BitVec.toNat hvalue).trans (toNat_ushiftRight40 (dreg s a) 16), htag, hcarry⟩

/-! ### Shifts by an amount -/

/-- A shift by `k` places, left if positive (R291, R293, R300, R302). -/
theorem shiftBy_shifted (s : State) (n : DReg) (k : Int) (arith : Bool) : Shifted n k arith s (shiftBy s n k arith) := by
  rcases Int.lt_trichotomy k 0 with hneg | hzero | hpos
  · have heq : shiftBy s n k arith = setC (writeBits s n (if arith then (dreg s n).sshiftRight (-k).toNat
        else dreg s n >>> (-k).toNat)) ((dreg s n).getLsbD ((-k).toNat - 1)) := by
      rw [shiftBy, if_neg (by omega), if_neg (by omega)]
      rfl
    obtain ⟨hframe, hvalue, htag, hcarry⟩ := writeBits_setC s n
      (if arith then (dreg s n).sshiftRight (-k).toNat else dreg s n >>> (-k).toNat) ((dreg s n).getLsbD ((-k).toNat - 1))
    rw [heq]
    refine ⟨hframe.arith, htag, fun h => by omega, fun h => by omega, fun _ => ⟨hcarry, rfl, ?_, ?_⟩⟩
    · rintro rfl
      rw [hvalue]
      exact toInt_sshiftRight40 (dreg s n) _
    · rintro rfl
      rw [hvalue]
      exact toNat_ushiftRight40 (dreg s n) _
  · subst hzero
    obtain ⟨hframe, hvalue, htag, hcarry⟩ := writeBits_setC s n (dreg s n) false
    exact ⟨hframe.arith, htag, fun _ => ⟨hvalue, hcarry, rfl⟩, fun h => by omega, fun h => by omega⟩
  · have heq : shiftBy s n k arith = overflowIf (arith && outside40 (sD s n * 2 ^ k.toNat))
        (setC (writeBits s n (dreg s n <<< k.toNat)) ((dreg s n).getLsbD (40 - k.toNat))) := by
      rw [shiftBy, if_neg (by omega), if_pos hpos]
      rfl
    obtain ⟨-, hvalue, htag, hcarry⟩ := writeBits_setC s n (dreg s n <<< k.toNat) ((dreg s n).getLsbD (40 - k.toNat))
    rw [heq]
    refine ⟨overflowIf_setC_frame .., by rw [ltag_overflowIf, htag], fun h => by omega, fun _ => ⟨?_, ?_, ?_⟩, fun h => by omega⟩
    · rw [dreg_overflowIf, hvalue]
    · rw [carry_overflowIf, hcarry]
    · rw [dovf_overflowIf, outside40_eq_beyond]
      rfl

/-- A shift by an amount in -40..40 (R291). -/
theorem shiftReg_inRange (s : State) (n : DReg) (k : Int) (arith : Bool) (h1 : -40 ≤ k) (h2 : k ≤ 40) :
    Shifted n k arith s (shiftReg s n k arith) := by
  have hin : shiftInRange k = true := by simp [shiftInRange, h1, h2]
  rw [shiftReg, if_pos hin]
  exact shiftBy_shifted s n k arith

/-- A shift by another amount: the value and C are free, DOVF is not (U9). -/
theorem shiftReg_outOfRange (s : State) (n : DReg) (k : Int) (arith : Bool) (h : k < -40 ∨ 40 < k) :
    Arith [.d n] bitC s (shiftReg s n k arith) ∧ ltag (shiftReg s n k arith) n = false
      ∧ dovf (shiftReg s n k arith) = (dovf s || (arith && decide (0 < k) && beyond 39 (sD s n * 2 ^ k.toNat))) := by
  have hout : shiftInRange k = false := by
    simp only [shiftInRange, Bool.and_eq_false_iff, decide_eq_false_iff_not]
    omega
  obtain ⟨-, -, htag, -⟩ := writeBits_setC s n (free 40 s 1) (freeBit s 2)
  rw [shiftReg, hout, if_neg Bool.false_ne_true, shiftUndefined]
  refine ⟨overflowIf_setC_frame .., by rw [ltag_overflowIf, htag], ?_⟩
  rw [dovf_overflowIf, outside40_eq_beyond]
  rfl

/-- A logical shift never overflows. -/
theorem shiftReg_logical_plain (s : State) (n : DReg) (k : Int) (h : k < -40 ∨ 40 < k) :
    Plain [.d n] bitC s (shiftReg s n k false) ∧ ltag (shiftReg s n k false) n = false := by
  have hout : shiftInRange k = false := by
    simp only [shiftInRange, Bool.and_eq_false_iff, decide_eq_false_iff_not]
    omega
  obtain ⟨hframe, -, htag, -⟩ := writeBits_setC s n (free 40 s 1) (freeBit s 2)
  rw [shiftReg, hout, if_neg Bool.false_ne_true]
  exact ⟨hframe, htag⟩

/-- Settles O22. -/
theorem multipleBitShifts : Obligations.MultipleBitShifts := by
  refine ⟨fun u n s => .of_exec rfl (shiftBy_shifted ..), fun u n s => .of_exec rfl (shiftBy_shifted ..),
    fun u n s => .of_exec rfl (shiftBy_shifted ..), ?_⟩
  intro a n s k hk
  obtain rfl : k = shiftAmount s a := hk
  refine ⟨fun h1 h2 => ⟨.of_exec rfl (shiftReg_inRange _ _ _ _ h1 h2), .of_exec rfl (shiftReg_inRange _ _ _ _ (by omega) (by omega)),
    .of_exec rfl (shiftReg_inRange _ _ _ _ h1 h2), .of_exec rfl (shiftReg_inRange _ _ _ _ (by omega) (by omega))⟩, fun h => ?_⟩
  have hneg : -shiftAmount s a < -40 ∨ 40 < -shiftAmount s a := by omega
  refine ⟨.of_exec rfl (shiftReg_outOfRange _ _ _ true h), .of_exec rfl ?asrr, .of_exec rfl (shiftReg_logical_plain _ _ _ h),
    .of_exec rfl (shiftReg_logical_plain _ _ _ hneg)⟩
  case asrr =>
    have hsign : decide (0 < -shiftAmount s a) = decide (shiftAmount s a < 0) := decide_eq_decide.mpr (by omega)
    exact hsign ▸ shiftReg_outOfRange s n (-shiftAmount s a) true hneg

end Sys2Proof.Machine
end

section
/-! The bit fields (O23; spec/42_dalu_logical.md R297 to R299), bit by bit. -/

namespace Sys2Proof.Machine

theorem getLsbD_fieldMask (w j : Nat) : (fieldMask w).getLsbD j = (decide (j < 40) && decide (j < w)) := by
  rw [fieldMask, BitVec.getLsbD_ofNat, Nat.testBit_two_pow_sub_one]

theorem getLsbD_fieldOf (v : DWord) (w o j : Nat) (hj : j < 40) :
    (fieldOf v w o).getLsbD j = (decide (j < w) && v.getLsbD (o + j)) := by
  rw [fieldOf, BitVec.getLsbD_and, BitVec.getLsbD_ushiftRight, getLsbD_fieldMask, decide_eq_true hj, Bool.true_and, Bool.and_comm]

/-- Above the field stand copies of its top bit, or zeros if it has no bit (R297, D16). -/
theorem getLsbD_extractSigned (v : DWord) (w o j : Nat) (hw : w ≤ 40) (hj : j < 40) :
    (extractSigned v w o).getLsbD j = if j < w then v.getLsbD (o + j) else if w = 0 then false else v.getLsbD (o + w - 1) := by
  have hfield := getLsbD_fieldOf v w o j hj
  by_cases hw0 : w = 0
  · subst hw0
    simp [extractSigned, hfield]
  · have htop : (fieldOf v w o).getLsbD (w - 1) = v.getLsbD (o + w - 1) := by
      rw [getLsbD_fieldOf v w o (w - 1) (by omega), decide_eq_true (by omega), Bool.true_and, Nat.add_sub_assoc (by omega)]
    have hsign : extractSigned v w o = if v.getLsbD (o + w - 1) then fieldOf v w o ||| ~~~(fieldMask w) else fieldOf v w o := by
      simp [extractSigned, hw0, htop]
    rw [hsign, if_neg hw0]
    split
    case isTrue h =>
      rw [BitVec.getLsbD_or, BitVec.getLsbD_not, hfield, getLsbD_fieldMask, decide_eq_true hj]
      by_cases hjw : j < w <;> simp [hjw, h]
    case isFalse h =>
      rw [hfield]
      by_cases hjw : j < w <;> simp [hjw, h]

/-- INSERT puts the low bits of the source at the offset and keeps the rest (R299). -/
theorem getLsbD_inserted (d v : DWord) (w o j : Nat) (hj : j < 40) :
    (inserted d v w o).getLsbD j = if o ≤ j ∧ j < o + w then v.getLsbD (j - o) else d.getLsbD j := by
  have hsub : j - o < 40 := by omega
  rw [inserted, BitVec.getLsbD_or, BitVec.getLsbD_and, BitVec.getLsbD_not, BitVec.getLsbD_shiftLeft, BitVec.getLsbD_shiftLeft,
    BitVec.getLsbD_and, getLsbD_fieldMask, decide_eq_true hj, decide_eq_true hsub]
  by_cases hlow : j < o
  · have hout : ¬(o ≤ j ∧ j < o + w) := by omega
    simp [hlow, hout]
  · by_cases hhigh : j < o + w
    · have hin : j - o < w := by omega
      have : o ≤ j := by omega
      simp [hlow, hhigh, hin, this]
    · have hin : ¬j - o < w := by omega
      simp [hlow, hhigh, hin]

theorem fieldInRange_of {w o : Nat} (hw : w ≤ 40) (ho : o ≤ 40) (hwo : w + o ≤ 40) : fieldInRange w o = true := by
  simp [fieldInRange, hw, ho, hwo]

/-- An instruction that ends in a write of the bit-field unit completes with what holds of the bits it writes. -/
theorem Runs.of_field {i : Instr} {s : State} {n : DReg} {v : DWord} {w o : Nat} {P : Nat → Bool}
    (h : exec i s = .next (writeBits s n v)) (hv : fieldInRange w o = true → ∀ j, j < 40 → v.getLsbD j = P j) :
    Runs i s fun t => Plain [.d n] 0#32 s t ∧ ltag t n = false ∧
      (w ≤ 40 → o ≤ 40 → w + o ≤ 40 → ∀ j, j < 40 → (dreg t n).getLsbD j = P j) := by
  obtain ⟨t, hexec, hframe, hvalue, htag⟩ := runs_of_writeBits h
  refine ⟨t, hexec, hframe, htag, fun hw ho hwo j hj => ?_⟩
  rw [hvalue]
  exact hv (fieldInRange_of hw ho hwo) j hj

/-- The immediate and the register form of a bit-field instruction do the same to the same width and offset (R297). -/
theorem exec_field_forms {i : Instr} {s : State} {a : DReg} {w o : Nat} {imm : BitVec 6 → BitVec 6 → Instr} {reg : Instr}
    {f : Nat → Nat → State} (himm : ∀ u v, exec (imm u v) s = .next (f u.toNat v.toNat))
    (hreg : exec reg s = .next (f (fieldWidth s a) (fieldOffset s a)))
    (hi : (∃ u v : BitVec 6, u.toNat = w ∧ v.toNat = o ∧ i = imm u v)
      ∨ (w = ((dreg s a).extractLsb' 8 6).toNat ∧ o = ((dreg s a).extractLsb' 0 6).toNat ∧ i = reg)) :
    exec i s = .next (f w o) := by
  obtain ⟨u, v, rfl, rfl, rfl⟩ | ⟨rfl, rfl, rfl⟩ := hi
  · exact himm u v
  · exact hreg

/-- Settles O23. -/
theorem bitFields : Obligations.BitFields := by
  intro a b n s w o
  refine ⟨fun i hi => ?extract, fun i hi => ?extractu, fun i hi => ?insert⟩
  case extract =>
    have hexec := exec_field_forms (f := fun w o => extract s n (dreg s b) w o) (fun _ _ => rfl) rfl hi
    exact .of_field hexec fun hin j hj => by
      rw [if_pos hin]
      exact getLsbD_extractSigned (dreg s b) w o j (by simp [fieldInRange] at hin; omega) hj
  case extractu =>
    have hexec := exec_field_forms (f := fun w o => extractu s n (dreg s b) w o) (fun _ _ => rfl) rfl hi
    exact .of_field hexec fun hin j hj => by
      rw [if_pos hin, getLsbD_fieldOf (dreg s b) w o j hj]
      by_cases hjw : j < w <;> simp [hjw]
  case insert =>
    have hexec := exec_field_forms (f := fun w o => insert s n (dreg s b) w o) (fun _ _ => rfl) rfl hi
    exact .of_field hexec fun hin j hj => by
      rw [if_pos hin]
      exact getLsbD_inserted (dreg s n) (dreg s b) w o j hj

end Sys2Proof.Machine
end

section
/-! The AGU instructions (O24, O26, O28, O29; spec/43_agu_arith.md R320 to R346).  Each ends in one `setRx` of its value, or in a
write of T; what `setRx` does is said once. -/

namespace Sys2Proof.Machine

/-! ### Writing an AGU register -/

/-- A Plain change of the registers alone is an AGU write of a register that is no stack pointer. -/
theorem Plain.agu {x : Rx} {v : Word} {s t : State} (h : Plain (rxDests s x) 0#32 s t) (hsp : x ≠ .sp) (hv : rxIs s t x v) :
    Agu x v 0#32 s t := by
  obtain ⟨hu, hc, hf, ⟨hras, hvalid, hshadow⟩, hd, hm⟩ := h
  refine ⟨hu, hc, hf, hd, hm, hras, ?_, ?_, hv⟩
  · rw [hvalid, bne_iff_ne.mpr hsp, Bool.and_true]
  · rw [if_neg hsp]
    exact hshadow

/-- Making the shadow of the active stack pointer invalid. -/
theorem shadowIs_setSpShadow (s : State) (b : Bool) : ShadowIs b s (setSpShadow s b) := by
  obtain ⟨hn, he⟩ := setSpShadow_other s b
  have hown := spShadow_setSpShadow s b
  rw [spShadow, expMode_setSpShadow] at hown
  unfold ShadowIs
  split
  case isTrue h => exact ⟨by rwa [if_pos h] at hown, hn h⟩
  case isFalse h => exact ⟨by rwa [if_neg h] at hown, he (by simpa using h)⟩

/-- RAS and the valid bits of the shadows are no registers of a frame. -/
theorem setSpShadow_untouched (s : State) (b : Bool) : Untouched [] 0#32 0#32 s (setSpShadow s b) := by
  unfold setSpShadow
  split <;> exact ⟨fun _ _ => ⟨rfl, rfl⟩, fun _ _ => rfl, fun _ _ => rfl, fun _ _ => rfl, fun _ => rfl, fun _ => rfl, fun _ => rfl,
    fun _ _ => rfl, fun _ _ => rfl, fun _ => rfl, rfl, rfl⟩

theorem setSpShadow_core (s : State) (b : Bool) : SameCore s (setSpShadow s b) := by
  unfold setSpShadow
  split <;> exact ⟨rfl, rfl, rfl, rfl, rfl, rfl, rfl, rfl, rfl, rfl, rfl, rfl⟩

/-- A write of Rx (R442, R690). -/
theorem setRx_agu (s : State) (x : Rx) (v : Word) : Agu x v 0#32 s (setRx s x v) := by
  cases x with
  | n k => exact Plain.agu (x := .n k) (setN_frame s k v) (by simp) (nreg_setN_same s k v)
  | r n => exact Plain.agu (x := .r n) (setR_frame s n v) (by simp) (rreg_setR_same s n v)
  | sp =>
    obtain ⟨hu, hc, hf, hr, hd, hm⟩ := setSp_frame s v
    obtain ⟨hras, -, hnsp, hesp⟩ := hr
    have hdrop : Untouched [] 0#32 0#32 (setSp s v) (dropRas (setSp s v)) := ⟨fun _ _ => ⟨rfl, rfl⟩, fun _ _ => rfl, fun _ _ => rfl,
      fun _ _ => rfl, fun _ => rfl, fun _ => rfl, fun _ => rfl, fun _ _ => rfl, fun _ _ => rfl, fun _ => rfl, rfl, rfl⟩
    have hcore : SameCore (setSp s v) (dropRas (setSp s v)) := ⟨rfl, rfl, rfl, rfl, rfl, rfl, rfl, rfl, rfl, rfl, rfl, rfl⟩
    have hexp : expMode (dropRas (setSp s v)) = expMode s := expMode_setSp s v
    have hsp : spOf (dropRas (setSp s v)) = v &&& spMask := spOf_setSp s v
    refine ⟨?_, (hc.trans hcore).trans (setSpShadow_core _ false), ?_, ?_, ?_, ?_, ?_, ?_, ?_⟩
    · simpa [setRx, rxDests] using (hu.trans hdrop).trans (setSpShadow_untouched _ false)
    · simpa [setRx, SameFlow, dropRas] using hf
    · simpa [setRx, SameDebug, dropRas] using hd
    · intro a
      rw [setRx, byteAt_setSpShadow]
      exact hm a
    · rw [setRx, setSpShadow_ras]
      exact hras
    · simp [setRx, dropRas]
    · have hshadow := shadowIs_setSpShadow (dropRas (setSp s v)) false
      rw [ShadowIs, hexp] at hshadow
      rw [if_pos rfl, ShadowIs, setRx]
      split
      case isTrue h =>
        rw [if_pos h] at hshadow
        exact ⟨hshadow.1, hshadow.2.trans hnsp⟩
      case isFalse h =>
        rw [if_neg h] at hshadow
        exact ⟨hshadow.1, hshadow.2.trans hesp⟩
    · exact ⟨by rw [setRx, spOf_setSpShadow, hsp], by rw [setRx, expMode_setSpShadow, hexp]⟩

/-- T over an AGU result. -/
theorem Agu.withT {x : Rx} {v : Word} {s t : State} (h : Agu x v 0#32 s t) (c : Bool) : Agu x v bitT s (setT t c) := by
  obtain ⟨hu, hc, hf, hd, hm, hras, hvalid, hshadow, hv⟩ := h
  obtain ⟨hu', hc', -⟩ := setT_frame t c
  refine ⟨by simpa using hu.trans hu', hc.trans hc', hf, hd, hm, hras, hvalid, hshadow, ?_⟩
  cases x with
  | n k => exact hv
  | r n => exact hv
  | sp =>
    have hexp : expMode (setT t c) = expMode t := srBit_setSrBit t 1 c 18 (by decide)
    obtain ⟨hsp, he⟩ := hv
    refine ⟨?_, hexp.trans he⟩
    rw [← hsp, spOf, hexp]
    rfl

theorem Runs.of_setRx {i : Instr} {s : State} {x : Rx} {v w : Word} (h : exec i s = .next (setRx s x v)) (hvw : v = w) :
    Runs i s (Agu x w 0#32 s) :=
  ⟨_, h, hvw ▸ setRx_agu s x v⟩

/-! ### Sums (R321 to R324, R331 to R336) -/

/-- B0..B7 have no modifier mode. -/
theorem aguAdd_eq_sum (s : State) (n : RReg) (o : Word) (reg : Bool) :
    aguAdd s n (rreg s n) o 1 reg 0 = if n.val < 8 then aguAdd s n (rreg s n) o 1 reg 0 else rreg s n + o := by
  split
  case isTrue => rfl
  case isFalse h => exact aguAdd_linear s n _ o 1 reg 0 (.inl (by omega))

theorem rxAdd_eq_rxSum (s : State) (x : Rx) (o : Word) (reg : Bool) : rxAdd s x o reg = rxSum s x o reg := by
  cases x with
  | n k => rfl
  | sp => rfl
  | r n => exact aguAdd_eq_sum s n o reg

theorem srcAdd_eq_srcSum (s : State) (x : RxSrc) (o : Word) : srcAdd s x o = srcSum s x o := by
  cases x with
  | n k => rfl
  | sp => rfl
  | pc => rfl
  | r n => exact aguAdd_eq_sum s n o false

/-- In linear mode the sum is the plain one (R121). -/
theorem rxSum_linear {s : State} {x : Rx} (h : rxLinear s x) (o : Word) (reg : Bool) : rxSum s x o reg = rxVal s x + o := by
  cases x with
  | n k => rfl
  | sp => rfl
  | r n => rw [← rxAdd_eq_rxSum]; exact aguAdd_linear s n _ o 1 reg 0 h

theorem srcSum_linear {s : State} {x : RxSrc} (h : srcLinear s x) (o : Word) : srcSum s x o = srcVal s x + o := by
  cases x with
  | n k => rfl
  | sp => rfl
  | pc => rfl
  | r n => rw [← srcAdd_eq_srcSum]; exact aguAdd_linear s n _ o 1 false 0 h

/-- An instruction that ends in a write of a sum to Rx is an AGU addition. -/
theorem Runs.of_rxAdd {i : Instr} {s : State} {x : Rx} {o o' : Word} {reg : Bool}
    (h : exec i s = .next (setRx s x (rxAdd s x o reg))) (ho : o = o') : Runs i s (AguSum x o' reg s) := by
  subst ho
  exact ⟨_, h, rxAdd_eq_rxSum s x o reg ▸ setRx_agu s x _, fun hl => rxSum_linear hl o reg⟩

/-- A word shifted left by `k` is `2^k` times the word. -/
theorem shiftLeft_eq_mul (v : Word) (k : Nat) : v <<< k = BitVec.ofNat 32 (2 ^ k) * v := by
  apply BitVec.eq_of_toNat_eq
  simp [Nat.shiftLeft_eq, Nat.mul_comm]

/-- Settles O24. -/
theorem aguSums : Obligations.AguSums := by
  refine ⟨fun u x s => .of_rxAdd rfl rfl, fun src x s => .of_rxAdd rfl rfl, fun src x s => .of_rxAdd rfl (shiftLeft_eq_mul _ 1),
    fun src x s => .of_rxAdd rfl (shiftLeft_eq_mul _ 2), fun u x s => .of_rxAdd rfl rfl, fun src x s => .of_rxAdd rfl rfl,
    fun x s => .of_rxAdd rfl rfl, fun x s => .of_rxAdd rfl rfl, fun v src n s => .of_exec rfl ⟨?imm16, fun h => srcSum_linear h _⟩,
    fun x s => .of_exec rfl ⟨(setRx_agu ..).withT _, ?deceqa⟩, fun x s => .of_exec rfl ⟨(setRx_agu ..).withT _, ?decgea⟩⟩
  case imm16 => exact srcAdd_eq_srcSum s src _ ▸ setRx_agu s (.r n) _
  case deceqa =>
    rw [tBit_setT, Bool.eq_iff_iff, beq_iff_eq, decide_eq_true_eq]
    exact sub_eq_zero
  case decgea =>
    rw [tBit_setT]
    exact decide_eq_decide.mpr (by omega)

/-! ### Shifts (R325 to R327, R335) -/

theorem asl2a_words : RxWords 0xE0FE fun x => .asl2a x :=
  rxWords_of_row (r := rowAsl2a) rfl rfl rfl (by decide) (by decide) (fun _ => rfl) fun _ => rfl
theorem asla_words : RxWords 0xE0FC fun x => .asla x :=
  rxWords_of_row (r := rowAsla) rfl rfl rfl (by decide) (by decide) (fun _ => rfl) fun _ => rfl
theorem asra_words : RxWords 0xE0FD fun x => .asra x :=
  rxWords_of_row (r := rowAsra) rfl rfl rfl (by decide) (by decide) (fun _ => rfl) fun _ => rfl
theorem lsra_words : RxWords 0xE0FF fun x => .lsra x :=
  rxWords_of_row (r := rowLsra) rfl rfl rfl (by decide) (by decide) (fun _ => rfl) fun _ => rfl

/-- A shift left puts zeros below the bits that stay. -/
theorem shiftLeft_2_eq_append (v : Word) : v <<< 2 = v.extractLsb' 0 30 ++ 0#2 := by
  apply BitVec.eq_of_getLsbD_eq
  intro i hi
  simp only [BitVec.getLsbD_shiftLeft, BitVec.getLsbD_append, BitVec.getLsbD_extractLsb', BitVec.getLsbD_zero]
  grind

theorem shiftLeft_1_eq_append (v : Word) : v <<< 1 = v.extractLsb' 0 31 ++ 0#1 := by
  apply BitVec.eq_of_getLsbD_eq
  intro i hi
  simp only [BitVec.getLsbD_shiftLeft, BitVec.getLsbD_append, BitVec.getLsbD_extractLsb', BitVec.getLsbD_zero]
  grind

/-- A logical shift right puts a zero above the bits that stay, an arithmetic one the sign. -/
theorem ushiftRight_1_eq_append (v : Word) : v >>> 1 = 0#1 ++ v.extractLsb' 1 31 := by
  apply BitVec.eq_of_getLsbD_eq
  intro i hi
  simp only [BitVec.getLsbD_ushiftRight, BitVec.getLsbD_append, BitVec.getLsbD_extractLsb', BitVec.getLsbD_zero]
  by_cases h : i < 31
  · simp [h]
  · simp [h, BitVec.getLsbD_of_ge v (1 + i) (by omega)]

theorem sshiftRight_1_eq_append (v : Word) : v.sshiftRight 1 = v.extractLsb' 31 1 ++ v.extractLsb' 1 31 := by
  apply BitVec.eq_of_getLsbD_eq
  intro i hi
  simp only [BitVec.getLsbD_sshiftRight, BitVec.getLsbD_append, BitVec.getLsbD_extractLsb', BitVec.msb_eq_getLsbD_last]
  by_cases h : i < 31
  · simp [h, show 1 + i < 32 by omega, show ¬32 ≤ i by omega]
  · obtain rfl : i = 31 := by omega
    simp

/-- Settles O26. -/
theorem aguShifts : Obligations.AguShifts :=
  ⟨asl2a_words, asla_words, asra_words, lsra_words, fun _ _ => ⟨.of_setRx rfl (shiftLeft_2_eq_append _),
    .of_setRx rfl (shiftLeft_1_eq_append _), .of_setRx rfl (sshiftRight_1_eq_append _), .of_setRx rfl (ushiftRight_1_eq_append _)⟩⟩

/-! ### Comparisons (R328 to R330) -/

/-- A comparison of two registers writes T; of one with itself it is refused. -/
theorem compareA_spec {i : Instr} {src : RxSrc} {x : Rx} {c : Bool} {s : State} (h : exec i s = compareA src x c s) :
    (sameReg src x = false → Runs i s (Tests c s)) ∧ (sameReg src x = true → exec i s = .refused .selfCompare) := by
  rw [compareA] at h
  constructor
  · intro hne
    exact runs_of_setT (by rw [h, hne, if_neg Bool.false_ne_true])
  · intro heq
    rw [h, heq, if_pos rfl]

/-- Settles O28. -/
theorem aguCompares : Obligations.AguCompares := by
  intro src x s
  obtain ⟨heq, heqSelf⟩ := compareA_spec (i := .cmpeqa src x) (src := src) (x := x) (s := s) rfl
  obtain ⟨hgt, hgtSelf⟩ := compareA_spec (i := .cmpgta src x) (src := src) (x := x) (s := s) rfl
  obtain ⟨hhi, hhiSelf⟩ := compareA_spec (i := .cmphia src x) (src := src) (x := x) (s := s) rfl
  exact ⟨fun h => ⟨heq h, hgt h, hhi h⟩, fun h => ⟨heqSelf h, hgtSelf h, hhiSelf h⟩⟩

/-! ### Transfers and extensions (R337 to R340, R345, R346) -/

/-- A zero-extension of the low bits masks the others. -/
theorem setWidth_setWidth_eq_and (v : Word) (k : Nat) : (v.setWidth k).setWidth 32 = v &&& BitVec.ofNat 32 (2 ^ k - 1) := by
  apply BitVec.eq_of_getLsbD_eq
  intro i hi
  simp only [BitVec.getLsbD_setWidth, BitVec.getLsbD_and, BitVec.getLsbD_ofNat, Nat.testBit_two_pow_sub_one, hi, decide_true,
    Bool.true_and]
  exact Bool.and_comm ..

theorem setWidth_signExtend_eq (v : Word) (k : Nat) : (v.setWidth k).signExtend 32 = (v.extractLsb' 0 k).signExtend 32 := by
  have hlow : v.setWidth k = v.extractLsb' 0 k := by
    apply BitVec.eq_of_getLsbD_eq
    intro i hi
    simp [hi]
  rw [hlow]

/-- A write of the stack pointer that EXP does not select (R340, R442, R690). -/
theorem tfraToOsp_spec (n : RReg) (s : State) : Runs (.tfraToOsp n) s fun t => Untouched [ospDest s] 0#32 0#32 s t ∧ SameCore s t
    ∧ SameFlow s t ∧ SameDebug s t ∧ SameMem s t ∧ t.ras = s.ras ∧ t.rasValid = false
    ∧ (if s.sr.getLsbD 18 then t.nspShadow = false ∧ t.espShadow = s.espShadow
      else t.espShadow = false ∧ t.nspShadow = s.nspShadow)
    ∧ (if s.sr.getLsbD 18 then t.nsp else t.esp) = rreg s n &&& 0xFFFFFFF8#32 := by
  have hexp : expMode s = s.sr.getLsbD 18 := rfl
  obtain ⟨hu, hc, hf, ⟨hras, -, -⟩, hd, hm⟩ := setOsp_frame s (rreg s n)
  cases he : s.sr.getLsbD 18
  · have hexec : exec (.tfraToOsp n) s = .next { setEsp s (rreg s n) with rasValid := false, espShadow := false } := by
      have hno : ¬expMode s = true := by rw [hexp, he]; exact Bool.false_ne_true
      show execTfraToOsp n s = _
      rw [execTfraToOsp, setOsp, if_neg hno, setOspShadow, if_neg (show ¬expMode (dropRas (setEsp s (rreg s n))) = true from hno)]
      rfl
    rw [setOsp, hexp, he, if_neg Bool.false_ne_true] at hu hc hf hras hd hm
    exact .of_exec hexec ⟨⟨hu.d, hu.r, hu.n, hu.m, hu.mctl, hu.nsp, hu.esp, hu.sa, hu.lc, hu.vba, hu.sr, hu.emr⟩,
      ⟨rfl, rfl, rfl, rfl, rfl, rfl, rfl, rfl, rfl, rfl, rfl, rfl⟩, hf, hd, hm, hras, rfl, ⟨rfl, rfl⟩, rfl⟩
  · have hexec : exec (.tfraToOsp n) s = .next { setNsp s (rreg s n) with rasValid := false, nspShadow := false } := by
      have hyes : expMode s = true := hexp.trans he
      show execTfraToOsp n s = _
      rw [execTfraToOsp, setOsp, if_pos hyes, setOspShadow, if_pos (show expMode (dropRas (setNsp s (rreg s n))) = true from hyes)]
      rfl
    rw [setOsp, hexp, he, if_pos rfl] at hu hc hf hras hd hm
    exact .of_exec hexec ⟨⟨hu.d, hu.r, hu.n, hu.m, hu.mctl, hu.nsp, hu.esp, hu.sa, hu.lc, hu.vba, hu.sr, hu.emr⟩,
      ⟨rfl, rfl, rfl, rfl, rfl, rfl, rfl, rfl, rfl, rfl, rfl, rfl⟩, hf, hd, hm, hras, rfl, ⟨rfl, rfl⟩, rfl⟩

/-- Settles O29. -/
theorem aguTransfersAndExtensions : Obligations.AguTransfersAndExtensions :=
  ⟨fun _ _ _ => .of_setRx rfl rfl, fun _ => rfl, fun _ _ _ => .of_setRx rfl (setWidth_signExtend_eq _ 8),
    fun _ _ => .of_setRx rfl (setWidth_signExtend_eq _ 16), fun _ _ _ => .of_setRx rfl (setWidth_setWidth_eq_and _ 8),
    fun _ _ => .of_setRx rfl (setWidth_setWidth_eq_and _ 16), fun n _ => .of_setRx (x := .r n) rfl rfl, tfraToOsp_spec⟩

end Sys2Proof.Machine
end

section
/-! Effective addresses and the modifier modes (O25, O31; spec/20_memory.md R120 to R127). -/

namespace Sys2Proof.Machine

/-! ### The modifier modes of R0..R7 (R124) -/

theorem aguAdd_modulo {s : State} {n : RReg} (hn : n.val < 8) (h8 : 8 ≤ amOf s n) (h12 : amOf s n < 12) {r o : Word} {w : Nat}
    {reg : Bool} (tag : Nat)
    (hok : moduloOk r o (rreg s (Fin.ofNat 16 (n.val + 8))) (mreg s (Fin.ofNat 4 (amOf s n))) w reg = true) :
    aguAdd s n r o w reg tag = moduloAdd r o (rreg s (Fin.ofNat 16 (n.val + 8))) (mreg s (Fin.ofNat 4 (amOf s n))) := by
  have h0 : ¬amOf s n = 0 := by omega
  have h1 : ¬amOf s n = 1 := by omega
  simp only [aguAdd, if_neg (Nat.not_le.mpr hn), if_neg h0, if_neg h1, if_neg (Nat.not_le.mpr h12), if_pos h8, if_pos hok]

theorem aguAdd_wrap {s : State} {n : RReg} (hn : n.val < 8) (h12 : 12 ≤ amOf s n) (r o : Word) {w : Nat} (reg : Bool) (tag : Nat)
    (hok : wrapOk (mreg s (Fin.ofNat 4 (amOf s n))) w = true) :
    aguAdd s n r o w reg tag = wrapAdd r o (mreg s (Fin.ofNat 4 (amOf s n))) := by
  have h0 : ¬amOf s n = 0 := by omega
  have h1 : ¬amOf s n = 1 := by omega
  simp only [aguAdd, if_neg (Nat.not_le.mpr hn), if_neg h0, if_neg h1, if_pos h12, if_pos hok]

theorem aguAdd_revCarry {s : State} {n : RReg} (hn : n.val < 8) (h1 : amOf s n = 1) (r o : Word) (w : Nat) (reg : Bool) (tag : Nat) :
    aguAdd s n r o w reg tag = revCarry r o w := by
  simp only [aguAdd, if_neg (Nat.not_le.mpr hn), h1, one_ne_zero, if_false, if_true]

/-- One wrap of the buffer brings an update of no more than its size back into it (R126). -/
theorem moduloAdd_spec {r o b m : Word} {w : Nat} {reg : Bool} (hok : moduloOk r o b m w reg = true)
    (ho : o.toInt.natAbs ≤ m.toNat) :
    ∃ x : Int, (b.toNat : Int) ≤ x ∧ x < b.toNat + m.toNat ∧ moduloAdd r o b m = BitVec.ofInt 32 x
      ∧ (x = r.toNat + o.toInt ∨ x = r.toNat + o.toInt - m.toNat ∨ x = r.toNat + o.toInt + m.toNat) := by
  simp only [moduloOk, Bool.and_eq_true, decide_eq_true_eq] at hok
  obtain ⟨⟨⟨⟨-, -, hbr, hrb⟩, -⟩, -⟩, -⟩ := hok
  rw [moduloAdd]
  split
  case isTrue hup => exact ⟨_, by omega, by omega, rfl, by omega⟩
  case isFalse hup =>
    split
    case isTrue hdown => exact ⟨_, by omega, by omega, rfl, by omega⟩
    case isFalse hdown => exact ⟨_, by omega, by omega, rfl, by omega⟩

/-- A wrapped sum takes the bits of the modulus from the sum and the others from the pointer (R127). -/
theorem getLsbD_wrapAdd (r o m : Word) {i : Nat} (hi : i < 32) :
    (wrapAdd r o m).getLsbD i = if m.getLsbD i then (r + o).getLsbD i else r.getLsbD i := by
  rw [wrapAdd, BitVec.getLsbD_or, BitVec.getLsbD_and, BitVec.getLsbD_and, BitVec.getLsbD_not, decide_eq_true hi]
  cases m.getLsbD i <;> simp

/-- Aligning down to `2^k` clears the `k` low bits. -/
theorem getLsbD_alignDown (a : Word) (k i : Nat) : (alignDown a (2 ^ k)).getLsbD i = (decide (k ≤ i) && a.getLsbD i) := by
  have hle : a.toNat / 2 ^ k * 2 ^ k < 2 ^ 32 := (Nat.div_mul_le_self a.toNat (2 ^ k)).trans_lt a.isLt
  rw [alignDown, BitVec.getLsbD, BitVec.toNat_ofNat, Nat.mod_eq_of_lt hle, ← Nat.shiftLeft_eq, Nat.testBit_shiftLeft,
    ← Nat.shiftRight_eq_div_pow, Nat.testBit_shiftRight, BitVec.getLsbD]
  by_cases h : k ≤ i
  · simp [h]
  · simp [h]

/-- A reverse-carry sum is read backwards, its low bits cleared for the width (R125). -/
theorem getLsbD_revCarry (r o : Word) {w : Nat} (hw : w = 1 ∨ w = 2 ∨ w = 4 ∨ w = 8) {i : Nat} (hi : i < 32) :
    (revCarry r o w).getLsbD i = (decide (w ≤ 2 ^ i) && (r.reverse + o.reverse).getLsbD (31 - i)) := by
  obtain ⟨k, rfl⟩ : ∃ k, w = 2 ^ k := by
    rcases hw with rfl | rfl | rfl | rfl
    exacts [⟨0, rfl⟩, ⟨1, rfl⟩, ⟨2, rfl⟩, ⟨3, rfl⟩]
  have hpow : (2 ^ k ≤ 2 ^ i) = (k ≤ i) := propext (Nat.pow_le_pow_iff_right (by decide))
  rw [revCarry, getLsbD_alignDown, BitVec.getLsbD_reverse, BitVec.getMsbD_eq_getLsbD, decide_eq_true hi]
  simp only [hpow, Bool.true_and]

/-- Settles O25. -/
theorem modifierModes : Obligations.ModifierModes := by
  refine ⟨?modulo, ?wrap, ?reverse⟩
  case modulo =>
    rintro s n r o w reg tag hn h8 h12 b m rfl rfl hok ho
    rw [aguAdd_modulo hn h8 h12 tag hok]
    exact moduloAdd_spec hok ho
  case wrap =>
    rintro s n r o w reg tag hn h12 m rfl hok i hi
    rw [aguAdd_wrap hn h12 r o reg tag hok]
    exact getLsbD_wrapAdd r o _ hi
  case reverse =>
    intro s n r o w reg tag hn h1 hw i hi
    rw [aguAdd_revCarry hn h1]
    exact getLsbD_revCarry r o hw hi

/-! ### Effective addresses (R120, R351) -/

/-- A short offset scaled by the width. -/
theorem scaled_setWidth {k : Nat} (u : BitVec k) (w : Nat) : scaled (u.setWidth 32) w = BitVec.ofNat 32 (u.toNat * w) := by
  rw [scaled, BitVec.ofNat_mul, BitVec.ofNat_toNat]

/-- Settles O31: the addressing modes give what `aguAdd` gives, which in linear mode is the sum. -/
theorem effectiveAddresses : Obligations.EffectiveAddresses := by
  refine ⟨?modes, ?linear⟩
  case modes =>
    rintro s rn w A rfl
    exact ⟨rfl, rfl, rfl, fun _ => rfl, rfl, fun _ => rfl, fun _ => rfl,
      fun u => congrArg (fun o => Ea.mk (aguAdd s rn (rreg s rn) o w false 0) s true) (scaled_setWidth u w), fun _ => rfl⟩
  case linear =>
    intro s rn w hlin
    have hsum : ∀ o reg, aguAdd s rn (rreg s rn) o w reg 0 = rreg s rn + o := fun o reg => aguAdd_linear s rn _ o w reg 0 hlin
    have hsp : ∀ {k : Nat} (u : BitVec k) (v : Nat), spOf s - scaled (u.setWidth 32) v = spOf s - BitVec.ofNat 32 (u.toNat * v) :=
      fun u v => congrArg (spOf s - ·) (scaled_setWidth u v)
    have habs : ∀ a : BitVec 16, Ea.mk (a.setWidth 32) s false = ⟨BitVec.ofNat 32 a.toNat, s, false⟩ :=
      fun a => congrArg (Ea.mk · s false) (BitVec.ofNat_toNat 32 a).symm
    refine ⟨rfl, ?_, ?_, fun k => ?_, ?_, fun _ => rfl, fun x => ?_, fun u => ?_, fun rr => ?_, fun a => habs a, fun _ => rfl,
      fun _ => rfl, fun u => congrArg (Ea.mk · s true) (hsp u w), fun _ => rfl, fun _ => rfl, rfl,
      fun u => congrArg (Ea.mk · s true) (hsp u 2), fun a => habs a, fun _ => rfl⟩
    · simp only [eaMode, hsum]
    · simp only [eaMode, hsum, BitVec.sub_eq_add_neg]
    · simp only [eaMode, hsum, scaled]
    · simp only [eaMode, hsum, scaled]
    · simp only [memEa, hsum]
      rfl
    · simp only [memEa, hsum, scaled_setWidth]
    · simp only [memEa, hsum, scaled]

end Sys2Proof.Machine
end

section
/-! Moves between registers (O32, O33; spec/44_agu_move.md R350, R361, R362, R365, R367, R374, R375) and the bit-mask instructions on
registers (O43, O44; spec/45_stack_bmu.md R395 to R415).  A write of each class of register has one lemma: what it leaves, and
what the register then holds. -/

namespace Sys2Proof.Machine

/-! ### Halves of a 32-bit register (R415) -/

theorem portion_low (v : Word) : portion v .low = v.extractLsb' 0 16 := by
  apply BitVec.eq_of_getLsbD_eq
  intro i hi
  simp [portion, hi]

theorem portion_high (v : Word) : portion v .high = v.extractLsb' 16 16 := by
  apply BitVec.eq_of_getLsbD_eq
  intro i hi
  simp [portion, hi]

theorem getLsbD_lowMask : ∀ i : Fin 32, (0x0000FFFF#32).getLsbD i.val = decide (i.val < 16) := by decide

theorem getLsbD_highMask : ∀ i : Fin 32, (0xFFFF0000#32).getLsbD i.val = decide (16 ≤ i.val) := by decide

theorem withPortion_low (v : Word) (p : Word16) : withPortion v .low p = v.extractLsb' 16 16 ++ p := by
  apply BitVec.eq_of_getLsbD_eq
  intro i hi
  have hmask := getLsbD_highMask ⟨i, hi⟩
  simp only [withPortion, BitVec.getLsbD_or, BitVec.getLsbD_and, BitVec.getLsbD_setWidth, BitVec.getLsbD_append,
    BitVec.getLsbD_extractLsb', hmask]
  by_cases h : i < 16
  · simp [h, hi]
  · simp [h, show 16 ≤ i by omega, show i - 16 < 16 by omega]

theorem withPortion_high (v : Word) (p : Word16) : withPortion v .high p = p ++ v.extractLsb' 0 16 := by
  apply BitVec.eq_of_getLsbD_eq
  intro i hi
  have hmask := getLsbD_lowMask ⟨i, hi⟩
  simp only [withPortion, BitVec.getLsbD_or, BitVec.getLsbD_and, BitVec.getLsbD_shiftLeft, BitVec.getLsbD_setWidth,
    BitVec.getLsbD_append, BitVec.getLsbD_extractLsb', hmask]
  by_cases h : i < 16
  · simp [h]
  · simp [h, hi, show i - 16 < 32 by omega]

theorem extractLsb'_low_append (h l : Word16) : (h ++ l).extractLsb' 0 16 = l := by
  apply BitVec.eq_of_getLsbD_eq
  intro i hi
  simp only [BitVec.getLsbD_extractLsb', BitVec.getLsbD_append]
  simp [hi]

theorem extractLsb'_high_append (h l : Word16) : (h ++ l).extractLsb' 16 16 = h := by
  apply BitVec.eq_of_getLsbD_eq
  intro i hi
  simp only [BitVec.getLsbD_extractLsb', BitVec.getLsbD_append]
  simp [hi]

/-- A portion that was written reads back, and the other one stays. -/
theorem portion_withPortion (v : Word) (h : Half) (p : Word16) :
    portion (withPortion v h p) h = p ∧ portion (withPortion v h p) (otherHalf h) = portion v (otherHalf h) := by
  cases h with
  | low => simp only [otherHalf, portion_low, portion_high, withPortion_low, extractLsb'_low_append, extractLsb'_high_append, and_self]
  | high => simp only [otherHalf, portion_low, portion_high, withPortion_high, extractLsb'_low_append, extractLsb'_high_append, and_self]

/-! ### A register written by its class -/

theorem Plain.control {ds : List Dest} {b : Word} {s t : State} (h : Plain ds b s t) : Control ds b 0#32 s t := h

theorem writeDr_spec (s : State) (x : DR) (v : DWord) : Plain (drDests x) 0#32 s (writeDr s x v) ∧ drIs (writeDr s x v) x v := by
  cases x with
  | d n => exact ⟨setD_frame s n v false, dreg_setD_same s n v false, ltag_setD_same s n v false⟩
  | r n => exact ⟨setR_frame s n _, rreg_setR_same s n _⟩

theorem writeC4_spec (s : State) (x : C4) (v : DWord) : Plain (c4Dests x) 0#32 s (writeC4 s x v) ∧ c4Is (writeC4 s x v) x v := by
  cases x with
  | d n => exact ⟨setD_frame s n v false, dreg_setD_same s n v false, ltag_setD_same s n v false⟩
  | r n => exact ⟨setR_frame s n _, rreg_setR_same s n _⟩
  | b k => exact ⟨setR_frame s (breg k) _, rreg_setR_same s (breg k) _⟩
  | n k => exact ⟨setN_frame s k _, nreg_setN_same s k _⟩
  | m k => exact ⟨setM_frame s k _, mreg_setM_same s k _⟩

/-- A write of EMR clears sticky bits alone (R47). -/
theorem writeEmr_frame (s : State) (v : Word) : Control [] 0#32 0xF#32 s (writeEmr s v) := by
  have hemr : (s.emr &&& ~~~(v &&& 0xF#32)) &&& ~~~0xF#32 = s.emr &&& ~~~0xF#32 := by
    apply BitVec.eq_of_getLsbD_eq
    intro i hi
    simp only [BitVec.getLsbD_and, BitVec.getLsbD_not, hi, decide_true, Bool.true_and]
    cases s.emr.getLsbD i <;> cases v.getLsbD i <;> cases (0xF#32).getLsbD i <;> rfl
  exact ⟨⟨fun _ _ => ⟨rfl, rfl⟩, fun _ _ => rfl, fun _ _ => rfl, fun _ _ => rfl, fun _ => rfl, fun _ => rfl, fun _ => rfl,
    fun _ _ => rfl, fun _ _ => rfl, fun _ => rfl, rfl, hemr⟩, ⟨rfl, rfl, rfl, rfl, rfl, rfl, rfl, rfl, rfl, rfl, rfl, rfl⟩,
    ⟨rfl, rfl⟩, ⟨rfl, rfl, rfl, rfl⟩, ⟨rfl, rfl⟩, fun _ => rfl⟩

theorem setC1_spec {s : State} (h : SrLegal s) (x : C1) (v : Word) :
    Control (c1Dests x) (c1Sr x) (c1Emr x) s (setC1 s x v) ∧ c1Is s (setC1 s x v) x v := by
  cases x with
  | emr => exact ⟨writeEmr_frame s v, rfl⟩
  | vba => exact ⟨(writeVba_frame s v).control, rfl⟩
  | sr => exact ⟨(writeSr_frame s v h).control, rfl⟩
  | mctl => exact ⟨(writeMctl_frame s v).control, rfl⟩

theorem setC2_spec {s : State} (h : SrLegal s) (x : C2) (v : Word) :
    Control (c2Dests x) (c2Sr x) (c2Emr x) s (setC2 s x v) ∧ c2Is s (setC2 s x v) x v := by
  cases x with
  | emr => exact ⟨writeEmr_frame s v, rfl⟩
  | vba => exact ⟨(writeVba_frame s v).control, rfl⟩
  | sr => exact ⟨(writeSr_frame s v h).control, rfl⟩
  | mctl => exact ⟨(writeMctl_frame s v).control, rfl⟩
  | sa k => exact ⟨(setSa_frame s k v).control, saReg_setSa_same s k v⟩
  | lc k => exact ⟨(setLc_frame s k v).control, lcReg_setLc_same s k v⟩

/-- The parts of a data register put together from its extension and a long. -/
theorem ext_long_of_append (e : Byte) (v : Word) : (e ++ v).extractLsb' 32 8 = e ∧ (e ++ v).extractLsb' 0 32 = v := by
  constructor <;>
  · apply BitVec.eq_of_getLsbD_eq
    intro i hi
    simp only [BitVec.getLsbD_extractLsb', BitVec.getLsbD_append]
    simp [hi]

/-- A write of one half of a register (R415). -/
theorem setDrPortion_spec (s : State) (x : DR) (h : Half) (p : Word16) :
    Plain (drDests x) 0#32 s (setDrPortion s x h p) ∧ PortionIs s (setDrPortion s x h p) x h p := by
  cases x with
  | d n =>
    obtain ⟨hext, hlong⟩ := ext_long_of_append (dExt s n) (withPortion (dLong s n) h p)
    obtain ⟨hown, hother⟩ := portion_withPortion (dLong s n) h p
    have hvalue : dreg (setDrPortion s (.d n) h p) n = dExt s n ++ withPortion (dLong s n) h p := dreg_setD_same s n _ false
    have hdr : drLong (setDrPortion s (.d n) h p) (.d n) = withPortion (dLong s n) h p := by rw [drLong, dLong, hvalue, hlong]
    refine ⟨setD_frame s n _ false, ?_, ?_, ?_, ltag_setD_same s n _ false⟩
    · rw [hdr, hown]
    · rw [hdr, hother]
      rfl
    · rw [dExt, hvalue, hext]
  | r n =>
    obtain ⟨hown, hother⟩ := portion_withPortion (rreg s n) h p
    have hdr : drLong (setDrPortion s (.r n) h p) (.r n) = withPortion (rreg s n) h p := rreg_setR_same s n _
    refine ⟨setR_frame s n _, ?_, ?_, trivial⟩
    · rw [hdr, hown]
    · rw [hdr, hother]
      rfl

/-- The long that a write of one half of a control register writes: the other half of EMR is zeros, which change nothing. -/
def c1Joined (s : State) (x : C1) (h : Half) (p : Word16) : Word :=
  withPortion (match x with | .emr => 0#32 | _ => c1Val s x) h p

theorem setC1Portion_eq (s : State) (x : C1) (h : Half) (p : Word16) : setC1Portion s x h p = setC1 s x (c1Joined s x h p) := by
  cases x <;> rfl

/-- The zeros in the high half of a write of EMR's low half change nothing, and no sticky bit is in the high half. -/
theorem emrPortion_low (p : Word16) : withPortion 0#32 .low p = p.setWidth 32 := by
  rw [withPortion, BitVec.zero_and, BitVec.zero_or]

theorem emrPortion_high (p : Word16) : withPortion 0#32 .high p &&& 0xF#32 = 0#32 := by
  have hmask : ∀ i : Fin 32, (0xF#32).getLsbD i.val = decide (i.val < 4) := by decide
  apply BitVec.eq_of_getLsbD_eq
  intro i hi
  rw [withPortion_high, BitVec.getLsbD_and, BitVec.getLsbD_append, BitVec.getLsbD_extractLsb', hmask ⟨i, hi⟩]
  by_cases h : i < 4
  · simp [show i < 16 by omega]
  · simp [h]

/-- A write of one half of a control register follows the register's own rule (R415). -/
theorem setC1Portion_spec {s : State} (hs : SrLegal s) (x : C1) (h : Half) (p : Word16) :
    Control (c1Dests x) (c1Sr x) (c1Emr x) s (setC1Portion s x h p) ∧ c1PortionIs s (setC1Portion s x h p) x h p := by
  refine ⟨setC1Portion_eq s x h p ▸ (setC1_spec hs x _).1, ?_⟩
  cases x with
  | emr => cases h with
    | low =>
      change s.emr &&& ~~~(withPortion 0#32 .low p &&& 0xF#32) = _
      rw [emrPortion_low]
    | high =>
      change s.emr &&& ~~~(withPortion 0#32 .high p &&& 0xF#32) = _
      rw [emrPortion_high, BitVec.not_zero, BitVec.and_allOnes]
  | vba => cases h with
    | low => exact congrArg (· &&& vbaMask) (withPortion_low s.vba p)
    | high => exact congrArg (· &&& vbaMask) (withPortion_high s.vba p)
  | sr => cases h with
    | low => exact congrArg (· &&& srMask) (withPortion_low s.sr p)
    | high => exact congrArg (· &&& srMask) (withPortion_high s.sr p)
  | mctl => cases h with
    | low => exact withPortion_low s.mctl p
    | high => exact withPortion_high s.mctl p

/-! ### Moves of immediates and between registers (O32, O33) -/

theorem exec_movet (q n : RReg) (s : State) : exec (.movet q n) s = .next (if tBit s then setR s n (rreg s q) else s) := rfl
theorem exec_movef (q n : RReg) (s : State) : exec (.movef q n) s = .next (if tBit s then s else setR s n (rreg s q)) := rfl

/-- A conditional move is the move or nothing (R367). -/
theorem movet_movef_spec (q n : RReg) (s : State) :
    (tBit s = true → (Runs (.movet q n) s fun t => Plain [.r n] 0#32 s t ∧ rreg t n = rreg s q) ∧ exec (.movef q n) s = .next s)
    ∧ (tBit s = false →
      (Runs (.movef q n) s fun t => Plain [.r n] 0#32 s t ∧ rreg t n = rreg s q) ∧ exec (.movet q n) s = .next s) := by
  have hmove : Plain [.r n] 0#32 s (setR s n (rreg s q)) ∧ rreg (setR s n (rreg s q)) n = rreg s q :=
    ⟨setR_frame s n _, rreg_setR_same s n _⟩
  refine ⟨fun ht => ?_, fun ht => ?_⟩
  · rw [exec_movef, ht]
    exact ⟨.of_exec ((exec_movet q n s).trans (by rw [ht]; rfl)) hmove, rfl⟩
  · rw [exec_movet, ht]
    exact ⟨.of_exec ((exec_movef q n s).trans (by rw [ht]; rfl)) hmove, rfl⟩

/-- The halves of a long in a data register are the register's. -/
theorem halves_dLong (s : State) (n : DReg) : (dLong s n).extractLsb' 0 16 = dLow s n ∧ (dLong s n).extractLsb' 16 16 = dHigh s n := by
  constructor <;>
  · apply BitVec.eq_of_getLsbD_eq
    intro i hi
    simp [dLong, dLow, dHigh, hi]

theorem setDrPortion_d_high (s : State) (b : DReg) (u : Word16) :
    setDrPortion s (.d b) .high u = writeBits s b (dExt s b ++ (u ++ dLow s b)) := by
  rw [setDrPortion, withPortion_high, (halves_dLong s b).1]
  rfl

theorem setDrPortion_d_low (s : State) (b : DReg) (u : Word16) :
    setDrPortion s (.d b) .low u = writeBits s b (dExt s b ++ (dHigh s b ++ u)) := by
  rw [setDrPortion, withPortion_low, (halves_dLong s b).2]
  rfl

theorem exec_moveuwHigh (u : Word16) (b : DReg) (s : State) :
    exec (.moveuwHigh u b) s = .next (setDrPortion s (.d b) .high u) := rfl
theorem exec_moveuwLow (u : Word16) (b : DReg) (s : State) :
    exec (.moveuwLow u b) s = .next (setDrPortion s (.d b) .low u) := rfl

/-- Settles O32. -/
theorem registerMoves : Obligations.RegisterMoves := by
  refine ⟨fun v b s => .of_exec rfl (writeBits_bits s b _), fun v c s => .of_exec rfl (writeC4_spec s c _),
    fun c b s => .of_exec rfl (writeBits_bits s b _), fun c b s => .of_exec rfl (writeC4_spec s c _),
    fun v dr s => .of_exec rfl (writeDr_spec s dr _), fun v c s => .of_exec rfl (writeC4_spec s c _), movet_movef_spec,
    fun v b s => .of_exec rfl (writeBits_bits s b _), fun u b s => runs_of_writeBits ?_, fun u b s => runs_of_writeBits ?_⟩
  · rw [exec_moveuwHigh, setDrPortion_d_high]
  · rw [exec_moveuwLow, setDrPortion_d_low]

/-- Settles O33. -/
theorem controlRegisterMoves : Obligations.ControlRegisterMoves :=
  ⟨fun v c _ h => .of_exec rfl (setC1_spec h c v), fun c _ _ h => .of_exec rfl (setC2_spec h c _),
    fun _ b s => .of_exec rfl (writeBits_bits s b _)⟩

/-! ### Bit masks (O43, O44) -/

theorem allClear_eq (u p : Word16) : allClear u p = decide (p &&& u = 0#16) := by
  rw [allClear, BitVec.and_comm, Bool.eq_iff_iff, beq_iff_eq, decide_eq_true_eq]

/-- All selected bits are set exactly if selecting them leaves the mask. -/
theorem allSet_eq (u p : Word16) : allSet u p = decide (p &&& u = u) := by
  rw [allSet, Bool.eq_iff_iff, beq_iff_eq, decide_eq_true_eq]
  constructor
  · intro h
    apply BitVec.eq_of_getLsbD_eq
    intro i hi
    have hbit := congrArg (BitVec.getLsbD · i) h
    simp only [BitVec.getLsbD_and, BitVec.getLsbD_not, hi, decide_true, Bool.true_and, BitVec.getLsbD_zero] at hbit ⊢
    cases hu : u.getLsbD i <;> cases hp : p.getLsbD i <;> simp_all
  · intro h
    apply BitVec.eq_of_getLsbD_eq
    intro i hi
    have hbit := congrArg (BitVec.getLsbD · i) h
    simp only [BitVec.getLsbD_and, BitVec.getLsbD_not, hi, decide_true, Bool.true_and, BitVec.getLsbD_zero] at hbit ⊢
    cases hu : u.getLsbD i <;> cases hp : p.getLsbD i <;> simp_all

/-- T over a plain change, with no bit of the changed register in it. -/
theorem Plain.withT {ds : List Dest} {s t : State} (h : Plain ds 0#32 s t) (c : Bool) : Plain ds bitT s (setT t c) := by
  simpa using h.trans (setT_frame t c)

theorem PortionIs.withT {s t : State} {x : DR} {h : Half} {p : Word16} (hp : PortionIs s t x h p) (c : Bool) :
    PortionIs s (setT t c) x h p := by
  cases x with
  | d n => exact hp
  | r n => exact hp

/-- Settles O43. -/
theorem bitMaskRegisters : Obligations.BitMaskRegisters := by
  rintro u h x s p rfl
  obtain ⟨hframe, hvalue⟩ := setDrPortion_spec s x h (portion (drLong s x) h ||| u)
  exact ⟨.of_exec rfl (setDrPortion_spec s x h _), .of_exec rfl (setDrPortion_spec s x h _),
    .of_exec rfl (setDrPortion_spec s x h _), .of_exec rfl (setDrPortion_spec s x h _), .of_exec rfl (setDrPortion_spec s x h _),
    .of_exec rfl (setDrPortion_spec s x h _), .of_exec rfl (setDrPortion_spec s x h _),
    .of_exec rfl ⟨hframe.withT _, hvalue.withT _, (tBit_setT _ _).trans (allSet_eq ..)⟩, .of_setT rfl (allClear_eq ..),
    .of_setT rfl (allSet_eq ..)⟩

/-- Settles O44. -/
theorem bitMaskControlRegisters : Obligations.BitMaskControlRegisters := by
  rintro u h c s hs p rfl
  exact ⟨.of_exec rfl (setC1Portion_spec hs c h _), .of_exec rfl (setC1Portion_spec hs c h _),
    .of_exec rfl (setC1Portion_spec hs c h _), .of_setT rfl (allClear_eq ..), .of_setT rfl (allSet_eq ..)⟩

end Sys2Proof.Machine
end

section
/-! Misaligned accesses and the bytes of a stored value (O40, O41; spec/20_memory.md R100 to R110). -/

namespace Sys2Proof.Machine

theorem not_aligned {e : Ea} {w : Nat} (h : aligned e.addr w = false) : ¬aligned e.addr w = true := by
  rw [h]
  exact Bool.false_ne_true

/-- Settles O40: every access goes through `withEa`, which refuses a misaligned one (R110, U14). -/
theorem misalignedAccesses : Obligations.MisalignedAccesses := by
  intro s
  refine ⟨?words, ?c3, ?vsl, ?longs, ?pairs, ?quads, ?ext, ?masks⟩
  case words =>
    intro m h d c x b i hi
    simp only [List.mem_cons, List.not_mem_nil, or_false] at hi
    rcases hi with rfl | rfl | rfl | rfl | rfl | rfl | rfl
    all_goals exact if_neg (not_aligned h)
  case c3 =>
    refine fun rn d c => ⟨fun h => ?_, fun h => ?_⟩
    all_goals exact if_neg (not_aligned h)
  case vsl =>
    refine fun rn high => ⟨fun h => ⟨?_, ?_⟩, fun h => ⟨?_, ?_⟩⟩
    all_goals exact if_neg (not_aligned h)
  case longs =>
    refine fun m h dr c d => ⟨?_, ?_⟩
    all_goals exact if_neg (not_aligned h)
  case pairs =>
    refine fun ea rn h p b d => ⟨?_, ?_, ?_, ?_⟩
    all_goals exact if_neg (not_aligned h)
  case quads =>
    refine fun ea rn h p q d => ⟨?_, ?_, ?_, ?_⟩
    all_goals exact if_neg (not_aligned h)
  case ext =>
    refine fun m h p => ⟨?_, ?_, ?_⟩
    all_goals exact if_neg (not_aligned h)
  case masks =>
    refine fun m h u => ⟨?_, ?_, ?_, ?_, ?_, ?_, ?_, ?_, ?_, ?_, ?_⟩
    all_goals exact if_neg (not_aligned h)

/-! ### The byte order (R104) -/

/-- The two bytes of a stored word. -/
theorem byteAt_put16 {s : State} (hm : s.mem.wf = true) (a : Word) (v : Word16) {i : Nat} (hi : i < 2) :
    byteAt (put16 s a v) (a + BitVec.ofNat 32 i) = v.extractLsb' (if bigEndian s then 8 * (1 - i) else 8 * i) 8 := by
  have h01 : a ≠ a + 1 := ne_add a 1 (by decide)
  rw [put16_eq, byteAt_putByte (putByte_wf hm _ _), byteAt_putByte hm]
  obtain rfl | rfl : i = 0 ∨ i = 1 := by omega
  · rw [BitVec.add_zero, if_neg h01, if_pos rfl]
  · rw [if_pos (show a + 1#32 = a + 1 from rfl)]

/-- The four bytes of a stored long. -/
theorem byteAt_put32 {s : State} (hm : s.mem.wf = true) (a : Word) (v : Word) {i : Nat} (hi : i < 4) :
    byteAt (put32 s a v) (a + BitVec.ofNat 32 i) = v.extractLsb' (if bigEndian s then 8 * (3 - i) else 8 * i) 8 := by
  have hw := putByte_wf hm a (v.extractLsb' (if bigEndian s then 24 else 0) 8)
  have hw2 := putByte_wf hw (a + 1) (v.extractLsb' (if bigEndian s then 16 else 8) 8)
  have hw3 := putByte_wf hw2 (a + 2) (v.extractLsb' (if bigEndian s then 8 else 16) 8)
  have h12 : a + 1#32 ≠ a + 2 := add_ne_add a 1 2 (by decide)
  have h13 : a + 1#32 ≠ a + 3 := add_ne_add a 1 3 (by decide)
  have h23 : a + 2#32 ≠ a + 3 := add_ne_add a 2 3 (by decide)
  rw [put32_eq, byteAt_putByte hw3, byteAt_putByte hw2, byteAt_putByte hw, byteAt_putByte hm]
  obtain rfl | rfl | rfl | rfl : i = 0 ∨ i = 1 ∨ i = 2 ∨ i = 3 := by omega
  · rw [BitVec.add_zero, if_neg (ne_add a 3 (by decide)), if_neg (ne_add a 2 (by decide)), if_neg (ne_add a 1 (by decide)),
      if_pos rfl]
  · rw [if_neg h13, if_neg h12, if_pos (show a + 1#32 = a + 1 from rfl)]
  · rw [if_neg h23, if_pos (show a + 2#32 = a + 2 from rfl)]
  · rw [if_pos (show a + 3#32 = a + 3 from rfl)]

/-- Settles O41. -/
theorem bytesOfAStoredValue : Obligations.BytesOfAStoredValue := fun _ a hm =>
  ⟨fun v => ⟨put16_outside hm a v, put16_wf hm a v, mem16_put16 hm a v, fun _ hi => byteAt_put16 hm a v hi⟩,
    fun v => ⟨put32_outside hm a v, put32_wf hm a v, mem32_put32 hm a v, fun _ hi => byteAt_put32 hm a v hi⟩⟩

end Sys2Proof.Machine
end

section
/-! Frames of data accesses: an effective address, one access at it, and the writes of registers after it.  A load or a store of any
instruction is put together from these (spec/44_agu_move.md R350 to R354; spec/20_memory.md R100 to R110). -/

namespace Sys2Proof.Machine

/-! ### Access frames compose -/

theorem note_plain (s : State) (x : Access) : Plain [] 0#32 s (note s x) :=
  ⟨⟨fun _ _ => ⟨rfl, rfl⟩, fun _ _ => rfl, fun _ _ => rfl, fun _ _ => rfl, fun _ => rfl, fun _ => rfl, fun _ => rfl, fun _ _ => rfl,
    fun _ _ => rfl, fun _ => rfl, rfl, rfl⟩, ⟨rfl, rfl, rfl, rfl, rfl, rfl, rfl, rfl, rfl, rfl, rfl, rfl⟩, ⟨rfl, rfl⟩,
    ⟨rfl, rfl, rfl, rfl⟩, ⟨rfl, rfl⟩, fun _ => rfl⟩

/-- An access changes memory and the EOnCE alone. -/
theorem AccessFrame.of_only {s t : State} {a : Word} {w : Nat} {b : Bool} (ho : OnlyMemEonce s t)
    (heonce : OutsideEonce s a w → t.eonce = s.eonce) (hmem : if b then SameMemBut a w s t else SameMem s t) :
    AccessFrame [] 0#32 a w b s t := by
  have hst : t = { s with mem := t.mem, eonce := t.eonce } := ho
  exact ⟨ho.untouched [] 0#32 0#32, ho.core, ⟨(congrArg State.npc hst :), (congrArg State.delay hst :)⟩,
    ⟨(congrArg State.ras hst :), (congrArg State.rasValid hst :), (congrArg State.nspShadow hst :),
      (congrArg State.espShadow hst :)⟩, (congrArg State.reqOverflow hst :), heonce, hmem⟩

/-- Registers written before an access, as by its addressing mode. -/
theorem AccessFrame.after_plain {ds es : List Dest} {m m' : Word} {a : Word} {w : Nat} {b : Bool} {s t u : State}
    (hp : Plain ds m s t) (h : AccessFrame es m' a w b t u) : AccessFrame (ds ++ es) (m ||| m') a w b s u := by
  obtain ⟨hu, hc, hf, hr, ⟨hov, he⟩, hm⟩ := hp
  refine ⟨by simpa using hu.trans h.regs, hc.trans h.core, ⟨h.flow.1.trans hf.1, h.flow.2.trans hf.2⟩, hr.trans h.ras,
    h.overflow.trans hov, fun hout => (h.eonce (hout.congr hc.params)).trans he, ?_⟩
  have hmem := h.mem
  cases b with
  | true => exact fun x hx => (hmem x hx).trans (hm x)
  | false => exact hm.trans hmem

/-- Registers written after an access. -/
theorem AccessFrame.then_plain {ds es : List Dest} {m m' : Word} {a : Word} {w : Nat} {b : Bool} {s t u : State}
    (h : AccessFrame ds m a w b s t) (hp : Plain es m' t u) : AccessFrame (ds ++ es) (m ||| m') a w b s u := by
  obtain ⟨hu, hc, hf, hr, ⟨hov, he⟩, hm⟩ := hp
  refine ⟨by simpa using h.regs.trans hu, h.core.trans hc, ⟨hf.1.trans h.flow.1, hf.2.trans h.flow.2⟩, h.ras.trans hr,
    hov.trans h.overflow, fun hout => he.trans (h.eonce hout), ?_⟩
  have hmem := h.mem
  cases b with
  | true => exact fun x hx => (hm x).trans (hmem x hx)
  | false => exact hmem.trans hm

/-- A read and then another access at the same address. -/
theorem AccessFrame.read_then {ds es : List Dest} {m m' : Word} {a : Word} {w : Nat} {b : Bool} {s t u : State}
    (h : AccessFrame ds m a w false s t) (h' : AccessFrame es m' a w b t u) : AccessFrame (ds ++ es) (m ||| m') a w b s u := by
  have hm : SameMem s t := h.mem
  refine ⟨by simpa using h.regs.trans h'.regs, h.core.trans h'.core, ⟨h'.flow.1.trans h.flow.1, h'.flow.2.trans h.flow.2⟩,
    h.ras.trans h'.ras, h'.overflow.trans h.overflow,
    fun hout => (h'.eonce (hout.congr h.core.params)).trans (h.eonce hout), ?_⟩
  have hmem := h'.mem
  cases b with
  | true => exact fun x hx => (hmem x hx).trans (hm x)
  | false => exact hm.trans hmem

theorem AccessFrame.mono {ds es : List Dest} {m : Word} {a : Word} {w : Nat} {b : Bool} {s t : State}
    (h : AccessFrame ds m a w b s t) (hd : ∀ x ∈ ds, x ∈ es) : AccessFrame es m a w b s t :=
  ⟨h.regs.mono hd (fun _ => id) (fun _ => id), h.core, h.flow, h.ras, h.overflow, h.eonce, h.mem⟩

/-! ### Effective addresses -/

/-- An effective address of `s` whose mode updates the pointers `ptr`: only they change, and memory is the same list of bytes. -/
structure EaOf (s : State) (e : Ea) (ptr : List Dest) : Prop where
  frame : Plain ptr 0#32 s e.st
  mem : e.st.mem = s.mem

theorem eaMode_of (s : State) (m : EaMode) (rn : RReg) (w : Nat) : EaOf s (eaMode s m rn w) (eaDests m rn) := by
  obtain ⟨r, hr⟩ := eaMode_st s m rn w
  exact ⟨eaMode_frame s m rn w, (congrArg State.mem hr :)⟩

theorem memEa_of (s : State) (m : Mem) (w : Nat) : EaOf s (memEa s m w) (memDests m) := by
  obtain ⟨r, hr⟩ := memEa_st s m w
  exact ⟨memEa_frame s m w, (congrArg State.mem hr :)⟩

theorem extEa_of (s : State) (m : ExtMem) : EaOf s (extEa s m) [] := by
  have hst := extEa_st s m
  exact ⟨hst.symm ▸ Plain.refl [] 0#32 s, congrArg State.mem hst⟩

theorem bmuEa_of (s : State) (m : BmuMem) : EaOf s (bmuEa s m) [] := by
  have hst := bmuEa_st s m
  exact ⟨hst.symm ▸ Plain.refl [] 0#32 s, congrArg State.mem hst⟩

/-- The state itself as an effective address, for an access without a pointer. -/
theorem EaOf.self {s : State} {e : Ea} (h : e.st = s) : EaOf s e [] :=
  ⟨h.symm ▸ Plain.refl [] 0#32 s, congrArg State.mem h⟩

theorem Untouched.emr_eq {ds : List Dest} {b : Word} {s t : State} (h : Untouched ds b 0#32 s t) : t.emr = s.emr := by
  have hemr := h.emr
  rwa [and_not_zero, and_not_zero] at hemr

/-- The byte order is a bit of EMR. -/
theorem Untouched.bigEndian_eq {ds : List Dest} {b : Word} {s t : State} (h : Untouched ds b 0#32 s t) :
    bigEndian t = bigEndian s := by
  rw [bigEndian, h.emr_eq]
  rfl

theorem SameMem.mem16 {s t : State} (h : SameMem s t) (hb : bigEndian t = bigEndian s) (a : Word) : mem16 t a = mem16 s a :=
  mem16_congr hb a fun _ _ => h _

theorem SameMem.mem32 {s t : State} (h : SameMem s t) (hb : bigEndian t = bigEndian s) (a : Word) : mem32 t a = mem32 s a :=
  mem32_congr hb a fun _ _ => h _

namespace EaOf
variable {s : State} {e : Ea} {ptr : List Dest} (h : EaOf s e ptr)
include h

theorem sameMem : SameMem s e.st := h.frame.2.2.2.2.2
theorem bigEndian_eq : bigEndian e.st = bigEndian s := h.frame.1.bigEndian_eq
theorem params_eq : e.st.params = s.params := h.frame.2.1.params
theorem outside {w : Nat} (ho : OutsideEonce s e.addr w) : OutsideEonce e.st e.addr w := ho.congr h.params_eq
theorem wf (hm : s.mem.wf = true) : e.st.mem.wf = true := h.mem ▸ hm
theorem mem16_eq (a : Word) : mem16 e.st a = mem16 s a := h.sameMem.mem16 h.bigEndian_eq a
theorem mem32_eq (a : Word) : mem32 e.st a = mem32 s a := h.sameMem.mem32 h.bigEndian_eq a

/-- A read at the address. -/
theorem read {u : State} {w : Nat} (ho : OnlyEonce e.st u) (heonce : OutsideEonce e.st e.addr w → u = e.st) (x : Access) :
    AccessFrame ptr 0#32 e.addr w false s (note u x) := by
  have hload : AccessFrame [] 0#32 e.addr w false e.st u :=
    .of_only ho.memEonce (fun hout => by rw [heonce hout]) ho.sameMem
  simpa using (AccessFrame.after_plain h.frame hload).then_plain (note_plain u x)

/-- A store at the address. -/
theorem write {u : State} {w : Nat} (ho : OnlyMemEonce e.st u) (heonce : OutsideEonce e.st e.addr w → u.eonce = e.st.eonce)
    (hmem : SameMemBut e.addr w e.st u) (x : Access) : AccessFrame ptr 0#32 e.addr w true s (note u x) := by
  have hstore : AccessFrame [] 0#32 e.addr w true e.st u := .of_only ho heonce hmem
  simpa using (AccessFrame.after_plain h.frame hstore).then_plain (note_plain u x)

end EaOf

/-! ### One access -/

/-- A read at an effective address: its frame, the pointers it leaves, and the value outside the EOnCE window. -/
structure ReadAt {α : Type} (s : State) (e : Ea) (ptr : List Dest) (w : Nat) (r : α × State) (v : α) : Prop where
  frame : AccessFrame ptr 0#32 e.addr w false s r.2
  pointers : ∀ n, rreg r.2 n = rreg e.st n
  value : OutsideEonce s e.addr w → r.1 = v

theorem OnlyMemEonce.rreg_eq {s t : State} (h : OnlyMemEonce s t) (n : RReg) : rreg t n = rreg s n :=
  (h.untouched [] 0#32 0#32).r n List.not_mem_nil

section
variable {s : State} {e : Ea} {ptr : List Dest} (h : EaOf s e ptr)
include h

theorem read8_at : ReadAt s e ptr 1 (read8 e) (byteAt s e.addr) := by
  have hout : ∀ {t}, OutsideEonce t e.addr 1 → eonceOffset t e.addr = none := fun ho => outside_zero ho (by decide)
  refine ⟨h.read (load8_only e.st e.addr 1) (fun ho => by rw [load8_outside (hout ho)]) _,
    (load8_only e.st e.addr 1).memEonce.rreg_eq, fun ho => ?_⟩
  rw [read8, load8_outside (hout (h.outside ho))]
  exact h.sameMem e.addr

theorem read16_at : ReadAt s e ptr 2 (read16 e) (mem16 s e.addr) := by
  have hout : ∀ {t}, OutsideEonce t e.addr 2 → eonceOffset t e.addr = none := fun ho => outside_zero ho (by decide)
  refine ⟨h.read (load16_only e.st e.addr 1) (fun ho => by rw [load16_outside (hout ho)]) _,
    (load16_only e.st e.addr 1).memEonce.rreg_eq, fun ho => ?_⟩
  rw [read16, load16_outside (hout (h.outside ho))]
  exact h.mem16_eq e.addr

theorem read32_at : ReadAt s e ptr 4 (read32 e) (mem32 s e.addr) := by
  have hout : ∀ {t}, OutsideEonce t e.addr 4 → eonceOffset t e.addr = none := fun ho => outside_zero ho (by decide)
  refine ⟨h.read (load32_only e.st e.addr 1) (fun ho => by rw [load32_outside (hout ho)]) _,
    (load32_only e.st e.addr 1).memEonce.rreg_eq, fun ho => ?_⟩
  rw [read32, load32_outside (hout (h.outside ho))]
  exact h.mem32_eq e.addr

theorem readWords_at (k : Nat) :
    ReadAt s e ptr (2 * k) (readWords e k) ((List.range k).map fun i => mem16 s (e.addr + BitVec.ofNat 32 (2 * i))) := by
  refine ⟨h.read (loadWords_only e.st e.addr 1 k) (fun ho => by rw [loadWords_outside ho]) _,
    (loadWords_only e.st e.addr 1 k).memEonce.rreg_eq, fun ho => ?_⟩
  rw [readWords, loadWords_outside (h.outside ho)]
  exact List.map_congr_left fun i _ => h.mem16_eq _

theorem readTwoLongs_at : ReadAt s e ptr 8 (readTwoLongs e) (mem32 s e.addr, mem32 s (e.addr + 4)) := by
  have hfst : ∀ {t}, OutsideEonce t e.addr 8 → eonceOffset t e.addr = none := fun ho => outside_zero ho (by decide)
  have hsnd : ∀ {t}, OutsideEonce t e.addr 8 → eonceOffset t (e.addr + 4) = none :=
    fun ho => outside_zero (ho.part 4 4 (by decide)) (by decide)
  have ho1 := load32_only e.st e.addr 1
  have ho2 := load32_only (load32 e.st e.addr 1).2 (e.addr + 4) 2
  have hloads : ∀ ho : OutsideEonce e.st e.addr 8, load32 e.st e.addr 1 = (mem32 e.st e.addr, e.st) ∧
      load32 e.st (e.addr + 4) 2 = (mem32 e.st (e.addr + 4), e.st) :=
    fun ho => ⟨load32_outside (hfst ho) 1, load32_outside (hsnd ho) 2⟩
  refine ⟨h.read (ho1.trans ho2) (fun ho => ?_) _, (ho1.trans ho2).memEonce.rreg_eq, fun ho => ?_⟩
  · obtain ⟨h1, h2⟩ := hloads ho
    rw [h1, h2]
  · obtain ⟨h1, h2⟩ := hloads (h.outside ho)
    rw [readTwoLongs, h1]
    simp only [h2, h.mem32_eq]

end

/-- A store at an effective address: its frame, the pointers it leaves, and what holds outside the EOnCE window. -/
structure WriteAt (s : State) (e : Ea) (ptr : List Dest) (w : Nat) (t : State) (P : State → Prop) : Prop where
  frame : AccessFrame ptr 0#32 e.addr w true s t
  pointers : ∀ n, rreg t n = rreg e.st n
  stored : OutsideEonce s e.addr w → P t

section
variable {s : State} {e : Ea} {ptr : List Dest} (h : EaOf s e ptr) (hm : s.mem.wf = true)
include h hm

theorem write8_at (v : Byte) : WriteAt s e ptr 1 (write8 e v) fun t => byteAt t e.addr = v := by
  have hout : ∀ {t}, OutsideEonce t e.addr 1 → eonceOffset t e.addr = none := fun ho => outside_zero ho (by decide)
  have ho := store8_only e.st e.addr v
  refine ⟨h.write ho (fun hx => by rw [store8_put (hout hx)]; rfl) (store8_outside (h.wf hm) e.addr v) _, ho.rreg_eq, fun hx => ?_⟩
  show byteAt (store8 e.st e.addr v) e.addr = v
  rw [store8_put (hout (h.outside hx)), byteAt_putByte (h.wf hm), if_pos rfl]

theorem write16_at (v : Word16) : WriteAt s e ptr 2 (write16 e v) fun t => mem16 t e.addr = v := by
  have hout : ∀ {t}, OutsideEonce t e.addr 2 → eonceOffset t e.addr = none := fun ho => outside_zero ho (by decide)
  have ho := store16_only e.st e.addr v
  refine ⟨h.write ho (fun hx => by rw [store16_put (hout hx), eonce_put16]) (store16_outside (h.wf hm) e.addr v) _, ho.rreg_eq,
    fun hx => ?_⟩
  show mem16 (store16 e.st e.addr v) e.addr = v
  rw [store16_put (hout (h.outside hx)), mem16_put16 (h.wf hm)]

theorem write32_at (v : Word) : WriteAt s e ptr 4 (write32 e v) fun t => mem32 t e.addr = v := by
  have hout : ∀ {t}, OutsideEonce t e.addr 4 → eonceOffset t e.addr = none := fun ho => outside_zero ho (by decide)
  have ho := store32_only e.st e.addr v
  refine ⟨h.write ho (fun hx => by rw [store32_put (hout hx), eonce_put32]) (store32_outside (h.wf hm) e.addr v) _, ho.rreg_eq,
    fun hx => ?_⟩
  show mem32 (store32 e.st e.addr v) e.addr = v
  rw [store32_put (hout (h.outside hx)), mem32_put32 (h.wf hm)]

theorem writeTwoLongs_at (v w : Word) :
    WriteAt s e ptr 8 (writeTwoLongs e v w) fun t => mem32 t e.addr = v ∧ mem32 t (e.addr + 4) = w := by
  have ho := (store32_only e.st e.addr v).trans (store32_only (store32 e.st e.addr v) (e.addr + 4) w)
  rw [writeTwoLongs]
  refine ⟨h.write ho (fun hx => (two_longs (h.wf hm) hx v w).2.2) (two_longs_outside (h.wf hm) e.addr v w) _, ho.rreg_eq, fun hx => ?_⟩
  obtain ⟨hfst, hsnd, -⟩ := two_longs (h.wf hm) (h.outside hx) v w
  rw [mem32_note, mem32_note]
  exact ⟨hfst, hsnd⟩

end

/-! ### Several words -/

/-- Addresses add up. -/
theorem add_addr (a : Word) (i k : Nat) : a + BitVec.ofNat 32 i + BitVec.ofNat 32 k = a + BitVec.ofNat 32 (i + k) := by
  rw [BitVec.add_assoc, BitVec.ofNat_add]

/-- Two words stored like a long are each in place. -/
theorem mem16_store32_joined {s : State} (hm : s.mem.wf = true) {a : Word} (ho : OutsideEonce s a 4) (v w : Word16) :
    mem16 (store32 s a (joined s v w)) a = v ∧ mem16 (store32 s a (joined s v w)) (a + 2) = w := by
  have hput : store32 s a (joined s v w) = put16 (put16 s a v) (a + 2) w := by
    rw [store32_put (outside_zero ho (by decide)), put32_joined]
  rw [hput]
  refine ⟨?_, mem16_put16 (put16_wf hm a v) (a + 2) w⟩
  rw [mem16_of_sameMemBut (put16_outside (put16_wf hm a v) (a + 2) w) (put16_only _ _ _).bigEndian, mem16_put16 hm]
  intro i hi k hk
  have hsum : a + 2 + BitVec.ofNat 32 k = a + BitVec.ofNat 32 (2 + k) := add_addr a 2 k
  rw [hsum]
  exact addr_ne (by omega) (by omega) (by omega)

/-- Stored words are each in place. -/
theorem mem16_storeWords {s : State} (hm : s.mem.wf = true) {a : Word} {vs : List Word16} (hlen : 2 * vs.length < 2 ^ 32)
    (ho : OutsideEonce s a (2 * vs.length)) (k : Nat) (hk : k < vs.length) :
    mem16 (storeWords s a vs) (a + BitVec.ofNat 32 (2 * k)) = vs[k] := by
  induction s, a, vs using storeWords.induct generalizing k with
  | case1 s a => exact absurd hk (Nat.not_lt_zero k)
  | case2 s a v =>
    obtain rfl : k = 0 := by simpa using hk
    have haddr : a + BitVec.ofNat 32 (2 * 0) = a := BitVec.add_zero a
    rw [haddr, storeWords, store16_put (outside_zero ho Nat.zero_lt_two), mem16_put16 hm]
    rfl
  | case3 s a v w rest ih =>
    simp only [List.length_cons] at hlen hk ho
    have hrest : OutsideEonce (store32 s a (joined s v w)) (a + 4) (2 * rest.length) :=
      (ho.part 4 (2 * rest.length) (by omega)).congr (store32_only s a _).params
    have hwf := store32_wf hm a (joined s v w)
    have hfirst : OutsideEonce s a 4 := fun i hi => ho i (by omega)
    obtain ⟨hv, hw⟩ := mem16_store32_joined hm hfirst v w
    have hkeep : ∀ j, j < 2 → mem16 (storeWords (store32 s a (joined s v w)) (a + 4) rest) (a + BitVec.ofNat 32 (2 * j))
        = mem16 (store32 s a (joined s v w)) (a + BitVec.ofNat 32 (2 * j)) := by
      intro j hj
      refine mem16_of_sameMemBut (storeWords_outside hwf (a + 4) rest) (storeWords_only _ _ _).bigEndian fun i hi l hl => ?_
      have hsum : a + 4 + BitVec.ofNat 32 l = a + BitVec.ofNat 32 (4 + l) := add_addr a 4 l
      rw [add_addr a (2 * j) i, hsum]
      exact addr_ne (by omega) (by omega) (by omega)
    rw [storeWords]
    obtain rfl | rfl | ⟨j, rfl⟩ : k = 0 ∨ k = 1 ∨ ∃ j, k = j + 2 := by
      rcases k with _ | _ | j
      exacts [.inl rfl, .inr (.inl rfl), .inr (.inr ⟨j, rfl⟩)]
    · exact (hkeep 0 (by decide)).trans ((congrArg _ (BitVec.add_zero a)).trans hv)
    · exact (hkeep 1 (by decide)).trans hw
    · rw [show 2 * (j + 2) = 4 + 2 * j by omega, ← add_addr a 4 (2 * j)]
      exact ih hwf (by omega) hrest j (by omega)

theorem writeWords_at {s : State} {e : Ea} {ptr : List Dest} (h : EaOf s e ptr) (hm : s.mem.wf = true) (vs : List Word16)
    (hlen : 2 * vs.length < 2 ^ 32) : WriteAt s e ptr (2 * vs.length) (writeWords e vs) fun t =>
      ∀ k, (hk : k < vs.length) → mem16 t (e.addr + BitVec.ofNat 32 (2 * k)) = vs[k] := by
  have ho := storeWords_only e.st e.addr vs
  exact ⟨h.write ho storeWords_eonce (storeWords_outside (h.wf hm) e.addr vs) _, ho.rreg_eq,
    fun hx k hk => mem16_storeWords (h.wf hm) hlen (h.outside hx) k hk⟩

/-! ### Loads and stores of an instruction -/

/-- A load: a read, and registers written with the value read. -/
theorem Loads.of_read {α : Type} {i : Instr} {s : State} {e : Ea} {w : Nat} {ds ptr : List Dest} {m : Word} {P : State → Prop}
    {r : α × State} {v : α} {t : State} (hexec : aligned e.addr w = true → exec i s = .next t) (hr : ReadAt s e ptr w r v)
    (hw : Plain ds m r.2 t) (hP : r.1 = v → P t) : Loads i s e w ds ptr m P := by
  refine fun ha => ⟨t, hexec ha, ?_, fun n hn => (hw.1.r n hn).trans (hr.pointers n), fun ho => hP (hr.value ho)⟩
  have hframe := (hr.frame.then_plain hw).mono (es := ds ++ ptr) fun x hx => by
    rw [List.mem_append] at hx ⊢
    exact hx.symm
  rwa [BitVec.zero_or] at hframe

/-- A store, and bits of SR written after it. -/
theorem Stores.of_write {i : Instr} {s : State} {e : Ea} {w : Nat} {ptr : List Dest} {m : Word} {P Q : State → Prop} {u t : State}
    (hexec : aligned e.addr w = true → exec i s = .next t) (hw : s.mem.wf = true → WriteAt s e ptr w u Q) (ht : Plain [] m u t)
    (hP : Q u → P t) : Stores i s e w ptr m P := by
  refine fun hm ha => ⟨t, hexec ha, ?_, fun n _ => (ht.1.r n List.not_mem_nil).trans ((hw hm).pointers n),
    fun ho => hP ((hw hm).stored ho)⟩
  simpa using (hw hm).frame.then_plain ht

/-- A store alone. -/
theorem Stores.of_writeAt {i : Instr} {s : State} {e : Ea} {w : Nat} {ptr : List Dest} {P : State → Prop} {t : State}
    (hexec : aligned e.addr w = true → exec i s = .next t) (hw : s.mem.wf = true → WriteAt s e ptr w t P) :
    Stores i s e w ptr 0#32 P :=
  .of_write hexec hw (Plain.refl [] 0#32 t) id

end Sys2Proof.Machine
end

section
/-! The loads (O34, O36; spec/44_agu_move.md R355 to R366, R373, R376): one read, and its value written to the destination. -/

namespace Sys2Proof.Machine

/-! ### One destination -/

/-- A loaded value in a DR register that is not the updated pointer. -/
theorem writeLoaded_spec (u : State) (m : Mem) (dr : DR) (v : DWord) : Plain (drDests dr) 0#32 u (writeLoaded u m dr v) ∧
    (clashes m dr = false → drIs (writeLoaded u m dr v) dr v) := by
  rw [writeLoaded]
  split
  case isTrue h => exact ⟨(writeDr_spec u dr _).1, fun hc => absurd (h.symm.trans hc) (by decide)⟩
  case isFalse h => exact ⟨(writeDr_spec u dr v).1, fun _ => (writeDr_spec u dr v).2⟩

section
variable {α : Type} {i : Instr} {s : State} {e : Ea} {w : Nat} {ptr : List Dest} {r : α × State} {v : α}

theorem loads_dr {m : Mem} {dr : DR} (f : α → DWord) (hr : ReadAt s e ptr w r v)
    (hexec : aligned e.addr w = true → exec i s = .next (writeLoaded r.2 m dr (f r.1))) :
    Loads i s e w (drDests dr) ptr 0#32 fun t => clashes m dr = false → drIs t dr (f v) := by
  obtain ⟨hframe, hvalue⟩ := writeLoaded_spec r.2 m dr (f r.1)
  exact .of_read hexec hr hframe fun hv hc => hv ▸ hvalue hc

theorem loads_c4 {c : C4} (f : α → DWord) (hr : ReadAt s e ptr w r v)
    (hexec : aligned e.addr w = true → exec i s = .next (writeC4 r.2 c (f r.1))) :
    Loads i s e w (c4Dests c) ptr 0#32 fun t => c4Is t c (f v) := by
  obtain ⟨hframe, hvalue⟩ := writeC4_spec r.2 c (f r.1)
  exact .of_read hexec hr hframe fun hv => hv ▸ hvalue

theorem loads_d {n : DReg} (f : α → DWord) (hr : ReadAt s e ptr w r v)
    (hexec : aligned e.addr w = true → exec i s = .next (setD r.2 n (f r.1) false)) :
    Loads i s e w [.d n] ptr 0#32 fun t => dreg t n = f v ∧ ltag t n = false := by
  refine .of_read hexec hr (setD_frame r.2 n (f r.1) false) fun hv => ⟨?_, ltag_setD_same r.2 n _ false⟩
  rw [dreg_setD_same, hv]

end

/-- Settles O34. -/
theorem loadsOfOneRegister : Obligations.LoadsOfOneRegister := by
  intro s
  refine ⟨?bytes, ?words, ?longs, ?plain⟩
  case bytes =>
    rintro m dr e rfl
    have hr := read8_at (memEa_of s m 1)
    refine ⟨loads_dr (·.signExtend 40) hr ?_, loads_dr (·.setWidth 40) hr ?_⟩ <;> exact fun h => if_pos h
  case words =>
    rintro m e rfl
    have hr := read16_at (memEa_of s m 2)
    refine ⟨fun b => loads_d fracVal hr ?_,
      fun dr => ⟨loads_dr (·.signExtend 40) hr ?_, loads_dr (·.setWidth 40) hr ?_⟩,
      fun c => ⟨loads_c4 (·.signExtend 40) hr ?_, loads_c4 (·.setWidth 40) hr ?_⟩⟩ <;> exact fun h => if_pos h
  case longs =>
    rintro m e rfl
    have hr := read32_at (memEa_of s m 4)
    refine ⟨fun dr => loads_dr (·.signExtend 40) hr ?_, fun c => loads_c4 (·.signExtend 40) hr ?_⟩ <;> exact fun h => if_pos h
  case plain =>
    intro rn c
    refine ⟨loads_c4 (·.signExtend 40) (read32_at (eaMode_of s .plain rn 4)) ?_,
      loads_c4 (·.signExtend 40) (read16_at (eaMode_of s .plain rn 2)) ?_⟩ <;> exact fun h => if_pos h

/-! ### Several destinations -/

/-- Registers written in order from a list of values: no other register changes, however many values there are. -/
theorem setDs_zip_frame (u : State) (regs : List DReg) (vs : List DWord) :
    Plain (regs.map .d) 0#32 u (setDs u (regs.zip vs)) := by
  induction regs generalizing u vs with
  | nil => exact Plain.refl [] 0#32 u
  | cons n rest ih => cases vs with
    | nil => exact Plain.refl _ 0#32 u
    | cons v vs => simpa [setDs] using (setD_frame u n v false).trans (ih (setD u n v false) vs)

/-- The two registers of a pair hold their values. -/
theorem setDs_pair (u : State) (p : Pair) (v w : DWord) :
    dreg (setDs u [(pairFst p, v), (pairSnd p, w)]) (pairFst p) = v ∧ ltag (setDs u [(pairFst p, v), (pairSnd p, w)]) (pairFst p) = false
    ∧ dreg (setDs u [(pairFst p, v), (pairSnd p, w)]) (pairSnd p) = w
    ∧ ltag (setDs u [(pairFst p, v), (pairSnd p, w)]) (pairSnd p) = false := by
  have hne : pairFst p ≠ pairSnd p := by
    rw [Ne, Fin.ext_iff]
    show ¬2 * p.val = 2 * p.val + 1
    omega
  simp [setDs, dreg_setD, ltag_setD, hne]

theorem quadReg_inj (q : Quad) (i j : Fin 4) : quadReg q i = quadReg q j ↔ i = j := by
  rw [Fin.ext_iff, Fin.ext_iff]
  show 4 * q.val + i.val = 4 * q.val + j.val ↔ i.val = j.val
  omega

/-- The four registers of a quad hold their values. -/
theorem setDs_quad (u : State) (q : Quad) (v : Fin 4 → DWord) (k : Fin 4) :
    ltag (setDs u [(quadReg q 0, v 0), (quadReg q 1, v 1), (quadReg q 2, v 2), (quadReg q 3, v 3)]) (quadReg q k) = false
    ∧ dreg (setDs u [(quadReg q 0, v 0), (quadReg q 1, v 1), (quadReg q 2, v 2), (quadReg q 3, v 3)]) (quadReg q k) = v k := by
  have hk : k = 0 ∨ k = 1 ∨ k = 2 ∨ k = 3 := by omega
  rcases hk with rfl | rfl | rfl | rfl <;> simp [setDs, dreg_setD, ltag_setD, quadReg_inj]

/-- A load of a pair of words. -/
theorem loads_pair {i : Instr} {s : State} {e : Ea} {ptr : List Dest} {p : Pair} (f : Word16 → DWord) (he : EaOf s e ptr)
    (hexec : aligned e.addr 4 = true → exec i s = .next (setDs (readWords e 2).2 ((pairRegs p).zip ((readWords e 2).1.map f)))) :
    Loads i s e 4 (pairDests p) ptr 0#32 fun t => dreg t (pairFst p) = f (mem16 s e.addr) ∧ ltag t (pairFst p) = false
      ∧ dreg t (pairSnd p) = f (mem16 s (e.addr + 2)) ∧ ltag t (pairSnd p) = false := by
  refine .of_read hexec (readWords_at he 2) (setDs_zip_frame _ (pairRegs p) _) fun hv => ?_
  have hvals : (readWords e 2).1 = [mem16 s e.addr, mem16 s (e.addr + 2)] :=
    hv.trans (congrArg (fun a => [mem16 s a, mem16 s (e.addr + 2)]) (BitVec.add_zero e.addr))
  rw [hvals]
  exact setDs_pair _ p _ _

/-- A load of a quad of words. -/
theorem loads_quad {i : Instr} {s : State} {e : Ea} {ptr : List Dest} {q : Quad} (f : Word16 → DWord) (he : EaOf s e ptr)
    (hexec : aligned e.addr 8 = true → exec i s = .next (setDs (readWords e 4).2 ((quadRegs q).zip ((readWords e 4).1.map f)))) :
    Loads i s e 8 (quadDests q) ptr 0#32 fun t => ∀ k : Fin 4, ltag t (quadReg q k) = false
      ∧ dreg t (quadReg q k) = f (mem16 s (e.addr + BitVec.ofNat 32 (2 * k.val))) := by
  refine .of_read hexec (readWords_at he 4) (setDs_zip_frame _ (quadRegs q) _) fun hv k => ?_
  rw [hv]
  exact setDs_quad _ q (fun k => f (mem16 s (e.addr + BitVec.ofNat 32 (2 * k.val)))) k

/-- A load of a pair of longs. -/
theorem loads_longs {s : State} {ea : EaMode} {rn : RReg} {p : Pair} {e : Ea} (he : e = eaMode s ea rn 8) :
    Loads (.move2l .read ea rn p) s e 8 (pairDests p) (eaDests ea rn) 0#32 fun t =>
      dreg t (pairFst p) = (mem32 s e.addr).signExtend 40 ∧ ltag t (pairFst p) = false
      ∧ dreg t (pairSnd p) = (mem32 s (e.addr + 4)).signExtend 40 ∧ ltag t (pairSnd p) = false := by
  subst he
  refine .of_read (fun h => if_pos h) (readTwoLongs_at (eaMode_of s ea rn 8)) (setDs_zip_frame _ (pairRegs p) [_, _]) fun hv => ?_
  rw [hv]
  exact setDs_pair _ p _ _

/-- Settles O36. -/
theorem loadsOfSeveralRegisters : Obligations.LoadsOfSeveralRegisters := by
  intro s ea rn p q
  refine ⟨?words, ?longs⟩
  case words =>
    rintro e rfl
    have he := eaMode_of s ea rn 4
    refine ⟨loads_pair fracVal he ?_, loads_pair (·.signExtend 40) he ?_⟩ <;> exact fun h => if_pos h
  case longs =>
    rintro e rfl
    have he := eaMode_of s ea rn 8
    refine ⟨loads_longs rfl, loads_quad fracVal he ?_, loads_quad (·.signExtend 40) he ?_⟩ <;> exact fun h => if_pos h

end Sys2Proof.Machine
end

section
/-! The stores (O35, O37, O39; spec/44_agu_move.md R356 to R366, R377 to R380) and the bit-mask instructions on a word of memory
(O45; spec/45_stack_bmu.md R396 to R414). -/

namespace Sys2Proof.Machine

/-! ### One register (O35) -/

/-- The low bits of a long, as stored. -/
theorem setWidth_eq_extractLsb' (v : Word) (k : Nat) : v.setWidth k = v.extractLsb' 0 k := by
  apply BitVec.eq_of_getLsbD_eq
  intro i hi
  simp [hi]

section
variable {i : Instr} {s : State} {e : Ea} {ptr : List Dest} (he : EaOf s e ptr)
include he

theorem stores_byte {v w : Byte} (hvw : v = w) (hexec : aligned e.addr 1 = true → exec i s = .next (write8 e v)) :
    Stores i s e 1 ptr 0#32 fun t => byteAt t e.addr = w :=
  .of_writeAt hexec fun hm => hvw ▸ write8_at he hm v

theorem stores_word {v w : Word16} (hvw : v = w) (hexec : aligned e.addr 2 = true → exec i s = .next (write16 e v)) :
    Stores i s e 2 ptr 0#32 fun t => mem16 t e.addr = w :=
  .of_writeAt hexec fun hm => hvw ▸ write16_at he hm v

theorem stores_long {v w : Word} (hvw : v = w) (hexec : aligned e.addr 4 = true → exec i s = .next (write32 e v)) :
    Stores i s e 4 ptr 0#32 fun t => mem32 t e.addr = w :=
  .of_writeAt hexec fun hm => hvw ▸ write32_at he hm v

end

/-- Settles O35. -/
theorem storesOfOneRegister : Obligations.StoresOfOneRegister := by
  intro s
  refine ⟨?bytes, ?words, ?longs, ?plain, ?imm⟩
  case bytes =>
    rintro dr m e rfl
    refine stores_byte (memEa_of s m 1) (setWidth_eq_extractLsb' _ 8) ?_
    exact fun h => if_pos h
  case words =>
    rintro m e rfl
    have he := memEa_of s m 2
    refine ⟨fun b => stores_word he rfl ?_, fun dr => stores_word he (setWidth_eq_extractLsb' _ 16) ?_,
      fun c => stores_word he (setWidth_eq_extractLsb' _ 16) ?_⟩ <;> exact fun h => if_pos h
  case longs =>
    rintro m e rfl
    have he := memEa_of s m 4
    refine ⟨fun dr => stores_long he rfl ?_, fun c => stores_long he rfl ?_⟩ <;> exact fun h => if_pos h
  case plain =>
    intro rn c
    refine ⟨stores_long (eaMode_of s .plain rn 4) rfl ?_,
      stores_word (eaMode_of s .plain rn 2) (setWidth_eq_extractLsb' _ 16) ?_⟩ <;> exact fun h => if_pos h
  case imm =>
    intro v m
    refine stores_word (bmuEa_of s m) rfl ?_
    exact fun h => if_pos h

/-! ### Several registers (O37) -/

/-- Two words stored by one access. -/
theorem writeWords_two {s : State} {e : Ea} {ptr : List Dest} (he : EaOf s e ptr) (hm : s.mem.wf = true) (v w : Word16) :
    WriteAt s e ptr 4 (writeWords e [v, w]) fun t => mem16 t e.addr = v ∧ mem16 t (e.addr + 2) = w := by
  obtain ⟨hframe, hptr, hstored⟩ := writeWords_at he hm [v, w] (by simp)
  refine ⟨hframe, hptr, fun ho => ?_⟩
  have hfst := hstored ho 0 (by simp)
  have hsnd := hstored ho 1 (by simp)
  exact ⟨(congrArg _ (BitVec.add_zero e.addr)).symm.trans hfst, hsnd⟩

/-- Four words stored by one access. -/
theorem writeWords_four {s : State} {e : Ea} {ptr : List Dest} (he : EaOf s e ptr) (hm : s.mem.wf = true) (v : Fin 4 → Word16) :
    WriteAt s e ptr 8 (writeWords e [v 0, v 1, v 2, v 3]) fun t =>
      ∀ k : Fin 4, mem16 t (e.addr + BitVec.ofNat 32 (2 * k.val)) = v k := by
  obtain ⟨hframe, hptr, hstored⟩ := writeWords_at he hm [v 0, v 1, v 2, v 3] (by simp)
  refine ⟨hframe, hptr, fun ho k => (hstored ho k.val k.isLt).trans ?_⟩
  have hk : k = 0 ∨ k = 1 ∨ k = 2 ∨ k = 3 := by omega
  rcases hk with rfl | rfl | rfl | rfl <;> rfl

section
variable {i : Instr} {s : State} {e : Ea} {ptr : List Dest} (he : EaOf s e ptr)
include he

theorem stores_pair {v w : Word16} (hexec : aligned e.addr 4 = true → exec i s = .next (writeWords e [v, w])) :
    Stores i s e 4 ptr 0#32 fun t => mem16 t e.addr = v ∧ mem16 t (e.addr + 2) = w :=
  .of_writeAt hexec fun hm => writeWords_two he hm v w

theorem stores_quad (v : Fin 4 → Word16) (hexec : aligned e.addr 8 = true → exec i s = .next (writeWords e [v 0, v 1, v 2, v 3])) :
    Stores i s e 8 ptr 0#32 fun t => ∀ k : Fin 4, mem16 t (e.addr + BitVec.ofNat 32 (2 * k.val)) = v k :=
  .of_writeAt hexec fun hm => writeWords_four he hm v

theorem stores_longs {v w v' w' : Word} (hv : v = v') (hw : w = w')
    (hexec : aligned e.addr 8 = true → exec i s = .next (writeTwoLongs e v w)) :
    Stores i s e 8 ptr 0#32 fun t => mem32 t e.addr = v' ∧ mem32 t (e.addr + 4) = w' :=
  .of_writeAt hexec fun hm => hv ▸ hw ▸ writeTwoLongs_at he hm v w

end

/-- The registers that a VSL move reads, in either bank. -/
theorem vslReg_eq (high : Bool) : vslReg high 1 = (if high then 9 else 1) ∧ vslReg high 2 = (if high then 10 else 2)
    ∧ vslReg high 3 = (if high then 11 else 3) ∧ vslReg high 6 = (if high then 14 else 6) := by
  cases high <;> decide

/-- What a VSL move stores, in the terms of the pages (R377 to R380). -/
theorem vslLong_fracs (s : State) (high : Bool) : vslLong s true high =
    ((if srBit s 11 then dHigh s (if high then 11 else 3) else dHigh s (if high then 9 else 1)) <<< 1 ||| 1#16)
      ++ ((if srBit s 9 then dHigh s (if high then 11 else 3) else dHigh s (if high then 9 else 1)) <<< 1) := by
  obtain ⟨h1, -, h3, -⟩ := vslReg_eq high
  rw [← h1, ← h3]
  rfl

theorem vslLong_words (s : State) (high : Bool) : vslLong s false high =
    ((if srBit s 10 then dLow s (if high then 11 else 3) else dLow s (if high then 9 else 1)) <<< 1 ||| 1#16)
      ++ ((if srBit s 8 then dLow s (if high then 11 else 3) else dLow s (if high then 9 else 1)) <<< 1) := by
  obtain ⟨h1, -, h3, -⟩ := vslReg_eq high
  rw [← h1, ← h3]
  rfl

theorem vslHalves (s : State) (fracs high : Bool) : vslHalf s fracs high 6 ++ vslHalf s fracs high 2
    = (if fracs then dHigh s (if high then 14 else 6) ++ dHigh s (if high then 10 else 2)
      else dLow s (if high then 14 else 6) ++ dLow s (if high then 10 else 2)) := by
  obtain ⟨-, h2, -, h6⟩ := vslReg_eq high
  rw [← h2, ← h6]
  cases fracs <;> rfl

/-- Settles O37. -/
theorem storesOfSeveralRegisters : Obligations.StoresOfSeveralRegisters := by
  intro s
  refine ⟨?pairs, ?wide, ?vsl⟩
  case pairs =>
    rintro ea rn p e rfl
    refine stores_pair (eaMode_of s ea rn 4) ?_
    exact fun h => if_pos h
  case wide =>
    rintro ea rn p q e rfl
    have he := eaMode_of s ea rn 8
    refine ⟨stores_longs he rfl rfl ?_, stores_quad he (fun k => dLow s (quadReg q k)) ?_⟩ <;> exact fun h => if_pos h
  case vsl =>
    rintro high rn f w rfl rfl
    refine ⟨?_, ?_⟩
    · rintro e rfl
      have he : EaOf s (eaMode s (.postN 0) rn 4) [.r rn] := eaMode_of s (.postN 0) rn 4
      refine ⟨stores_long he (vslLong_fracs s high) ?_, stores_long he (vslLong_words s high) ?_⟩ <;> exact fun h => if_pos h
    · rintro e rfl
      have he : EaOf s (eaMode s (.postN 0) rn 8) [.r rn] := eaMode_of s (.postN 0) rn 8
      refine ⟨stores_longs he (vslHalves s true high) (vslLong_fracs s high) ?_,
        stores_longs he (vslHalves s false high) (vslLong_words s high) ?_⟩ <;> exact fun h => if_pos h

/-! ### Extension bytes and limit tags (O39) -/

/-- The extension byte and the limit tag taken from bit `lo` of a long (R363). -/
theorem setExt_spec {s u : State} (n : DReg) (v : Word) (lo : Nat) (hd : dreg u n = dreg s n) :
    Plain [.d n] 0#32 u (setExt u n ((v >>> lo).setWidth 9)) ∧ extIs s (setExt u n ((v >>> lo).setWidth 9)) n v lo := by
  have hext : ((v >>> lo).setWidth 9).setWidth 8 = v.extractLsb' lo 8 := by
    apply BitVec.eq_of_getLsbD_eq
    intro i hi
    simp [hi]
  have htag : ((v >>> lo).setWidth 9).getLsbD 8 = v.getLsbD (lo + 8) := by simp
  refine ⟨setD_frame u n _ _, ?_, ?_⟩
  · rw [setExt, dreg_setD_same, hext, dLong, hd]
    rfl
  · rw [setExt, ltag_setD_same, htag]

/-- The long that saves the extensions of a pair (R363). -/
theorem extPair_long (lt ht : Bool) (l h : Byte) :
    (BitVec.ofBool lt ++ l).setWidth 32 ||| ((BitVec.ofBool ht ++ h).setWidth 32 <<< 16)
      = 0#7 ++ (BitVec.ofBool ht ++ (h ++ (0#7 ++ (BitVec.ofBool lt ++ l)))) := by
  apply BitVec.eq_of_getLsbD_eq
  intro i hi
  simp only [BitVec.getLsbD_or, BitVec.getLsbD_shiftLeft, BitVec.getLsbD_setWidth, BitVec.getLsbD_append, BitVec.getLsbD_ofBool,
    BitVec.getLsbD_zero]
  grind

/-- A load of the extension byte and the limit tag of a register. -/
theorem loads_ext {i : Instr} {s : State} {e : Ea} {n : DReg} (lo : Nat) (he : EaOf s e [])
    (hexec : aligned e.addr 4 = true → exec i s = .next (setExt (read32 e).2 n (((read32 e).1 >>> lo).setWidth 9))) :
    Loads i s e 4 [.d n] [] 0#32 fun t => extIs s t n (mem32 s e.addr) lo := by
  have hr := read32_at he
  have hd : dreg (read32 e).2 n = dreg s n := (hr.frame.regs.d n List.not_mem_nil).1
  obtain ⟨hframe, hvalue⟩ := setExt_spec n (read32 e).1 lo hd
  exact .of_read hexec hr hframe fun hv => hv ▸ hvalue

/-- Settles O39. -/
theorem extensionMoves : Obligations.ExtensionMoves := by
  rintro s m p e rfl
  have he := extEa_of s m
  refine ⟨loads_ext 0 he fun h => ?even, loads_ext 16 he fun h => ?odd, stores_long he (extPair_long _ _ _ _) fun h => ?store⟩
  case even =>
    rw [show ∀ v : Word, v >>> 0 = v from fun v => BitVec.ushiftRight_zero v]
    exact if_pos h
  case odd => exact if_pos h
  case store => exact if_pos h

/-! ### Bit masks on a word of memory (O45) -/

section
variable {s : State} {e : Ea} (he : EaOf s e []) (hm : s.mem.wf = true)
include he hm

/-- A read and a write of one word. -/
theorem read_write16 (f : Word16 → Word16) :
    AccessFrame [] 0#32 e.addr 2 true s (write16 { e with st := (read16 e).2 } (f (read16 e).1))
      ∧ (OutsideEonce s e.addr 2 → mem16 (write16 { e with st := (read16 e).2 } (f (read16 e).1)) e.addr = f (mem16 s e.addr)
        ∧ (read16 e).1 = mem16 s e.addr) := by
  obtain ⟨hread, -, hvalue⟩ := read16_at he
  have hself : EaOf (read16 e).2 { e with st := (read16 e).2 } [] := .self rfl
  have hmem : (read16 e).2.mem = s.mem := (load16_only e.st e.addr 1).mem.trans he.mem
  obtain ⟨hwrite, -, hstored⟩ := write16_at hself (hmem ▸ hm) (f (read16 e).1)
  refine ⟨by simpa using hread.read_then hwrite, fun ho => ?_⟩
  have hv := hvalue ho
  exact ⟨(hstored (ho.congr hread.core.params)).trans (congrArg f hv), hv⟩

end

theorem runs_changeMem {i : Instr} {s : State} {m : BmuMem} {f : Word16 → Word16} (hexec : exec i s = changeMem s m f)
    (hm : s.mem.wf = true) (ha : aligned (bmuEa s m).addr 2 = true) : Runs i s fun t =>
      AccessFrame [] 0#32 (bmuEa s m).addr 2 true s t
        ∧ (OutsideEonce s (bmuEa s m).addr 2 → mem16 t (bmuEa s m).addr = f (mem16 s (bmuEa s m).addr)) := by
  obtain ⟨hframe, hvalue⟩ := read_write16 (bmuEa_of s m) hm f
  exact ⟨_, hexec.trans (if_pos ha), hframe, fun ho => (hvalue ho).1⟩

theorem runs_testMem {i : Instr} {s : State} {m : BmuMem} {f g : Word16 → Bool} (hexec : exec i s = testMem s m f)
    (hfg : ∀ p, f p = g p) (ha : aligned (bmuEa s m).addr 2 = true) : Runs i s fun t =>
      AccessFrame [] bitT (bmuEa s m).addr 2 false s t
        ∧ (OutsideEonce s (bmuEa s m).addr 2 → tBit t = g (mem16 s (bmuEa s m).addr)) := by
  obtain ⟨hframe, -, hvalue⟩ := read16_at (bmuEa_of s m)
  refine ⟨_, hexec.trans (if_pos ha), ?_, fun ho => ?_⟩
  · simpa using hframe.then_plain (setT_frame _ (f (read16 (bmuEa s m)).1))
  · rw [tBit_setT, hvalue ho, hfg]

/-- BMTSET.W: the write always succeeds on one core (R404, D18). -/
theorem runs_bmtsetMem {s : State} {m : BmuMem} (u : Word16) (hm : s.mem.wf = true) (ha : aligned (bmuEa s m).addr 2 = true) :
    Runs (.bmtsetMem u m) s fun t => AccessFrame [] bitT (bmuEa s m).addr 2 true s t ∧ (OutsideEonce s (bmuEa s m).addr 2 →
      mem16 t (bmuEa s m).addr = mem16 s (bmuEa s m).addr ||| u
        ∧ tBit t = decide (mem16 s (bmuEa s m).addr &&& u = u)) := by
  obtain ⟨hframe, hvalue⟩ := read_write16 (bmuEa_of s m) hm fun p => p ||| u
  refine ⟨_, if_pos ha, ?_, fun ho => ?_⟩
  · simpa using hframe.then_plain (setT_frame _ (allSet u (read16 (bmuEa s m)).1))
  · obtain ⟨hstored, hread⟩ := hvalue ho
    refine ⟨hstored, ?_⟩
    rw [tBit_setT, hread, allSet_eq]

/-- Settles O45. -/
theorem bitMaskMemory : Obligations.BitMaskMemory := by
  rintro s hm m u a rfl ha W rfl
  exact ⟨runs_changeMem (f := fun p => p &&& ~~~u) rfl hm ha,
    runs_changeMem (f := fun p => p ||| u) rfl hm ha,
    runs_changeMem (f := fun p => p ^^^ u) rfl hm ha,
    runs_changeMem (f := fun p => p &&& u) rfl hm ha,
    runs_changeMem (f := fun p => p ||| u) rfl hm ha,
    runs_changeMem (f := fun p => p ^^^ u) rfl hm ha,
    runs_changeMem (f := fun p => ~~~p) rfl hm ha, runs_bmtsetMem u hm ha,
    runs_testMem rfl (allClear_eq u) ha, runs_testMem rfl (allSet_eq u) ha⟩

end Sys2Proof.Machine
end

section
/-! The stores with scaling and limiting (O38; spec/44_agu_move.md R353, R368 to R371). -/

namespace Sys2Proof.Machine

/-! ### The values moved and S -/

theorem movesScaling_lt (s : State) : movesScaling s < 4 := by
  rw [movesScaling]
  split
  · decide
  · exact Nat.mod_lt _ (by decide)

theorem movesScaling_ne {s : State} (h : scalingDefined s) : movesScaling s ≠ 3 := by
  rw [movesScaling]
  split
  case isTrue => decide
  case isFalse hm => exact h.resolve_left hm

/-- A known 16-bit value is the limited or scaled one (R353). -/
theorem moves16_eq {s : State} {n : DReg} (h : movesKnown s n) (tag : Nat) : moves16 s n tag = limited16 s n := by
  rw [moves16, limited16]
  cases hl : ltag s n
  · have hne := movesScaling_ne (h.resolve_right (by rw [hl]; exact Bool.false_ne_true))
    have hlt := movesScaling_lt s
    rw [if_neg Bool.false_ne_true, if_neg Bool.false_ne_true]
    cases hm : satMode s
    · have hs : movesScaling s = scaling s := by rw [movesScaling, hm, if_neg Bool.false_ne_true]
      rw [hs] at hne hlt ⊢
      have hcases : scaling s = 0 ∨ scaling s = 1 ∨ scaling s = 2 := by omega
      rcases hcases with h | h | h <;> simp [h, dHigh]
    · have hs : movesScaling s = 0 := by rw [movesScaling, hm, if_pos rfl]
      rw [hs, if_pos rfl]
      rfl
  · rfl

theorem shiftLeft_1_low (s : State) (n : DReg) : dLong s n <<< 1 = (dreg s n).extractLsb' 0 31 ++ 0#1 := by
  rw [shiftLeft_1_eq_append]
  congr 1
  apply BitVec.eq_of_getLsbD_eq
  intro i hi
  simp [dLong, hi]

/-- A known long is the limited or scaled one (R353). -/
theorem moves32_eq {s : State} {n : DReg} (h : movesKnown s n) (tag : Nat) : moves32 s n tag = limited32 s n := by
  rw [moves32, limited32]
  cases hl : ltag s n
  · have hne := movesScaling_ne (h.resolve_right (by rw [hl]; exact Bool.false_ne_true))
    have hlt := movesScaling_lt s
    rw [if_neg Bool.false_ne_true, if_neg Bool.false_ne_true]
    cases hm : satMode s
    · have hs : movesScaling s = scaling s := by rw [movesScaling, hm, if_neg Bool.false_ne_true]
      rw [hs] at hne hlt ⊢
      have hcases : scaling s = 0 ∨ scaling s = 1 ∨ scaling s = 2 := by omega
      rcases hcases with h | h | h <;> simp [h, dLong, ← shiftLeft_1_low]
    · have hs : movesScaling s = 0 := by rw [movesScaling, hm, if_pos rfl]
      rw [hs, if_pos rfl]
      rfl
  · rfl

/-- S is the sticky OR of what each value moved adds to it (R353). -/
theorem movesS_of_scaling {s : State} (h : movesScaling s ≠ 3) (xs : List (DReg × Word16)) :
    movesS s xs = (srBit s 6 || xs.any fun x => addsToS s x.1 x.2) := by
  rw [movesS, if_neg fun hc => h hc.1, List.any_filter]
  rfl

/-- One value: known or limited, it adds to S what `addsToS` says. -/
theorem movesS_single {s : State} {n : DReg} (h : movesKnown s n) (m : Word16) :
    movesS s [(n, m)] = (srBit s 6 || addsToS s n m) := by
  cases hl : ltag s n
  · have hne := movesScaling_ne (h.resolve_right (by rw [hl]; exact Bool.false_ne_true))
    rw [movesS_of_scaling hne]
    simp
  · have hnone : [(n, m)].filter (fun x => !ltag s x.1) = [] := by simp [hl]
    rw [movesS, hnone, if_neg fun hc => Bool.noConfusion hc.2]
    simp [addsToS, hl]

/-! ### A store and S -/

/-- A store followed by a write of S. -/
theorem stores_withS {i : Instr} {s : State} {e : Ea} {w : Nat} {ptr : List Dest} {P Q : State → Prop} {u : State} {b : Bool}
    (hexec : aligned e.addr w = true → exec i s = .next (setSrBit u 6 b)) (hw : s.mem.wf = true → WriteAt s e ptr w u Q)
    (hP : Q u → srBit (setSrBit u 6 b) 6 = b → P (setSrBit u 6 b)) : Stores i s e w ptr bitS P :=
  .of_write hexec hw (setSrBit_frame u 6 b bitS (by decide) (by decide)) fun hq => hP hq (srBit_setSrBit u 6 b 6 (by decide))

/-- Reading memory does not see S. -/
theorem mem16_setSrBit (s : State) (i : Nat) (b : Bool) (a : Word) : mem16 (setSrBit s i b) a = mem16 s a := rfl
theorem mem32_setSrBit (s : State) (i : Nat) (b : Bool) (a : Word) : mem32 (setSrBit s i b) a = mem32 s a := rfl

theorem movesf_stores (s : State) (b : DReg) (m : Mem) : Stores (.movesf b m) s (memEa s m 2) 2 (memDests m) bitS fun t =>
    movesKnown s b → mem16 t (memEa s m 2).addr = limited16 s b ∧ srBit t 6 = (srBit s 6 || addsToS s b (limited16 s b)) := by
  refine stores_withS (fun h => if_pos h) (fun hm => write16_at (memEa_of s m 2) hm (moves16 s b 4)) fun hq hs hk => ?_
  rw [hs, mem16_setSrBit, hq, moves16_eq hk, movesS_single hk]
  exact ⟨rfl, rfl⟩

theorem moveslEa_stores (s : State) (b : DReg) (ea : EaMode) (rn : RReg) :
    Stores (.moveslEa b ea rn) s (eaMode s ea rn 4) 4 (eaDests ea rn) bitS fun t => movesKnown s b →
      mem32 t (eaMode s ea rn 4).addr = limited32 s b
        ∧ srBit t 6 = (srBit s 6 || addsToS s b ((limited32 s b).extractLsb' 16 16)) := by
  refine stores_withS (fun h => if_pos h) (fun hm => write32_at (eaMode_of s ea rn 4) hm (moves32 s b 4)) fun hq hs hk => ?_
  have hhigh : ((limited32 s b) >>> 16).setWidth 16 = (limited32 s b).extractLsb' 16 16 := portion_high _
  rw [hs, mem32_setSrBit, hq, moves32_eq hk, movesS_single hk, hhigh]
  exact ⟨rfl, rfl⟩

theorem moves2f_stores (s : State) (p : Pair) (ea : EaMode) (rn : RReg) :
    Stores (.moves2f p ea rn) s (eaMode s ea rn 4) 4 (eaDests ea rn) bitS fun t =>
      (movesKnown s (pairFst p) → mem16 t (eaMode s ea rn 4).addr = limited16 s (pairFst p))
        ∧ (movesKnown s (pairSnd p) → mem16 t ((eaMode s ea rn 4).addr + 2) = limited16 s (pairSnd p))
        ∧ (scalingDefined s → srBit t 6 = (srBit s 6 || addsToS s (pairFst p) (limited16 s (pairFst p))
          || addsToS s (pairSnd p) (limited16 s (pairSnd p)))) := by
  refine stores_withS (fun h => if_pos h) (fun hm => writeWords_two (eaMode_of s ea rn 4) hm (moves16 s (pairFst p) 4)
    (moves16 s (pairSnd p) 5)) fun hq hs => ?_
  obtain ⟨hfst, hsnd⟩ := hq
  refine ⟨fun hk => ?_, fun hk => ?_, fun hd => ?_⟩
  · rw [mem16_setSrBit, hfst, moves16_eq hk]
  · rw [mem16_setSrBit, hsnd, moves16_eq hk]
  rw [hs, movesS_of_scaling (movesScaling_ne hd)]
  simp only [pairRegs, movesVals, moves16_eq (.inl hd), List.zip_cons_cons, List.zip_nil_right, List.any_cons, List.any_nil,
    Bool.or_false, Bool.or_assoc]

theorem moves4f_stores (s : State) (q : Quad) (ea : EaMode) (rn : RReg) :
    Stores (.moves4f q ea rn) s (eaMode s ea rn 8) 8 (eaDests ea rn) bitS fun t =>
      (∀ k : Fin 4, movesKnown s (quadReg q k) →
          mem16 t ((eaMode s ea rn 8).addr + BitVec.ofNat 32 (2 * k.val)) = limited16 s (quadReg q k))
        ∧ (scalingDefined s → (srBit t 6 = true ↔ srBit s 6 = true
          ∨ ∃ k : Fin 4, addsToS s (quadReg q k) (limited16 s (quadReg q k)) = true)) := by
  refine stores_withS (fun h => if_pos h) (fun hm => writeWords_four (eaMode_of s ea rn 8) hm
    fun k => moves16 s (quadReg q k) (4 + k.val)) fun hq hs => ⟨fun k hk => ?_, fun hd => ?_⟩
  · rw [mem16_setSrBit, hq k, moves16_eq hk]
  rw [hs, movesS_of_scaling (movesScaling_ne hd)]
  simp only [quadRegs, movesVals, moves16_eq (.inl hd), List.zip_cons_cons, List.zip_nil_right, List.any_cons, List.any_nil,
    Bool.or_false, Bool.or_eq_true, Fin.exists_fin_succ, IsEmpty.exists_iff, or_false]
  exact Iff.rfl

/-- Settles O38. -/
theorem scaledAndLimitedStores : Obligations.ScaledAndLimitedStores := by
  intro s
  refine ⟨?_, ?_, ?_, ?_⟩
  · rintro b m e rfl
    exact movesf_stores s b m
  · rintro b ea rn e rfl
    exact moveslEa_stores s b ea rn
  · rintro p ea rn e rfl
    exact moves2f_stores s p ea rn
  · rintro q ea rn e rfl
    exact moves4f_stores s q ea rn

end Sys2Proof.Machine
end


section
/-! The changes of flow without a frame below the stack pointer, and calls (O46, O47). -/

namespace Sys2Proof.Machine

/-! ### Displacements -/

/-- Appending a bit 0 doubles a signed number. -/
theorem toInt_append_zero {w : Nat} (x : BitVec w) : (x ++ 0#1).toInt = 2 * x.toInt := by
  rw [BitVec.toInt_eq_toNat_cond, BitVec.toInt_eq_toNat_cond, BitVec.toNat_append, pow_succ]
  have hn : x.toNat <<< 1 ||| (0#1).toNat = 2 * x.toNat := by
    simp [Nat.shiftLeft_eq, Nat.mul_comm]
  rw [hn]
  split <;> split <;> push_cast <;> omega

/-- A displacement without its bit 0 is twice the signed field (R423). -/
theorem dispOffset_eq {w : Nat} (x : BitVec w) : dispOffset x = offsetOf2 x := by
  rw [dispOffset, offsetOf2, ← toInt_append_zero]
  rfl

@[simp] theorem target10_eq (s : State) (d : Disp10) : target10 s d = goal10 s d := by
  cases d <;> simp only [target10, goal10, dispOffset_eq]

@[simp] theorem target8_eq (s : State) (d : Disp8) : target8 s d = goal8 s d := by
  cases d <;> simp only [target8, goal8, dispOffset_eq]

/-- The target of a jump to a 32-bit address or to Rn. -/
theorem jumpTarget_eq {s : State} {x : JumpTo} {g : Word}
    (h : (∃ v, x = .abs v ∧ g = v) ∨ (∃ n, x = .reg n ∧ g = rreg s n)) : jumpTarget s x = g := by
  obtain ⟨v, rfl, rfl⟩ | ⟨n, rfl, rfl⟩ := h <;> rfl

/-! ### Jumps, taken or not, at once or after a delay slot -/

theorem FlowsOnly.self (s : State) : FlowsOnly s.npc s.delay s s :=
  ⟨⟨.refl _ _ _ s, .refl s, ⟨rfl, rfl⟩, rfl, rfl⟩, .refl s, .refl s⟩

theorem jumpTo_flows (s : State) (t : Word) : FlowsOnly (t &&& 0xFFFFFFFE#32) s.delay s (jumpTo s t) :=
  ⟨⟨⟨fun _ _ => ⟨rfl, rfl⟩, fun _ _ => rfl, fun _ _ => rfl, fun _ _ => rfl, fun _ => rfl, fun _ => rfl, fun _ => rfl,
    fun _ _ => rfl, fun _ _ => rfl, fun _ => rfl, rfl, rfl⟩, ⟨rfl, rfl, rfl, rfl, rfl, rfl, rfl, rfl, rfl, rfl, rfl, rfl⟩,
    ⟨rfl, rfl⟩, rfl, rfl⟩, ⟨rfl, rfl, rfl, rfl⟩, fun _ => rfl⟩

theorem delayed_flows (s : State) (d : Delay) : FlowsOnly s.npc d s (delayed s d) :=
  ⟨⟨⟨fun _ _ => ⟨rfl, rfl⟩, fun _ _ => rfl, fun _ _ => rfl, fun _ _ => rfl, fun _ => rfl, fun _ => rfl, fun _ => rfl,
    fun _ _ => rfl, fun _ _ => rfl, fun _ => rfl, rfl, rfl⟩, ⟨rfl, rfl, rfl, rfl, rfl, rfl, rfl, rfl, rfl, rfl, rfl, rfl⟩,
    ⟨rfl, rfl⟩, rfl, rfl⟩, ⟨rfl, rfl, rfl, rfl⟩, fun _ => rfl⟩

theorem jumpIf_flows (b : Bool) (s : State) (t : Word) :
    FlowsOnly (if b then t &&& 0xFFFFFFFE#32 else s.npc) s.delay s (jumpIf b s t) := by
  cases b
  · exact .self s
  · exact jumpTo_flows s t

theorem jumpIfNot_flows (b : Bool) (s : State) (t : Word) :
    FlowsOnly (if b then s.npc else t &&& 0xFFFFFFFE#32) s.delay s (jumpIf (!b) s t) := by
  cases b
  · exact jumpTo_flows s t
  · exact .self s

theorem delayedIf_flows (b : Bool) (s : State) (t : Word) :
    FlowsOnly s.npc (if b then .jump t else .fallthrough) s (delayedIf b s t) := delayed_flows s _

theorem delayedIfNot_flows (b : Bool) (s : State) (t : Word) :
    FlowsOnly s.npc (if b then .fallthrough else .jump t) s (delayedIf (!b) s t) := by
  cases b <;> exact delayed_flows s _

/-- Settles O46: each is a jump, or a delayed jump, to the target, taken or not by the T bit. -/
theorem branchesAndJumps : Obligations.BranchesAndJumps := by
  intro s
  refine ⟨fun d => ⟨?_, ?_⟩, fun d a ha => ⟨?_, ?_, ?_, ?_⟩, fun x g hx a ha => ?_⟩
  · exact .of_exec rfl (target10_eq s d ▸ jumpTo_flows s _)
  · exact .of_exec rfl (target10_eq s d ▸ delayed_flows s _)
  · subst ha
    exact .of_exec rfl (target8_eq s d ▸ jumpIf_flows _ s _)
  · subst ha
    exact .of_exec rfl (target8_eq s d ▸ jumpIfNot_flows _ s _)
  · exact .of_exec rfl (target8_eq s d ▸ delayedIf_flows _ s _)
  · exact .of_exec rfl (target8_eq s d ▸ delayedIfNot_flows _ s _)
  · have hg := jumpTarget_eq hx
    subst ha hg
    exact ⟨.of_exec rfl (jumpTo_flows s _), .of_exec rfl (delayed_flows s _), .of_exec rfl (jumpIf_flows _ s _),
      .of_exec rfl (jumpIfNot_flows _ s _), .of_exec rfl (delayedIf_flows _ s _), .of_exec rfl (delayedIfNot_flows _ s _)⟩

/-! ### Calls (R422) -/

/-- A subroutine call: the frame, the pointer, RAS, the target. -/
theorem callTo_calls {s : State} (ha : StacksAligned s) (hm : s.mem.wf = true) (ret g : Word) :
    Calls ret g s (callTo s ret g) := by
  obtain ⟨m, e, a, hp⟩ := pushFrame_only s (spOf s) ret s.sr
  have hexp : expMode (pushFrame s (spOf s) ret s.sr) = expMode s := by rw [hp]; rfl
  have hsp : spOf (callTo s ret g) = spOf s + 8 :=
    (spOf_setSp (pushFrame s (spOf s) ret s.sr) (spOf s + 8)).trans (spMask_add ha.sp (by decide))
  have hpush : Untouched [] 0#32 0#32 s (pushFrame s (spOf s) ret s.sr) := by
    rw [hp]
    exact ⟨fun _ _ => ⟨rfl, rfl⟩, fun _ _ => rfl, fun _ _ => rfl, fun _ _ => rfl, fun _ => rfl, fun _ => rfl, fun _ => rfl,
      fun _ _ => rfl, fun _ _ => rfl, fun _ => rfl, rfl, rfl⟩
  have hdest : spDest (pushFrame s (spOf s) ret s.sr) = spDest s := by
    unfold spDest
    rw [hexp]
  obtain ⟨hset, -, -, -, ⟨-, heonce⟩, hmem⟩ := setSp_frame (pushFrame s (spOf s) ret s.sr) (spOf s + 8)
  have hbe := hset.bigEndian_eq
  rw [hdest] at hset
  have hall := hpush.trans hset
  have hbyte (x : Word) : byteAt (callTo s ret g) x = byteAt (pushFrame s (spOf s) ret s.sr) x := hmem x
  have hread (x : Word) : mem32 (callTo s ret g) x = mem32 (pushFrame s (spOf s) ret s.sr) x :=
    mem32_congr hbe x fun k _ => hbyte _
  obtain ⟨m', e', a', n', p', hc⟩ := callTo_only s ret g
  constructor
  · exact ⟨hall.d, hall.r, hall.n, hall.m, hall.mctl, hall.nsp, hall.esp, hall.sa, hall.lc, hall.vba, hall.sr, hall.emr⟩
  · rw [hc]
    exact ⟨rfl, rfl, rfl, rfl, rfl, rfl, rfl, rfl, rfl, rfl, rfl, rfl⟩
  · rw [hc]; rfl
  · rw [hc]
  · exact hsp
  · rw [hc]; exact ⟨rfl, rfl⟩
  · rw [hc]; exact ⟨rfl, rfl⟩
  · rw [hc]
  · exact fun ho => heonce.trans (pushFrame_frame hm ho ret s.sr).2.2
  · intro ho
    obtain ⟨h1, h2, -⟩ := pushFrame_frame hm ho ret s.sr
    rw [hread, hread]
    exact ⟨h1, h2⟩
  · intro x hx
    rw [← pushFrame_outside hm (spOf s) ret s.sr x hx, hbyte]

/-- Settles O47: each is a call, or a delayed one, of the target. -/
theorem subroutineCalls : Obligations.SubroutineCalls := by
  intro s ha hm
  refine ⟨fun d => ⟨?_, ?_⟩, fun x g hx => ?_⟩
  · exact .of_exec rfl (target8_eq s d ▸ callTo_calls ha hm s.npc _)
  · exact .of_exec rfl (target8_eq s d ▸ delayed_flows s _)
  · have hg := jumpTarget_eq hx
    subst hg
    exact ⟨.of_exec rfl (callTo_calls ha hm s.npc _), .of_exec rfl (delayed_flows s _)⟩

end Sys2Proof.Machine
end


section
/-! The returns from subroutines and exceptions (O48; spec/46_cof.md R440 to R445). -/

namespace Sys2Proof.Machine

/-! ### The frame is read and dropped -/

theorem sameSp_setSp {s u : State} (h : expMode u = expMode s) (v : Word) : sameSp s (setSp u v) = v &&& spMask := by
  rw [sameSp, setSp, h]
  cases expMode s <;> rfl

/-- The read of the return address notes its access and may touch the EOnCE; outside its window it reads the long below the
active stack pointer. -/
theorem popReturn_spec (s : State) : ∃ e a, (popReturn s).2 = { s with eonce := e, acc := a }
    ∧ (OutsideEonce s (spOf s - 8) 4 → (popReturn s).1 = mem32 s (spOf s - 8) ∧ e = s.eonce) := by
  have ho : (load32 s (spOf s - 8) 1).2 = { s with eonce := (load32 s (spOf s - 8) 1).2.eonce } := load32_only s _ 1
  refine ⟨(load32 s (spOf s - 8) 1).2.eonce, _, congrArg (note · _) ho, fun h => ?_⟩
  have hl := load32_outside (outside_zero h (by decide)) 1
  exact ⟨congrArg Prod.fst hl, congrArg (fun r : Word × State => r.2.eonce) hl⟩

/-- The same of the two longs of an exception's frame. -/
theorem readFrame_spec (s : State) : ∃ e a,
    note (load32 (load32 s (spOf s - 8) 0).2 (spOf s - 4) 1).2
        (frameRead s (load32 s (spOf s - 8) 0).1 (load32 (load32 s (spOf s - 8) 0).2 (spOf s - 4) 1).1)
      = { s with eonce := e, acc := a }
    ∧ (OutsideEonce s (spOf s - 8) 8 → (load32 s (spOf s - 8) 0).1 = mem32 s (spOf s - 8)
        ∧ (load32 (load32 s (spOf s - 8) 0).2 (spOf s - 4) 1).1 = mem32 s (spOf s - 4) ∧ e = s.eonce) := by
  have ho : (load32 (load32 s (spOf s - 8) 0).2 (spOf s - 4) 1).2
      = { s with eonce := (load32 (load32 s (spOf s - 8) 0).2 (spOf s - 4) 1).2.eonce } :=
    (load32_only s _ 0).trans (load32_only _ _ 1)
  refine ⟨(load32 (load32 s (spOf s - 8) 0).2 (spOf s - 4) 1).2.eonce, _, congrArg (note · _) ho, fun h => ?_⟩
  have h4 : spOf s - 8 + BitVec.ofNat 32 4 = spOf s - 4 := by bv_omega
  have hl := load32_outside (outside_zero h (by decide)) 0
  have hr := load32_outside (outside_zero (h4 ▸ h.part 4 4 (by decide)) (by decide)) 1
  rw [hl]
  exact ⟨rfl, congrArg Prod.fst hr, congrArg (fun r : Word × State => r.2.eonce) hr⟩

/-- The active stack pointer is moved below a frame that was read. -/
theorem setSp_returns {s u : State} {e : Eonce} {a : List Access} (ha : StacksAligned s) (hu : u = { s with eonce := e, acc := a }) :
    Returns 0#32 0#32 s (setSp u (spOf s - 8)) ∧ SameFlow s (setSp u (spOf s - 8)) ∧ SameRas s (setSp u (spOf s - 8))
      ∧ (setSp u (spOf s - 8)).eonce = e := by
  obtain ⟨regs, core, flow, ras, ⟨overflow, eonce⟩, mem⟩ := setSp_frame u (spOf s - 8)
  subst hu
  refine ⟨⟨⟨regs.d, regs.r, regs.n, regs.m, regs.mctl, regs.nsp, regs.esp, regs.sa, regs.lc, regs.vba, regs.sr, regs.emr⟩,
    ⟨core.pc, core.proc, core.reqIllegal, core.reqDebug, core.window, core.loopJump, core.ignoreA, core.ignoreB, core.inputs,
      core.events, core.params, core.lastPc⟩, ?_, ras.2.2, overflow, mem⟩, flow, ras, eonce⟩
  exact (sameSp_setSp (by rfl) _).trans (spMask_sub ha.sp (by decide))

/-- What a return leaves alone does not speak of RAS and the flow. -/
theorem Returns.with_flow {b c : Word} {s t : State} (h : Returns b c s t) (r f : Bool) (n : Word) (d : Delay) :
    Returns b c s { t with rasValid := r, npc := n, delay := d, flowed := f } :=
  ⟨⟨h.regs.d, h.regs.r, h.regs.n, h.regs.m, h.regs.mctl, h.regs.nsp, h.regs.esp, h.regs.sa, h.regs.lc, h.regs.vba, h.regs.sr,
      h.regs.emr⟩,
    ⟨h.core.pc, h.core.proc, h.core.reqIllegal, h.core.reqDebug, h.core.window, h.core.loopJump, h.core.ignoreA, h.core.ignoreB,
      h.core.inputs, h.core.events, h.core.params, h.core.lastPc⟩, h.sp, h.shadow, h.overflow, h.mem⟩

theorem Returns.clearNmid {b : Word} {s t : State} (h : Returns b 0#32 s t) : Returns b 8#32 s (clearNmid t) := by
  have hemr : withBit t.emr 3 false &&& ~~~8#32 = s.emr &&& ~~~8#32 := by
    rw [withBit_outside _ 3 _ 8#32 (by decide) (by decide), h.regs.emr_eq]
  exact ⟨⟨h.regs.d, h.regs.r, h.regs.n, h.regs.m, h.regs.mctl, h.regs.nsp, h.regs.esp, h.regs.sa, h.regs.lc, h.regs.vba, h.regs.sr,
      hemr⟩,
    ⟨h.core.pc, h.core.proc, h.core.reqIllegal, h.core.reqDebug, h.core.window, h.core.loopJump, h.core.ignoreA, h.core.ignoreB,
      h.core.inputs, h.core.events, h.core.params, h.core.lastPc⟩, h.sp, h.shadow, h.overflow, h.mem⟩

theorem Returns.writeSr {c : Word} {s t : State} (h : Returns 0#32 c s t) (hs : SrLegal s) (v : Word) :
    Returns srMask c s (writeSr t v) := by
  have ht : SrLegal t := by
    rw [SrLegal, h.regs.sr_eq]
    exact hs
  have hsr : (Machine.writeSr t v).sr &&& ~~~srMask = s.sr &&& ~~~srMask :=
    ((writeSr_frame t v ht).1.sr).trans (by rw [h.regs.sr_eq])
  exact ⟨⟨h.regs.d, h.regs.r, h.regs.n, h.regs.m, h.regs.mctl, h.regs.nsp, h.regs.esp, h.regs.sa, h.regs.lc, h.regs.vba, hsr,
      h.regs.emr⟩,
    ⟨h.core.pc, h.core.proc, h.core.reqIllegal, h.core.reqDebug, h.core.window, h.core.loopJump, h.core.ignoreA, h.core.ignoreB,
      h.core.inputs, h.core.events, h.core.params, h.core.lastPc⟩, h.sp, h.shadow, h.overflow, h.mem⟩

@[simp] theorem clearNmid_nmid (s : State) : (clearNmid s).emr.getLsbD 3 = false := by
  rw [clearNmid, getLsbD_withBit _ _ _ _ (by decide), if_pos rfl]

/-! ### RTS, RTSTK and their delayed forms -/

/-- The frame is dropped, with or without a read of it, and RAS becomes invalid (R442). -/
theorem dropFrame_spec {s u : State} {e : Eonce} {a : List Access} (ha : StacksAligned s) (hu : u = { s with eonce := e, acc := a }) :
    Returns 0#32 0#32 s (dropFrame u) ∧ SameFlow s (dropFrame u) ∧ (dropFrame u).rasValid = false
      ∧ (dropFrame u).eonce = e := by
  have hsp : spOf u = spOf s := by rw [hu]; rfl
  obtain ⟨hr, hf, -, he⟩ := setSp_returns ha hu
  rw [dropFrame, hsp]
  exact ⟨hr.with_flow false _ _ _, hf, rfl, he⟩

theorem subReturn_spec {s : State} (ha : StacksAligned s) :
    Returns 0#32 0#32 s (subReturn s).2 ∧ SameFlow s (subReturn s).2 ∧ (subReturn s).2.rasValid = false
      ∧ (s.rasValid = true → (subReturn s).1 = s.ras ∧ (subReturn s).2.eonce = s.eonce)
      ∧ (s.rasValid = false → OutsideEonce s (spOf s - 8) 4 →
          (subReturn s).1 = mem32 s (spOf s - 8) ∧ (subReturn s).2.eonce = s.eonce) := by
  unfold subReturn
  cases hv : s.rasValid
  · obtain ⟨e, a, hpop, hout⟩ := popReturn_spec s
    obtain ⟨hr, hf, hras, he⟩ := dropFrame_spec ha hpop
    refine ⟨hr, hf, hras, nofun, fun _ ho => ?_⟩
    obtain ⟨hmem, heq⟩ := hout ho
    exact ⟨hmem, he.trans heq⟩
  · obtain ⟨hr, hf, hras, he⟩ := dropFrame_spec (u := s) ha rfl
    exact ⟨hr, hf, hras, fun _ => ⟨rfl, he⟩, nofun⟩

theorem stackReturn_spec {s : State} (ha : StacksAligned s) :
    Returns 0#32 8#32 s (stackReturn s).2 ∧ SameFlow s (stackReturn s).2 ∧ (stackReturn s).2.rasValid = false
      ∧ (stackReturn s).2.emr.getLsbD 3 = false
      ∧ (OutsideEonce s (spOf s - 8) 4 → (stackReturn s).1 = mem32 s (spOf s - 8) ∧ (stackReturn s).2.eonce = s.eonce) := by
  obtain ⟨e, a, hpop, hout⟩ := popReturn_spec s
  obtain ⟨hr, hf, hras, he⟩ := dropFrame_spec ha hpop
  refine ⟨hr.clearNmid, hf, hras, clearNmid_nmid _, fun ho => ?_⟩
  obtain ⟨hmem, heq⟩ := hout ho
  exact ⟨hmem, he.trans heq⟩

/-! ### RTE and RTED -/

/-- RTE: SR and the return address come from the frame, NMID is cleared, RAS stays (R440). -/
theorem returnFromException_spec {s : State} (ha : StacksAligned s) (hs : SrLegal s) :
    Returns srMask 8#32 s (returnFromException s) ∧ (returnFromException s).delay = s.delay ∧ SameRas s (returnFromException s)
      ∧ (returnFromException s).emr.getLsbD 3 = false
      ∧ (OutsideEonce s (spOf s - 8) 8 → (returnFromException s).npc = mem32 s (spOf s - 8) &&& 0xFFFFFFFE#32
        ∧ (returnFromException s).sr = mem32 s (spOf s - 4) &&& srMask ∧ (returnFromException s).eonce = s.eonce) := by
  obtain ⟨e, a, hread, hout⟩ := readFrame_spec s
  obtain ⟨hr, ⟨-, hd⟩, hras, he⟩ := setSp_returns ha hread
  refine ⟨(hr.clearNmid.writeSr hs _).with_flow _ _ _ _, hd, hras, clearNmid_nmid _, fun ho => ?_⟩
  obtain ⟨hpc, hsr, heq⟩ := hout ho
  exact ⟨congrArg (· &&& 0xFFFFFFFE#32) hpc, congrArg (· &&& srMask) hsr, he.trans heq⟩

theorem execRted_spec {s : State} (ha : StacksAligned s) :
    Runs .rted s fun t => Returns 0#32 0#32 s t ∧ t.npc = s.npc ∧ SameRas s t
      ∧ (OutsideEonce s (spOf s - 8) 8 → t.delay = .ret (mem32 s (spOf s - 8)) (mem32 s (spOf s - 4)) (spOf s - 8)
        ∧ t.eonce = s.eonce) := by
  obtain ⟨e, a, hread, hout⟩ := readFrame_spec s
  obtain ⟨hr, ⟨hn, -⟩, hras, he⟩ := setSp_returns ha hread
  refine .of_exec rfl ⟨hr.with_flow _ _ _ _, hn, hras, fun ho => ?_⟩
  obtain ⟨hpc, hsr, heq⟩ := hout ho
  refine ⟨?_, he.trans heq⟩
  show Delay.ret _ _ _ = _
  rw [hpc, hsr]

/-- Settles O48. -/
theorem returnsFromSubroutinesAndExceptions : Obligations.ReturnsFromSubroutinesAndExceptions := by
  intro s ha hs a rfl
  obtain ⟨hsub, ⟨hsubN, hsubD⟩, hsubRas, hsubR, hsubM⟩ := subReturn_spec ha
  obtain ⟨hst, ⟨hstN, hstD⟩, hstRas, hstNmid, hstM⟩ := stackReturn_spec ha
  refine ⟨?_, ?_, ?_, ?_, .of_exec rfl (returnFromException_spec ha hs), execRted_spec ha⟩
  case _ =>
    refine .of_exec rfl ⟨hsub.with_flow _ _ _ _, hsubD, hsubRas, fun hv => ?_, fun hv ho => ?_⟩
    · obtain ⟨h, he⟩ := hsubR hv
      exact ⟨congrArg (· &&& 0xFFFFFFFE#32) h, he⟩
    · obtain ⟨h, he⟩ := hsubM hv ho
      exact ⟨congrArg (· &&& 0xFFFFFFFE#32) h, he⟩
  case _ =>
    refine .of_exec rfl ⟨hsub.with_flow _ _ _ _, hsubN, hsubRas, fun hv => ?_, fun hv ho => ?_⟩
    · obtain ⟨h, he⟩ := hsubR hv
      exact ⟨congrArg (Delay.sub · _) h, he⟩
    · obtain ⟨h, he⟩ := hsubM hv ho
      exact ⟨congrArg (Delay.sub · _) h, he⟩
  case _ =>
    refine .of_exec rfl ⟨hst.with_flow _ _ _ _, hstD, hstRas, hstNmid, fun ho => ?_⟩
    obtain ⟨h, he⟩ := hstM ho
    exact ⟨congrArg (· &&& 0xFFFFFFFE#32) h, he⟩
  case _ =>
    refine .of_exec rfl ⟨hst.with_flow _ _ _ _, hstN, hstRas, hstNmid, fun ho => ?_⟩
    obtain ⟨h, he⟩ := hstM ho
    exact ⟨congrArg (Delay.sub · _) h, he⟩

end Sys2Proof.Machine
end


section
/-! The entry of exceptions and the return that undoes it (O50, O51, O53; spec/60_exceptions.md R540 to R542). -/

namespace Sys2Proof.Machine

/-! ### What an entry keeps, whatever the stack pointers and memory hold -/

/-- The bits of SR that an exception entry writes: C, T, S1, S0, EXP, the mask, LF3..LF0 and SLF (R540). -/
def entryBits : List Nat := [0, 1, 4, 5, 18, 21, 22, 23, 27, 28, 29, 30, 31]

theorem entrySr_keeps (sr : Word) (lvl : BitVec 3) (i : Nat) (hi : i ∉ entryBits) (h : i < 32) :
    (entrySr sr lvl).getLsbD i = sr.getLsbD i := by
  have hmask : i ∉ [21, 22, 23] := by
    intro hm
    exact hi (by revert hm; simp [entryBits]; omega)
  have hclear : i ∉ [0, 1, 4, 5, 27, 28, 29, 30, 31] := by
    intro hm
    exact hi (by revert hm; simp [entryBits]; omega)
  have h18 : i ≠ 18 := by
    rintro rfl
    exact hi (by decide)
  rw [getLsbD_entrySr sr lvl i h hmask, if_neg h18, if_neg hclear]

/-- Taking an exception changes SR's entry bits only, and no register of a program and no bit of EMR. -/
theorem takeException_keeps (s : State) (off : BitVec 12) (lvl : BitVec 3) (ret : Word) :
    EntryKeeps s (takeException s off lvl ret) ∧ (takeException s off lvl ret).sr = entrySr s.sr lvl
      ∧ (takeException s off lvl ret).emr = s.emr ∧ (takeException s off lvl ret).delay = s.delay
      ∧ (takeException s off lvl ret).pc = s.pc ∧ (takeException s off lvl ret).proc = s.proc := by
  obtain ⟨m, e, a, h⟩ := takeException_only s off lvl ret
  rw [h]
  exact ⟨⟨fun _ => ⟨rfl, rfl⟩, fun _ => rfl, fun _ => ⟨rfl, rfl⟩, rfl, fun _ => ⟨rfl, rfl⟩, rfl, rfl, rfl, rfl, rfl⟩,
    rfl, rfl, rfl, rfl, rfl⟩

theorem vectorAddr_masked (s : State) : vectorAddr s 0x000#12 &&& pcMask = s.vba &&& 0xFFFFF000#32 := by
  rw [vectorAddr]
  have h0 : (0x000#12).setWidth 32 &&& 0xFC0#32 = 0#32 := by decide
  rw [h0, BitVec.or_zero, BitVec.and_assoc]
  rfl

/-- Settles O50: TRAP is `takeException` with offset 0 and level 7, and the next boundaries closed. -/
theorem trapTakesItsException : Obligations.TrapTakesItsException := by
  intro s ha hm
  obtain ⟨hf, hsr, hk, hn, -⟩ := takeException_spec ha hm 0x000#12 7#3 s.npc
  obtain ⟨-, -, hemr, hd, hpc, -⟩ := takeException_keeps s 0x000#12 7#3 s.npc
  refine .of_exec (t := { takeException s 0x000#12 7#3 s.npc with window := 4 }) rfl ?_
  generalize takeException s 0x000#12 7#3 s.npc = u at *
  exact ⟨hn.trans (vectorAddr_masked s), ⟨hf.esp, hf.nsp, hf.frame, hf.mem⟩, hsr,
    ⟨hk.d, hk.r, hk.n, hk.mctl, hk.loops, hk.vba, hk.ras⟩, hemr, hd, hpc⟩

/-! ### The entry between two sets -/

/-- The state that the entry of `k` takes the exception from. -/
def entryStart (b : State) (k : Pending) : State := { entered b k with acc := [] }

/-- The exception of `k`, taken and acknowledged. -/
def taken (b : State) (k : Pending) : State :=
  acknowledge (takeException (entryStart b k) (offsetOf (entered b k) k) (levelOf (entered b k) k) (entered b k).pc) k

/-- The entry of an exception takes and acknowledges it, and goes to its handler; beside the EOnCE only the windows and what
belongs to one set change. -/
theorem enter_eq (b : State) (k : Pending) : ∃ e q, enter b k = { taken b k with
    eonce := e, reqDebug := q, window := 3, pc := (taken b k).npc &&& pcMask, fresh := (taken b k).fresh + 8, flowed := false
    acc := [], emrEv := 0#32, ifc := 0#3 } := by
  unfold enter
  rw [show (if k = .debug then settle b else b) = entered b k from rfl]
  dsimp only
  rw [show acknowledge (takeException { entered b k with acc := [] } (offsetOf (entered b k) k) (levelOf (entered b k) k)
    (entered b k).pc) k = taken b k from rfl]
  generalize taken b k = u
  generalize entered b k = s
  have h := (traceInt_only { u with window := 3 } s.lastPc (vectorAddr s (offsetOf s k))).trans
    ((eonceEvents_only s.eonce { detect s.eonce (traceInt { u with window := 3 } s.lastPc (vectorAddr s (offsetOf s k))) with
        pcs := 0#18 } false _).trans (samplePcs_only s.eonce.pcLast _))
  obtain ⟨e, q, h⟩ := h
  rw [h]
  unfold advance
  obtain ⟨e', q', h'⟩ := mirrorPins_only { { { u with window := 3 } with eonce := e, reqDebug := q } with
    pc := u.npc &&& pcMask, fresh := u.fresh + 8, flowed := false, acc := [], emrEv := 0#32, ifc := 0#3 }
  exact ⟨e', q', h'⟩

theorem entered_only (b : State) (k : Pending) : DebugOnly b (entered b k) :=
  .ite ((eonceEvents_only b.eonce Detected.none false b).trans (mirrorPins_only _)) (.refl b)

/-- What an entry between two sets writes in SR, EMR and the registers of a program. -/
theorem enter_keeps (b : State) (k : Pending) :
    EntryKeeps b (enter b k) ∧ (enter b k).sr = entrySr b.sr (levelOf b k)
      ∧ (enter b k).emr = (if k = .nmi then withBit b.emr 3 true else b.emr) ∧ (enter b k).proc = b.proc
      ∧ (enter b k).window = 3 := by
  obtain ⟨e, q, h⟩ := enter_eq b k
  obtain ⟨e0, q0, h0⟩ := entered_only b k
  have htake := takeException_keeps (entryStart b k) (offsetOf (entered b k) k) (levelOf (entered b k) k) (entered b k).pc
  have hlevel : levelOf (entered b k) k = levelOf b k := by rw [h0]; rfl
  have hstart : entryStart b k = { b with eonce := e0, reqDebug := q0, acc := [] } := by rw [entryStart, h0]
  unfold taken at h
  rw [hlevel] at htake h
  generalize takeException (entryStart b k) (offsetOf (entered b k) k) (levelOf b k) (entered b k).pc = u at *
  rw [hstart] at htake
  obtain ⟨hk, hsr, hemr, -, -, hproc⟩ := htake
  rw [h]
  cases k
  case nmi =>
    exact ⟨⟨hk.d, hk.r, hk.n, hk.mctl, hk.loops, hk.vba, hk.ras⟩, hsr, congrArg (withBit · 3 true) hemr, hproc, rfl⟩
  all_goals exact ⟨⟨hk.d, hk.r, hk.n, hk.mctl, hk.loops, hk.vba, hk.ras⟩, hsr, hemr, hproc, rfl⟩

/-- NMID set is bit 3 of EMR added. -/
theorem withBit_nmid (v : Word) : withBit v 3 true = v ||| 8#32 := by
  apply BitVec.eq_of_getLsbD_eq
  intro i hi
  have h8 : ∀ j : Fin 32, (8#32).getLsbD j.val = decide (j.val = 3) := by decide
  rw [getLsbD_withBit _ _ _ _ (by decide), BitVec.getLsbD_or, h8 ⟨i, hi⟩]
  by_cases h : i = 3 <;> simp [h]

/-- Settles O51: an entry between two sets, and TRAP. -/
theorem exceptionEntryKeeps : Obligations.ExceptionEntryKeeps := by
  intro s
  refine ⟨?_, ?_⟩
  case _ =>
    rintro k t rfl
    obtain ⟨hk, hsr, hemr, -, -⟩ := enter_keeps s k
    refine ⟨hk, fun i hi h => ?_, ?_⟩
    · rw [hsr, entrySr_keeps s.sr _ i hi h]
    · rw [hemr, withBit_nmid]
  case _ =>
    obtain ⟨hk, hsr, hemr, -, -⟩ := takeException_keeps s 0x000#12 7#3 s.npc
    refine .of_exec (t := { takeException s 0x000#12 7#3 s.npc with window := 4 }) rfl ?_
    generalize takeException s 0x000#12 7#3 s.npc = u at *
    refine ⟨⟨hk.d, hk.r, hk.n, hk.mctl, hk.loops, hk.vba, hk.ras⟩, fun i hi h => ?_, hemr⟩
    show u.sr.getLsbD i = _
    rw [hsr, entrySr_keeps s.sr _ i hi h]

/-! ### RTE after an entry -/

/-- EXP is set in a handler (R540). -/
theorem expMode_entry {u : State} {sr : Word} {lvl : BitVec 3} (h : u.sr = entrySr sr lvl) : expMode u = true := by
  show u.sr.getLsbD 18 = true
  rw [h, getLsbD_entrySr sr lvl 18 (by decide) (by decide), if_pos rfl]

/-- A handler's SR has no reserved bit set (R540). -/
theorem entrySr_legal {s u : State} {lvl : BitVec 3} (hs : SrLegal s) (h : u.sr = entrySr s.sr lvl) : SrLegal u := by
  rw [SrLegal] at hs ⊢
  apply BitVec.eq_of_getLsbD_eq
  intro i hi
  have hmask : ∀ j : Fin 32, j.val ∈ entryBits → srMask.getLsbD j.val = true := by decide
  by_cases hmem : i ∈ entryBits
  · rw [BitVec.getLsbD_and, hmask ⟨i, hi⟩ hmem, Bool.and_true]
  · have hbit := congrArg (BitVec.getLsbD · i) hs
    simp only [BitVec.getLsbD_and] at hbit
    rw [BitVec.getLsbD_and, h, entrySr_keeps s.sr lvl i hmem hi, hbit]

/-- The EOnCE is left alone where the frame is outside its window. -/
theorem takeException_eonce {s : State} (hm : s.mem.wf = true) (ho : OutsideEonce s s.esp 8) (off : BitVec 12) (lvl : BitVec 3)
    (ret : Word) : (takeException s off lvl ret).eonce = s.eonce := by
  obtain ⟨-, -, h⟩ := pushFrame_frame hm ho ret s.sr
  simp only [takeException, jumpTo_eonce, setEsp_eonce, h]

/-- Taking an exception writes no register but ESP, SR and memory apart. -/
theorem takeException_untouched (s : State) (off : BitVec 12) (lvl : BitVec 3) (ret : Word) :
    Untouched [.esp] 0xFFFFFFFF#32 0#32 s (takeException s off lvl ret) ∧ (takeException s off lvl ret).params = s.params := by
  obtain ⟨m, e, a, h⟩ := takeException_only s off lvl ret
  rw [h]
  refine ⟨⟨fun _ _ => ⟨rfl, rfl⟩, fun _ _ => rfl, fun _ _ => rfl, fun _ _ => rfl, fun _ => rfl, fun _ => rfl,
    fun hesp => absurd (List.mem_singleton_self _) hesp, fun _ _ => rfl, fun _ _ => rfl, fun _ => rfl, ?_, rfl⟩, rfl⟩
  rw [show ~~~0xFFFFFFFF#32 = 0#32 from rfl, BitVec.and_zero, BitVec.and_zero]

/-- Settles O53: RTE reads the frame that the entry wrote, and sets the stack pointer back to it. -/
theorem returnUndoesEntry : Obligations.ReturnUndoesEntry := by
  intro s off lvl ret ha hs hm ho
  obtain ⟨hf, -, hk, -, -⟩ := takeException_spec ha hm off lvl ret
  obtain ⟨-, hsr, hemr, hd, -, hproc⟩ := takeException_keeps s off lvl ret
  obtain ⟨hun, hparams⟩ := takeException_untouched s off lvl ret
  have heonce := takeException_eonce hm ho off lvl ret
  generalize takeException s off lvl ret = u at *
  have hexp := expMode_entry hsr
  have hsp : spOf u = s.esp + 8 := by rw [spOf, if_pos hexp, hf.esp]
  have hdest : spDest u = .esp := by rw [spDest, if_pos hexp]
  have hlow : s.esp + 8 - 8 = s.esp := by bv_omega
  have hhigh : s.esp + 8 - 4 = s.esp + 4 := by bv_omega
  have hua : StacksAligned u :=
    ⟨by rw [hf.nsp]; exact ha.1, by rw [hf.esp]; exact spMask_add ha.2 (by decide)⟩
  obtain ⟨hr, hrd, hras, hnmid, hout⟩ := returnFromException_spec hua (entrySr_legal hs hsr)
  obtain ⟨hpcF, hsrF⟩ := hf.frame ho
  obtain ⟨regs, core, hsame, -, -, hmem⟩ := hr
  rw [hsp, hlow, hhigh, hpcF, hsrF, hs] at hout
  obtain ⟨hnpc, hsrT, heT⟩ := hout (ho.congr hparams)
  rw [sameSp, if_pos hexp, hsp, hlow] at hsame
  rw [hdest] at regs
  obtain ⟨td, tr, tn, tm, tmctl, tnsp, -, tsa, tlc, tvba, -, temr⟩ := hun.trans regs
  refine .of_exec rfl ⟨hnpc, ⟨fun k _ => td k (by simp), fun k _ => tr k (by simp), fun k _ => tn k (by simp),
    fun k _ => tm k (by simp), fun _ => tmctl (by simp), fun _ => tnsp (by simp), fun _ => hsame, fun k _ => tsa k (by simp),
    fun k _ => tlc k (by simp), fun _ => tvba (by simp), by rw [hsrT], temr⟩, hnmid, ?_, core.proc.trans hproc, hrd.trans hd,
    hk.ras.trans hras, heT.trans heonce⟩
  intro x hx
  rw [hmem x, hf.mem x hx]

end Sys2Proof.Machine
end


section
/-! The hardware loops: their instructions and their marks (O54, O55; spec/47_loop.md, spec/70_reset_and_hazards.md R650 to R659). -/

namespace Sys2Proof.Machine

/-! ### The updates of a loop -/

/-- A change of SR after one of registers. -/
theorem Plain.then_sr {ds : List Dest} {b : Word} {s t u : State} (h : Plain ds 0#32 s t) (h' : Plain [] b t u) : Plain ds b s u := by
  have hall := h.trans h'
  rwa [List.append_nil, BitVec.zero_or] at hall

/-- A change of flow after a plain change. -/
theorem Plain.jump {ds : List Dest} {b : Word} {s t : State} (h : Plain ds b s t) (g : Word) :
    Flows (g &&& 0xFFFFFFFE#32) s.delay ds b 0#32 s (jumpTo t g) ∧ SameRas s (jumpTo t g) ∧ SameMem s (jumpTo t g) := by
  obtain ⟨⟨hd, hr, hn, hm, hmctl, hnsp, hesp, hsa, hlc, hvba, hsr, hemr⟩, hcore, ⟨-, hdelay⟩, hras, hdebug, hmem⟩ := h
  exact ⟨⟨⟨hd, hr, hn, hm, hmctl, hnsp, hesp, hsa, hlc, hvba, hsr, hemr⟩,
    ⟨hcore.pc, hcore.proc, hcore.reqIllegal, hcore.reqDebug, hcore.window, hcore.loopJump, hcore.ignoreA, hcore.ignoreB,
      hcore.inputs, hcore.events, hcore.params, hcore.lastPc⟩, hdebug, rfl, hdelay⟩, hras, hmem⟩

/-- A delayed change of flow after a plain change. -/
theorem Plain.delay {ds : List Dest} {b : Word} {s t : State} (h : Plain ds b s t) (d : Delay) :
    Flows s.npc d ds b 0#32 s (delayed t d) ∧ SameRas s (delayed t d) ∧ SameMem s (delayed t d) := by
  obtain ⟨⟨hd, hr, hn, hm, hmctl, hnsp, hesp, hsa, hlc, hvba, hsr, hemr⟩, hcore, ⟨hnpc, -⟩, hras, hdebug, hmem⟩ := h
  exact ⟨⟨⟨hd, hr, hn, hm, hmctl, hnsp, hesp, hsa, hlc, hvba, hsr, hemr⟩,
    ⟨hcore.pc, hcore.proc, hcore.reqIllegal, hcore.reqDebug, hcore.window, hcore.loopJump, hcore.ignoreA, hcore.ignoreB,
      hcore.inputs, hcore.events, hcore.params, hcore.lastPc⟩, hdebug, hnpc, rfl⟩, hras, hmem⟩

/-- No change of flow after a plain change. -/
theorem Plain.flows {ds : List Dest} {b : Word} {s t : State} (h : Plain ds b s t) :
    Flows s.npc s.delay ds b 0#32 s t ∧ SameRas s t ∧ SameMem s t :=
  have ⟨hun, hcore, hflow, hras, hdebug, hmem⟩ := h
  ⟨⟨hun, hcore, hdebug, hflow.1, hflow.2⟩, hras, hmem⟩

theorem countDown_frame (s : State) (n : LoopIx) : Plain [.lc n] 0#32 s (countDown s n) := setLc_frame s n _

@[simp] theorem lcReg_countDown (s : State) (n : LoopIx) : lcReg (countDown s n) n = lcReg s n - 1#32 :=
  lcReg_setLc_same s n _

theorem endLoop_frame (s : State) (n : LoopIx) : Plain [.lc n] (bitLf n) s (endLoop s n) :=
  (setLc_frame s n 0#32).then_sr (setLoopFlag_frame _ n false)

@[simp] theorem lcReg_endLoop (s : State) (n : LoopIx) : lcReg (endLoop s n) n = 0#32 := lcReg_setLc_same s n _

@[simp] theorem loopFlag_endLoop (s : State) (n : LoopIx) : loopFlag (endLoop s n) n = false :=
  (loopFlag_setLoopFlag _ n false n).trans (if_pos rfl)

/-- The flag of a loop does not lie where SLF does. -/
@[simp] theorem loopFlag_setShortLoop (s : State) (b : Bool) (n : LoopIx) : loopFlag (setShortLoop s b) n = loopFlag s n :=
  (srBit_setSrBit s 31 b (27 + n.val) (by decide)).trans (if_neg (by omega))

theorem loopTarget_eq (s : State) (d : BitVec 16) : loopTarget s d = s.pc + offsetOf2 d := by rw [loopTarget, dispOffset_eq]

/-! ### DOSETUP and DOEN (R454 to R456) -/

theorem countVal_eq {s : State} {c : LoopCount} {v : Word} (h : (∃ u, c = .u6 u ∧ v = BitVec.ofNat 32 u.toNat)
    ∨ (∃ u, c = .u16 u ∧ v = BitVec.ofNat 32 u.toNat) ∨ ∃ x, c = .reg x ∧ v = drLong s x) : countVal s c = v := by
  obtain ⟨u, rfl, rfl⟩ | ⟨u, rfl, rfl⟩ | ⟨x, rfl, rfl⟩ := h
  · exact (BitVec.ofNat_toNat 32 u).symm
  · exact (BitVec.ofNat_toNat 32 u).symm
  · rfl

/-- A loop is set up with its count and enabled. -/
theorem enableLoop_spec (s : State) (l : LoopIx) (v : Word) :
    Plain [.lc l] (bitLf l) s (setLoopFlag (setLc s l v) l true) ∧ lcReg (setLoopFlag (setLc s l v) l true) l = v
      ∧ loopFlag (setLoopFlag (setLc s l v) l true) l = true :=
  ⟨(setLc_frame s l v).then_sr (setLoopFlag_frame _ l true), lcReg_setLc_same s l v,
    (loopFlag_setLoopFlag _ l true l).trans (if_pos rfl)⟩

theorem doensh_spec (s : State) (l : LoopIx) (c : LoopCount) : Runs (.doensh l c) s fun t =>
    Plain [.lc l] (bitLf l ||| bitSlf) s t ∧ lcReg t l = countVal s c ∧ loopFlag t l = true ∧ shortLoop t = true := by
  obtain ⟨hf, hc, hl⟩ := enableLoop_spec s l (countVal s c)
  exact .of_exec rfl ⟨hf.trans (setShortLoop_frame _ true), hc, (loopFlag_setShortLoop _ _ _).trans hl, shortLoop_setShortLoop _ _⟩

/-! ### BREAK, SKIPLS, CONT and CONTD (R451 to R453, R457) -/

section
variable {s : State} {n : LoopIx} (h : ActiveLoop s n) (d : BitVec 16)
include h

theorem execBreak_active : exec (.break_ d) s = .next (jumpTo (setLoopFlag s n false) (loopTarget s d)) := by
  show execBreak d s = _
  rw [execBreak, activeLoop_eq_some h]

theorem execSkipls_active : exec (.skipls d) s = if (lcReg s n).toInt ≤ 0 then .next (jumpTo (setLoopFlag s n false) (loopTarget s d))
    else .next s := by
  show execSkipls d s = _
  rw [execSkipls, activeLoop_eq_some h]

theorem execCont_active : exec (.cont d) s = if repeats s n then .next (jumpTo (countDown s n) (saReg s n))
    else .next (jumpTo (endLoop s n) (loopTarget s d)) := by
  show execCont d s = _
  rw [execCont, activeLoop_eq_some h]

theorem execContd_active : exec (.contd d) s = if repeats s n then .next (delayed (countDown s n) (.jump (saReg s n)))
    else .next (delayed (endLoop s n) (.jump (loopTarget s d))) := by
  show execContd d s = _
  rw [execContd, activeLoop_eq_some h]

end

theorem repeats_iff (s : State) (n : LoopIx) : repeats s n = true ↔ 1 < (lcReg s n).toInt := decide_eq_true_iff

theorem not_repeats {s : State} {n : LoopIx} (h : (lcReg s n).toInt ≤ 1) : ¬ repeats s n = true := by
  rw [repeats_iff]
  omega

/-- The active loop is left: its flag is cleared (R451). -/
theorem leaveLoop_spec (s : State) (n : LoopIx) (g : Word) :
    Flows (g &&& 0xFFFFFFFE#32) s.delay [] (bitLf n) 0#32 s (jumpTo (setLoopFlag s n false) g)
      ∧ loopFlag (jumpTo (setLoopFlag s n false) g) n = false ∧ SameRas s (jumpTo (setLoopFlag s n false) g)
      ∧ SameMem s (jumpTo (setLoopFlag s n false) g) :=
  have ⟨hf, hras, hmem⟩ := (setLoopFlag_frame s n false).jump g
  ⟨hf, (loopFlag_setLoopFlag s n false n).trans (if_pos rfl), hras, hmem⟩

/-- Settles O54. -/
theorem loopInstructions : Obligations.LoopInstructions := by
  intro s
  refine ⟨fun l d => ?_, fun l c v hv => ?_, fun n d hn g a hg ha => ?_, fun d hnone => ?_⟩
  case _ => exact .of_exec rfl ⟨setSa_frame s l _, (saReg_setSa_same s l _).trans (loopTarget_eq s d)⟩
  case _ =>
    rw [← countVal_eq hv]
    exact ⟨.of_exec rfl (enableLoop_spec s l _), doensh_spec s l c⟩
  case _ =>
    subst ha
    rw [← loopTarget_eq] at hg
    subst hg
    refine ⟨.of_exec (execBreak_active hn d) (leaveLoop_spec s n _), fun hle => ?_, fun hlt => ?_, fun hrep => ⟨?_, ?_⟩,
      fun hend => ⟨?_, ?_⟩⟩
    · exact .of_exec ((execSkipls_active hn d).trans (if_pos hle)) (leaveLoop_spec s n _)
    · exact (execSkipls_active hn d).trans (if_neg (not_le.mpr hlt))
    · obtain ⟨hf, hras, hmem⟩ := (countDown_frame s n).jump (saReg s n)
      exact .of_exec ((execCont_active hn d).trans (if_pos ((repeats_iff s n).mpr hrep))) ⟨hf, lcReg_countDown s n, hras, hmem⟩
    · obtain ⟨hf, hras, hmem⟩ := (countDown_frame s n).delay (.jump (saReg s n))
      exact .of_exec ((execContd_active hn d).trans (if_pos ((repeats_iff s n).mpr hrep))) ⟨hf, lcReg_countDown s n, hras, hmem⟩
    · obtain ⟨hf, hras, hmem⟩ := (endLoop_frame s n).jump (loopTarget s d)
      exact .of_exec ((execCont_active hn d).trans (if_neg (not_repeats hend)))
        ⟨hf, lcReg_endLoop s n, loopFlag_endLoop s n, hras, hmem⟩
    · obtain ⟨hf, hras, hmem⟩ := (endLoop_frame s n).delay (.jump (loopTarget s d))
      exact .of_exec ((execContd_active hn d).trans (if_neg (not_repeats hend)))
        ⟨hf, lcReg_endLoop s n, loopFlag_endLoop s n, hras, hmem⟩
  case _ =>
    have hno := activeLoop_eq_none hnone
    refine ⟨?_, ?_, ?_, ?_⟩
    · show execBreak d s = _
      rw [execBreak, hno]
    · show execSkipls d s = _
      rw [execSkipls, hno]
    · show execCont d s = _
      rw [execCont, hno]
    · show execContd d s = _
      rw [execContd, hno]

/-! ### The marks (R652 to R654) -/

/-- The loop and the short-loop flag end together. -/
theorem endShortLoop_frame (s : State) (n : LoopIx) :
    Plain [.lc n] (bitLf n ||| bitSlf) s (setShortLoop (endLoop s n) false) :=
  (endLoop_frame s n).trans (setShortLoop_frame _ false)

/-- LPMARKA repeats the active loop. -/
theorem markEndA_repeats {s : State} {n : LoopIx} (h : repeats s n = true) :
    markEndA s n = jumpTo (countDown s n) (if s.sr.getLsbD 31 then s.pc else saReg s n) := if_pos h

/-- LPMARKA ends the active loop. -/
theorem markEndA_ends {s : State} {n : LoopIx} (h : ¬ repeats s n = true) :
    markEndA s n = setShortLoop (endLoop s n) false := if_neg h

theorem markEndA_flag {s : State} {n : LoopIx} (h : ¬ repeats s n = true) : loopFlag (markEndA s n) n = false := by
  rw [markEndA_ends h, loopFlag_setShortLoop, loopFlag_endLoop]

/-- LPMARKB repeats the active loop: the jump is pending, and marks are ignored until it happens. -/
theorem markEndB_repeats {s : State} {n : LoopIx} (h : repeats s n = true) :
    ∃ k, k = (if s.sr.getLsbD 31 then 2 else 3) ∧ markEndB s n = { countDown s n with
      loopJump := some (if s.sr.getLsbD 31 then ⟨2, s.pc⟩ else ⟨3, saReg s n⟩), ignoreA := k, ignoreB := k } := by
  have hsr : s.sr.getLsbD 31 = shortLoop s := rfl
  rw [markEndB, h, hsr]
  cases shortLoop s <;> exact ⟨_, rfl, rfl⟩

/-- LPMARKB ends a long loop. -/
theorem markEndB_endsLong {s : State} {n : LoopIx} (h : ¬ repeats s n = true) (hs : s.sr.getLsbD 31 = false) :
    markEndB s n = { endLoop s n with ignoreA := 3 } := by
  rw [markEndB, show shortLoop s = false from hs, Bool.eq_false_iff.mpr h]

/-- LPMARKB ends a short loop. -/
theorem markEndB_endsShort {s : State} {n : LoopIx} (h : ¬ repeats s n = true) (hs : s.sr.getLsbD 31 = true) :
    markEndB s n = { setShortLoop (endLoop s n) false with window := max s.window 2 } := by
  rw [markEndB, show shortLoop s = true from hs, Bool.eq_false_iff.mpr h]

/-- The registers that a plain change leaves alone do not depend on the windows. -/
theorem Plain.with_windows {ds : List Dest} {b : Word} {s t : State} (h : Plain ds b s t) (j : Option LoopJump) (i k w : Nat) :
    Untouched ds b 0#32 s { t with loopJump := j, ignoreA := i, ignoreB := k, window := w }
      ∧ SameFlow s { t with loopJump := j, ignoreA := i, ignoreB := k, window := w }
      ∧ SameRas s { t with loopJump := j, ignoreA := i, ignoreB := k, window := w }
      ∧ SameMem s { t with loopJump := j, ignoreA := i, ignoreB := k, window := w } :=
  have ⟨⟨hd, hr, hn, hm, hmctl, hnsp, hesp, hsa, hlc, hvba, hsr, hemr⟩, _, hflow, hras, _, hmem⟩ := h
  ⟨⟨hd, hr, hn, hm, hmctl, hnsp, hesp, hsa, hlc, hvba, hsr, hemr⟩, hflow, hras, hmem⟩

theorem marks_none {p j : Bool} {s : State} (ha : j = false ∨ s.ignoreA ≠ 0) (hb : p = false ∨ s.ignoreB ≠ 0) : marks p j s = s := by
  have hja : (j && s.ignoreA == 0) = false := by
    obtain rfl | h := ha
    · rfl
    · rw [beq_eq_false_iff_ne.mpr h, Bool.and_false]
  have hpb : (p && s.ignoreB == 0) = false := by
    obtain rfl | h := hb
    · rfl
    · rw [beq_eq_false_iff_ne.mpr h, Bool.and_false]
  rw [marks, hja, hpb]
  rfl

theorem marks_a {s : State} (h : s.ignoreA = 0) : marks false true s = markA s := by
  rw [marks, h]
  rfl

theorem marks_b {s : State} (h : s.ignoreB = 0) : marks true false s = markB s := by
  rw [marks, h]
  rfl

theorem markA_active {s : State} {n : LoopIx} (h : ActiveLoop s n) : markA s = markEndA s n := by
  rw [markA, activeLoop_eq_some h]

theorem markB_active {s : State} {n : LoopIx} (h : ActiveLoop s n) : markB s = markEndB s n := by
  rw [markB, activeLoop_eq_some h]

theorem markA_none {s : State} (h : ∀ n, loopFlag s n = false) : markA s = s := by
  rw [markA, activeLoop_eq_none h]

theorem markB_none {s : State} (h : ∀ n, loopFlag s n = false) : markB s = s := by
  rw [markB, activeLoop_eq_none h]

/-- Settles O55. -/
theorem loopMarks : Obligations.LoopMarks := by
  intro s
  refine ⟨fun aaa h => ?_, fun aaa h => ?_, ?_⟩
  case _ =>
    refine congrArg Host.Outcome.next (show marks false true s = s from ?_)
    by_cases h0 : s.ignoreA = 0
    · rw [marks_a h0, markA_none (h.resolve_left (not_not_intro h0))]
    · exact marks_none (.inr h0) (.inl rfl)
  case _ =>
    refine congrArg Host.Outcome.next (show marks true false s = s from ?_)
    by_cases h0 : s.ignoreB = 0
    · rw [marks_b h0, markB_none (h.resolve_left (not_not_intro h0))]
    · exact marks_none (.inl rfl) (.inr h0)
  rintro n hn E rfl K rfl
  refine ⟨fun aaa ha => ?_, fun aaa hb => ?_⟩
  case _ =>
    have hexec : exec (.lpmarka aaa) s = .next (markEndA s n) :=
      congrArg Host.Outcome.next ((marks_a ha).trans (markA_active hn))
    refine ⟨fun hrep => ?_, fun hend => ?_⟩
    · rw [markEndA_repeats ((repeats_iff s n).mpr hrep)] at hexec
      obtain ⟨hf, hras, hmem⟩ := (countDown_frame s n).jump (if s.sr.getLsbD 31 then s.pc else saReg s n)
      exact .of_exec hexec ⟨⟨lcReg_countDown s n, hras, hmem⟩, hf⟩
    · rw [markEndA_ends (not_repeats hend)] at hexec
      obtain ⟨hf, hras, hmem⟩ := (endShortLoop_frame s n).flows
      exact .of_exec hexec ⟨⟨lcReg_endLoop s n, (loopFlag_setShortLoop _ _ n).trans (loopFlag_endLoop s n), hras, hmem⟩,
        shortLoop_setShortLoop _ _, hf⟩
  case _ =>
    have hexec : exec (.lpmarkb aaa) s = .next (markEndB s n) :=
      congrArg Host.Outcome.next ((marks_b hb).trans (markB_active hn))
    refine ⟨fun hrep => ?_, fun hend => ?_⟩
    · obtain ⟨k, hk, hmark⟩ := markEndB_repeats ((repeats_iff s n).mpr hrep)
      rw [hmark] at hexec
      obtain ⟨hun, hflow, hras, hmem⟩ := (countDown_frame s n).with_windows
        (some (if s.sr.getLsbD 31 then ⟨2, s.pc⟩ else ⟨3, saReg s n⟩)) k k s.window
      exact .of_exec hexec ⟨⟨lcReg_countDown s n, hras, hmem⟩, hun, hflow, rfl, hk, rfl, rfl⟩
    · cases hs : s.sr.getLsbD 31
      case false =>
        rw [markEndB_endsLong (not_repeats hend) hs] at hexec
        obtain ⟨hun, hflow, hras, hmem⟩ := (endLoop_frame s n).with_windows s.loopJump 3 s.ignoreB s.window
        exact .of_exec hexec ⟨⟨lcReg_endLoop s n, loopFlag_endLoop s n, hras, hmem⟩, rfl, hflow, hun, rfl, hb, rfl, nofun⟩
      case true =>
        rw [markEndB_endsShort (not_repeats hend) hs] at hexec
        obtain ⟨hun, hflow, hras, hmem⟩ := (endShortLoop_frame s n).with_windows s.loopJump s.ignoreA s.ignoreB (max s.window 2)
        exact .of_exec hexec ⟨⟨lcReg_endLoop s n, (loopFlag_setShortLoop _ _ n).trans (loopFlag_endLoop s n), hras, hmem⟩, rfl,
          hflow, hun, rfl, hb, rfl, fun _ => shortLoop_setShortLoop _ _⟩

end Sys2Proof.Machine
end


section
/-! The program-control and the prefix instructions (O56, O57; spec/48_program_control_prefix.md). -/

namespace Sys2Proof.Machine

/-! ### Events -/

/-- A bit of EMR that an event sets (R505, R511). -/
theorem setEmrBit_other (v : Word) (k : Fin 2) (m : Word) (hm : m.getLsbD k.val = true) :
    withBit v k.val true &&& ~~~m = v &&& ~~~m := withBit_outside v k.val true m (by omega) hm

/-- A change of the EOnCE and of the request of the debug exception is no change of a register, of memory or of the flow. -/
theorem DebugOnly.frame {s t : State} (h : DebugOnly s t) :
    Untouched [] 0#32 0#32 s t ∧ SameFlow s t ∧ SameRas s t ∧ SameMem s t ∧ t.pc = s.pc ∧ t.proc = s.proc := by
  obtain ⟨e, q, h⟩ := h
  rw [h]
  exact ⟨⟨fun _ _ => ⟨rfl, rfl⟩, fun _ _ => rfl, fun _ _ => rfl, fun _ _ => rfl, fun _ => rfl, fun _ => rfl, fun _ => rfl,
    fun _ _ => rfl, fun _ _ => rfl, fun _ => rfl, rfl, rfl⟩, ⟨rfl, rfl⟩, ⟨rfl, rfl, rfl, rfl⟩, fun _ => rfl, rfl, rfl⟩

/-- An illegal-instruction event sets ILIN and its request (R505). -/
theorem illegalInstruction_spec (s : State) : Untouched [] 0#32 1#32 s (illegalInstruction s)
    ∧ (illegalInstruction s).emr.getLsbD 0 = true ∧ (illegalInstruction s).reqIllegal = true
    ∧ SameFlow s (illegalInstruction s) ∧ SameRas s (illegalInstruction s) ∧ SameMem s (illegalInstruction s)
    ∧ (illegalInstruction s).pc = s.pc ∧ (illegalInstruction s).proc = s.proc :=
  ⟨⟨fun _ _ => ⟨rfl, rfl⟩, fun _ _ => rfl, fun _ _ => rfl, fun _ _ => rfl, fun _ => rfl, fun _ => rfl, fun _ => rfl,
    fun _ _ => rfl, fun _ _ => rfl, fun _ => rfl, rfl, setEmrBit_other s.emr 0 1#32 (by decide)⟩,
    (getLsbD_withBit s.emr 0 true 0 (by decide)).trans (if_pos rfl), rfl, ⟨rfl, rfl⟩, ⟨rfl, rfl, rfl, rfl⟩, fun _ => rfl, rfl, rfl⟩

/-! ### DEBUG and MARK -/

/-- DEBUG with IME clear enters debug state. -/
theorem debugRequest_state {s : State} (h : s.eonce.emcr.getLsbD 16 = false) :
    debugRequest s = debugState { s with eonce := { s.eonce with esr := s.eonce.esr ||| 0x8000#32 } } := by
  rw [debugRequest, h]
  rfl

theorem debugRequest_exception {s : State} (h : s.eonce.emcr.getLsbD 16 = true) :
    debugRequest s = debugException s 0x8000#32 := by
  rw [debugRequest, h]
  rfl

/-- Entering debug state is a change of the processing state beside the EOnCE's. -/
theorem debugRequest_only (s : State) : ∃ p, DebugOnly { s with proc := p } (debugRequest s) := by
  cases h : s.eonce.emcr.getLsbD 16
  · rw [debugRequest_state h]
    exact ⟨.debug, (DebugOnly.eonce _ _).trans (mirrorPins_only _)⟩
  · rw [debugRequest_exception h]
    exact ⟨s.proc, debugException_only s _⟩

/-- The value put at a place of the trace buffer stands there. -/
theorem getElem?_tbPut (tb : List Word) (i : Nat) (v : Word) : (tbPut tb i v)[i]? = some v := by
  induction i generalizing tb with
  | zero => cases tb <;> rfl
  | succ i ih =>
    cases tb with
    | nil => exact ih []
    | cons x rest => exact ih rest

/-- Counting an event leaves the trace buffer alone. -/
theorem countIf_tb (on : Eonce) (k : Nat) (e : Eonce) : (countIf on k e).tb = e.tb ∧ (countIf on k e).tbWr = e.tbWr := by
  unfold countIf countOne
  split_ifs <;> exact ⟨rfl, rfl⟩

/-- A full trace buffer's request of debug state leaves it alone. -/
theorem debugStateRequest_tb (c : Prop) [Decidable c] (s : State) (r : Word) :
    (if c then debugStateRequest s r else s).eonce.tb = s.eonce.tb
      ∧ (if c then debugStateRequest s r else s).eonce.tbWr = s.eonce.tbWr := by
  unfold debugStateRequest debugException
  split_ifs <;> exact ⟨rfl, rfl⟩

/-- A traced value goes to the place of the pointer, which moves to the next, or to the first after the last (R740). -/
theorem tracePush_tb {s : State} (h : s.eonce.tbWr.toNat < s.params.tbSize) (v : Word) :
    (tracePush s v).eonce.tb = tbPut s.eonce.tb s.eonce.tbWr.toNat v
      ∧ (tracePush s v).eonce.tbWr = if s.eonce.tbWr.toNat + 1 < s.params.tbSize then s.eonce.tbWr + 1 else 0#16 := by
  rw [tracePush, if_pos h]
  exact ⟨(debugStateRequest_tb ..).1.trans (countIf_tb ..).1, (debugStateRequest_tb ..).2.trans (countIf_tb ..).2⟩

theorem traceNext_toNat (w : BitVec 16) (n : Nat) (hn : n ≤ 2048) :
    (if w.toNat + 1 < n then w + 1 else 0#16).toNat = if w.toNat + 1 < n then w.toNat + 1 else 0 := by
  split
  case isTrue h => rw [BitVec.toNat_add_of_lt (by simp; omega)]; rfl
  case isFalse => rfl

theorem mark_spec {s : State} (ht : tracing s.eonce 3 = true) (hw : s.eonce.tbWr.toNat < s.params.tbSize)
    (hn : s.params.tbSize ≤ 2048) : Runs .mark s fun t => Untouched [] 0#32 0#32 s t ∧ SameFlow s t ∧ SameMem s t
      ∧ t.eonce.tb[s.eonce.tbWr.toNat]? = some s.pc
      ∧ t.eonce.tbWr.toNat = (if s.eonce.tbWr.toNat + 1 < s.params.tbSize then s.eonce.tbWr.toNat + 1 else 0) := by
  obtain ⟨hun, hflow, -, hmem, -⟩ := (tracePush_only s s.pc).frame
  obtain ⟨htb, hwr⟩ := tracePush_tb hw s.pc
  refine .of_exec (t := tracePush s s.pc) (congrArg Host.Outcome.next (if_pos ht)) ⟨hun, hflow, hmem, ?_, ?_⟩
  · rw [htb, getElem?_tbPut]
  · rw [hwr, traceNext_toNat _ _ hn]

theorem debug_spec (s : State) : Runs .debug s fun t =>
    Untouched [] 0#32 0#32 s t ∧ SameFlow s t ∧ SameRas s t ∧ SameMem s t ∧ t.pc = s.pc
      ∧ (s.eonce.emcr.getLsbD 16 = false → t.proc = .debug ∧ t.reqDebug = s.reqDebug
        ∧ t.eonce.esr = s.eonce.esr ||| 0x8000#32)
      ∧ (s.eonce.emcr.getLsbD 16 = true → t.proc = s.proc ∧
        (s.eonce.emcr.getLsbD 25 = false → t.reqDebug = true ∧ t.eonce.esr = s.eonce.esr ||| 0x8000#32
          ∧ t.eonce.emcr = s.eonce.emcr ||| 0x8000#32)
        ∧ (s.eonce.emcr.getLsbD 25 = true → t.reqDebug = s.reqDebug ∧ t.eonce.picint = true)) := by
  obtain ⟨p, hp⟩ := debugRequest_only s
  obtain ⟨⟨hd, hr, hn, hm, hmctl, hnsp, hesp, hsa, hlc, hvba, hsr, hemr⟩, hflow, hras, hmem, hpc, -⟩ := hp.frame
  refine .of_exec rfl ⟨⟨hd, hr, hn, hm, hmctl, hnsp, hesp, hsa, hlc, hvba, hsr, hemr⟩, hflow, hras, hmem, hpc, fun h => ?_,
    fun h => ?_⟩
  · rw [debugRequest_state h]
    exact ⟨rfl, rfl, rfl⟩
  · rw [debugRequest_exception h]
    refine ⟨(debugException_only s _).frame.2.2.2.2.2, fun hpic => ?_, fun hpic => ?_⟩
    · rw [debugException, hpic]
      exact ⟨rfl, rfl, rfl⟩
    · rw [debugException, hpic]
      exact ⟨rfl, rfl⟩

/-- Settles O56. -/
theorem programControl : Obligations.ProgramControl := by
  intro s
  have hdi (b : Bool) : Plain [] 0x00080000#32 s (setSrBit s 19 b) ∧ disInt (setSrBit s 19 b) = b :=
    ⟨setSrBit_frame s 19 b _ (by decide) (by decide), (srBit_setSrBit s 19 b 19 (by decide)).trans (if_pos rfl)⟩
  refine ⟨.of_exec rfl (hdi true), .of_exec rfl (hdi false), rfl, rfl, rfl, fun c => .of_exec rfl (illegalInstruction_spec s),
    debug_spec s, fun h => ?_, fun h => ?_, fun h => ?_, fun ht hw hn => mark_spec ht hw hn⟩
  · exact congrArg Host.Outcome.next (if_neg (by rw [h]; exact Bool.false_ne_true))
  · refine .of_exec (t := { s with eonce := { s.eonce with evs := s.eonce.evs ||| 0x400#18 } }) ?_ ⟨rfl, rfl⟩
    exact congrArg Host.Outcome.next (if_pos h)
  · exact congrArg Host.Outcome.next (if_neg (by rw [tracing, h]; exact Bool.false_ne_true))

/-! ### Prefixes (R478 to R482, R652) -/

theorem cccOk_of_ne {c : BitVec 3} (h4 : c ≠ 4#3) (h5 : c ≠ 5#3) : cccOk c = true := by
  rw [cccOk, bne_iff_ne.mpr h4, bne_iff_ne.mpr h5]
  rfl

/-- A one-word prefix with an assigned condition code is its marks under it. -/
theorem execPrefix1_ok {c : BitVec 3} (hc : cccOk c = true) (aaa : BitVec 3) (p j : Bool) (s : State) :
    exec (.prefix1 aaa p j c) s = .next (marks p j { s with ifc := c }) :=
  congrArg Host.Outcome.next (if_pos hc)

theorem execPrefix2_ok {aaa c : BitVec 3} (hc : cccOk c = true) (h0 : aaa ≠ 0#3) (h1 : aaa ≠ 1#3) (hb : BitVec 16) (p j : Bool)
    (s : State) : exec (.prefix2 aaa hb p j c) s = .next (marks p j { s with ifc := c }) := by
  have ha : 2 ≤ aaa.toNat := by bv_omega
  exact congrArg Host.Outcome.next (if_pos (by rw [hc, decide_eq_true ha]; rfl))

/-- The marks of a set neither change its condition nor memory. -/
theorem marks_keeps (p j : Bool) (s : State) : (marks p j s).ifc = s.ifc ∧ SameMem s (marks p j s) := by
  have hA (u : State) (n : LoopIx) : (markEndA u n).ifc = u.ifc ∧ SameMem u (markEndA u n) := by
    unfold markEndA
    split_ifs <;> exact ⟨rfl, fun _ => rfl⟩
  have hB (u : State) (n : LoopIx) : (markEndB u n).ifc = u.ifc ∧ SameMem u (markEndB u n) := by
    unfold markEndB
    split <;> exact ⟨rfl, fun _ => rfl⟩
  have hmA (u : State) : (markA u).ifc = u.ifc ∧ SameMem u (markA u) := by
    unfold markA
    split
    · exact ⟨rfl, .refl u⟩
    · exact hA u _
  have hmB (u : State) : (markB u).ifc = u.ifc ∧ SameMem u (markB u) := by
    unfold markB
    split
    · exact ⟨rfl, .refl u⟩
    · exact hB u _
  unfold marks
  dsimp only
  split_ifs
  · exact ⟨(hmB _).1.trans (hmA s).1, (hmA s).2.trans (hmB _).2⟩
  · exact hmA s
  · exact hmB s
  · exact ⟨rfl, .refl s⟩

theorem markEndA_ignoreB (s : State) (n : LoopIx) : (markEndA s n).ignoreB = s.ignoreB := by
  unfold markEndA
  split_ifs <;> rfl

/-- Both marks where LPMARKA repeats its loop: it alone acts. -/
theorem marks_both_repeats {s : State} {n : LoopIx} (hn : ActiveLoop s n) (ha : s.ignoreA = 0) (h : repeats s n = true) :
    marks true true s = marks false true s := by
  have hr : markARepeats s = true := by
    rw [markARepeats, activeLoop_eq_some hn]
    exact h
  rw [marks_a ha, marks, ha, hr]
  simp

/-- Both marks where LPMARKA ends its loop: LPMARKB acts on the state after it. -/
theorem marks_both_ends {s : State} {n : LoopIx} (hn : ActiveLoop s n) (ha : s.ignoreA = 0) (h : ¬ repeats s n = true) :
    marks true true s = marks true false (marks false true s) := by
  have hr : markARepeats s = false := by
    rw [markARepeats, activeLoop_eq_some hn]
    exact Bool.eq_false_iff.mpr h
  have hb : (markA s).ignoreB = s.ignoreB := by rw [markA_active hn, markEndA_ignoreB]
  rw [marks_a ha]
  simp [marks, ha, hr, hb]

/-- An ignored LPMARKA leaves LPMARKB to act. -/
theorem marks_both_ignored {s : State} (ha : s.ignoreA ≠ 0) : marks true true s = marks true false s := by
  simp [marks, ha]

theorem marks_no_loop {s : State} (h : ∀ n, loopFlag s n = false) (p j : Bool) : marks p j s = s := by
  unfold marks
  simp only [markA_none h, markB_none h, ite_self]

/-- What a prefix with an assigned code and each combination of marks does, where it runs the marks under its condition. -/
theorem prefix_marks {i : Bool → Bool → Instr} {s : State} {c : BitVec 3} (aaa : BitVec 3)
    (h : ∀ p j, exec (i p j) s = .next (marks p j { s with ifc := c })) :
    exec (i false false) s = .next { s with ifc := c }
      ∧ exec (i false true) s = exec (.lpmarka aaa) { s with ifc := c }
      ∧ exec (i true false) s = exec (.lpmarkb aaa) { s with ifc := c }
      ∧ Runs (i true true) s fun t => t.ifc = c ∧ SameMem s t :=
  ⟨(h _ _).trans (congrArg Host.Outcome.next (marks_none (.inl rfl) (.inl rfl))), h _ _, h _ _,
    .of_exec (h _ _) (marks_keeps true true { s with ifc := c })⟩

/-- What a prefix with an assigned code and both marks does. -/
theorem prefix_both {i : Instr} {s b : State} (aaa : BitVec 3) (hi : exec i s = .next (marks true true b)) :
    (∀ n, ActiveLoop b n → b.ignoreA = 0 →
        (1 < (lcReg b n).toInt → exec i s = exec (.lpmarka aaa) b)
        ∧ ((lcReg b n).toInt ≤ 1 → ∃ t, exec (.lpmarka aaa) b = .next t ∧ loopFlag t n = false ∧ exec i s = exec (.lpmarkb aaa) t))
      ∧ (b.ignoreA ≠ 0 → exec i s = exec (.lpmarkb aaa) b) ∧ ((∀ n, loopFlag b n = false) → exec i s = .next b) := by
  refine ⟨fun n hn ha => ⟨fun hrep => ?_, fun hend => ?_⟩, fun ha => ?_, fun hnone => ?_⟩
  · exact hi.trans (congrArg Host.Outcome.next (marks_both_repeats hn ha ((repeats_iff b n).mpr hrep)))
  · refine ⟨marks false true b, rfl, ?_, hi.trans (congrArg Host.Outcome.next (marks_both_ends hn ha (not_repeats hend)))⟩
    rw [marks_a ha, markA_active hn, markEndA_flag (not_repeats hend)]
  · exact hi.trans (congrArg Host.Outcome.next (marks_both_ignored ha))
  · exact hi.trans (congrArg Host.Outcome.next (marks_no_loop hnone true true))

/-- A prefix word with a reserved field is an illegal instruction (R179). -/
theorem prefix_illegal {i : Instr} {s : State} (hi : exec i s = .next (illegalInstruction s)) :
    Runs i s fun t => Untouched [] 0#32 1#32 s t ∧ t.emr.getLsbD 0 = true ∧ t.reqIllegal = true ∧ SameMem s t := by
  obtain ⟨hun, hilin, hreq, -, -, hmem, -⟩ := illegalInstruction_spec s
  exact .of_exec hi ⟨hun, hilin, hreq, hmem⟩

/-- Settles O57. -/
theorem prefixInstructions : Obligations.PrefixInstructions := by
  intro s aaa
  refine ⟨rfl, rfl, rfl, fun c h4 h5 => ?_, fun c hb h4 h5 i hi b hb' => ?_, fun c p j hb i hi => prefix_illegal ?_⟩
  case _ =>
    have hc := cccOk_of_ne h4 h5
    obtain ⟨h00, h01, h10, h11⟩ := prefix_marks (i := fun p j => .prefix1 aaa p j c) aaa (execPrefix1_ok hc aaa · · s)
    exact ⟨h00, h01, h10, h11, fun h0 h1 hb => prefix_marks (i := fun p j => .prefix2 aaa hb p j c) aaa (execPrefix2_ok hc h0 h1 hb · · s)⟩
  case _ =>
    have hc := cccOk_of_ne h4 h5
    subst hb'
    have hexec : exec i s = .next (marks true true { s with ifc := c }) := by
      obtain rfl | ⟨rfl, h0, h1⟩ := hi
      · exact execPrefix1_ok hc aaa true true s
      · exact execPrefix2_ok hc h0 h1 hb true true s
    exact prefix_both aaa hexec
  case _ =>
    have hbad : c = 4#3 ∨ c = 5#3 → ¬ cccOk c = true := by rintro (rfl | rfl) <;> decide
    obtain ⟨rfl, hc⟩ | ⟨rfl, h⟩ := hi
    · exact congrArg Host.Outcome.next (if_neg (hbad hc))
    · refine congrArg Host.Outcome.next (if_neg ?_)
      rw [Bool.and_eq_true, decide_eq_true_iff]
      rintro ⟨hok, hlen⟩
      obtain hc | hc | rfl | rfl := h
      · exact hbad (.inl hc) hok
      · exact hbad (.inr hc) hok
      · exact absurd hlen (by decide)
      · exact absurd hlen (by decide)

end Sys2Proof.Machine
end


section
/-! The end of an execution set (O49; spec/46_cof.md R421 to R445, spec/70_reset_and_hazards.md R652). -/

namespace Sys2Proof.Machine

/-! ### The state after what was due in a delay slot -/

/-- The state after the delayed change of flow at the end of a set. -/
def ended (b s : State) : State := endDelay (looseEnd b.delay s).1 (looseEnd b.delay s).2

/-- The end of a set reads its registers, memory, SR and EMR from `ended`, and PC from there too. -/
theorem finish_ended (b s : State) : ∃ e q, finish b s = { ended b s with
    eonce := e
    reqDebug := q
    npc := endNpc (ended b s).loopJump (ended b s).npc
    pc := endNpc (ended b s).loopJump (ended b s).npc &&& pcMask
    loopJump := endJump (ended b s).loopJump
    window := (ended b s).window - 1
    ignoreA := (ended b s).ignoreA - 1
    ignoreB := (ended b s).ignoreB - 1
    fresh := (ended b s).fresh + 8
    lastPc := (ended b s).pc
    flowed := false
    acc := []
    emrEv := 0#32
    ifc := 0#3 } := by
  obtain ⟨e, q, h⟩ := finish_eq b s
  exact ⟨e, q, h _ rfl⟩

/-- Without two writers of PC the end is as it was due. -/
theorem ended_clean {b s : State} (h : pcClash b.delay s = false) : ended b s = endDelay b.delay s := by
  rw [ended, looseEnd_clean h]

theorem pcClash_stay {d : Delay} {s : State} (hd : d.jumps = false) (h : loopDue s = false) : pcClash d s = false := by
  rw [pcClash, hd, h]
  simp

theorem pcClash_jump {d : Delay} {s : State} (hf : s.flowed = false) (h : loopDue s = false) : pcClash d s = false := by
  rw [pcClash, hf, h]
  simp

theorem loopDue_none {s : State} (h : s.loopJump = none) : loopDue s = false := by rw [loopDue, h]

/-- The end of a delay slot starts from the state with another next address and another pending loop jump at most. -/
theorem ended_from (b s : State) : ∃ x n j, ended b s = endDelay x { s with npc := n, loopJump := j }
    ∧ (x = b.delay ∨ ∃ a, x = b.delay.withTarget a) ∧ endJump j = endJump s.loopJump := by
  obtain ⟨x, n, j, h, hx, hj⟩ := looseEnd_only b.delay s
  exact ⟨x, n, j, by rw [ended, h], hx, hj⟩

/-- No general register changes at the end of a set. -/
theorem endDelay_regs (d : Delay) (s : State) (n : DReg) (k : RReg) :
    dreg (endDelay d s) n = dreg s n ∧ ltag (endDelay d s) n = ltag s n ∧ rreg (endDelay d s) k = rreg s k := by
  obtain ⟨-, h⟩ | ⟨t, -, h⟩ | ⟨t, -, h⟩ | ⟨t, f, -, m, c, h, -⟩ | ⟨t, v, f, -, m, c, w, h, -⟩ := endDelay_cases d s
  case inr.inr.inl =>
    obtain ⟨m, e, a, p, q, hc⟩ := callTo_only s s.npc t
    rw [h, hc]
    exact ⟨rfl, rfl, rfl⟩
  all_goals
    rw [h]
    exact ⟨rfl, rfl, rfl⟩

theorem finish_regs (b s : State) (n : DReg) : dreg (finish b s) n = dreg s n ∧ ltag (finish b s) n = ltag s n
    ∧ rreg (finish b s) n = rreg s n := by
  obtain ⟨e, q, h⟩ := finish_ended b s
  obtain ⟨x, a, j, hx, -, -⟩ := ended_from b s
  rw [h, hx]
  exact endDelay_regs x { s with npc := a, loopJump := j } n n

theorem pcMask_twice (v : Word) : v &&& pcMask &&& pcMask = v &&& pcMask := by rw [BitVec.and_assoc, BitVec.and_self]

/-- PC after a set with no loop jump pending, where `ended` is as it was due. -/
theorem finish_pc {b s : State} (h : (ended b s).loopJump = none) : (finish b s).pc = (ended b s).npc &&& pcMask := by
  obtain ⟨e, q, hf⟩ := finish_ended b s
  rw [hf]
  show endNpc (ended b s).loopJump (ended b s).npc &&& pcMask = _
  rw [h]
  rfl

/-- What the end of a set leaves alone beside `ended`. -/
structure SameEnd (u t : State) : Prop where
  sr : t.sr = u.sr
  emr : t.emr = u.emr
  nsp : t.nsp = u.nsp
  esp : t.esp = u.esp
  ras : t.ras = u.ras
  rasValid : t.rasValid = u.rasValid
  mem : t.mem = u.mem

theorem finish_sameEnd (b s : State) : SameEnd (ended b s) (finish b s) := by
  obtain ⟨e, q, h⟩ := finish_ended b s
  rw [h]
  exact ⟨rfl, rfl, rfl, rfl, rfl, rfl, rfl⟩

theorem SameEnd.trans {s t u : State} (h : SameEnd s t) (h' : SameEnd t u) : SameEnd s u :=
  ⟨h'.sr.trans h.sr, h'.emr.trans h.emr, h'.nsp.trans h.nsp, h'.esp.trans h.esp, h'.ras.trans h.ras,
    h'.rasValid.trans h.rasValid, h'.mem.trans h.mem⟩

theorem SameEnd.sameMem {u t : State} (h : SameEnd u t) : SameMem u t := SameMem.of_mem_eq h.mem

theorem SameEnd.mem32 {u t : State} (h : SameEnd u t) (a : Word) : mem32 t a = mem32 u a :=
  mem32_congr (by rw [bigEndian, h.emr]; rfl) a fun _ _ => h.sameMem _

theorem SameEnd.spOf {u t : State} (h : SameEnd u t) : spOf t = spOf u := SrLegal.sp_congr h.sr h.nsp h.esp

/-! ### Each kind of delay slot, with no loop jump pending -/

theorem finish_stay {b s : State} (hj : s.loopJump = none) (hd : b.delay = .none ∨ b.delay = .fallthrough) :
    (finish b s).pc = s.npc &&& pcMask ∧ SameEnd s (finish b s) := by
  have hjumps : b.delay.jumps = false := by obtain h | h := hd <;> rw [h] <;> rfl
  have he : ended b s = s := by
    rw [ended_clean (pcClash_stay hjumps (loopDue_none hj))]
    obtain h | h := hd <;> rw [h] <;> rfl
  have hend := finish_sameEnd b s
  have hpc := finish_pc (b := b) (s := s)
  rw [he] at hend hpc
  exact ⟨hpc hj, hend⟩

/-- The state that a delay slot ends from: only the next address and the pending loop jump are not those of `s`. -/
theorem ended_goTo (b s : State) {g : Word} (hd : b.delay = .jump g) :
    ∃ n j, ended b s = { s with npc := n, loopJump := j } := by
  obtain ⟨x, n, j, he, hx, -⟩ := ended_from b s
  rw [hd] at hx
  obtain rfl | ⟨a, rfl⟩ := hx
  · exact ⟨_, _, he⟩
  · exact ⟨_, _, he⟩

theorem finish_jump {b s : State} {g : Word} (hj : s.loopJump = none) (hd : b.delay = .jump g) :
    (s.flowed = false → (finish b s).pc = g &&& pcMask) ∧ SameEnd s (finish b s) := by
  obtain ⟨n, j, he⟩ := ended_goTo b s hd
  have hend := finish_sameEnd b s
  refine ⟨fun hf => ?_, ?_⟩
  · have hclean := ended_clean (pcClash_jump (d := b.delay) hf (loopDue_none hj))
    rw [hd] at hclean
    rw [finish_pc (by rw [hclean]; exact hj), hclean]
    exact pcMask_twice g
  · rw [he] at hend
    exact ⟨hend.sr, hend.emr, hend.nsp, hend.esp, hend.ras, hend.rasValid, hend.mem⟩

theorem finish_call {b s : State} {g : Word} (hj : s.loopJump = none) (hd : b.delay = .call g) (ha : StacksAligned s)
    (hm : s.mem.wf = true) :
    (s.flowed = false → (finish b s).pc = g &&& pcMask ∧ (finish b s).ras = s.npc) ∧ (finish b s).sr = s.sr
      ∧ spOf (finish b s) = spOf s + 8 ∧ (finish b s).rasValid = true ∧ SameMemBut (spOf s) 8 s (finish b s)
      ∧ (OutsideEonce s (spOf s) 8 → (s.flowed = false → mem32 (finish b s) (spOf s) = s.npc)
          ∧ mem32 (finish b s) (spOf s + 4) = s.sr) := by
  obtain ⟨x, n, j, he, hx, -⟩ := ended_from b s
  have hx' : ∃ a, x = .call a := by
    rw [hd] at hx
    obtain rfl | ⟨a, rfl⟩ := hx
    · exact ⟨g, rfl⟩
    · exact ⟨a, rfl⟩
  obtain ⟨a, rfl⟩ := hx'
  have hend := finish_sameEnd b s
  obtain ⟨regs, -, -, -, hsp, ⟨-, hras⟩, -, -, -, hframe, hmem⟩ :=
    callTo_calls (s := { s with npc := n, loopJump := j }) ha hm n a
  have hcall : ended b s = callTo { s with npc := n, loopJump := j } n a := he
  refine ⟨fun hf => ?_, ?_, ?_, ?_, fun y hy => ?_, fun ho => ⟨fun hf => ?_, ?_⟩⟩
  case _ =>
    have hclean := ended_clean (pcClash_jump (d := b.delay) hf (loopDue_none hj))
    rw [hd] at hclean
    obtain ⟨-, core, hnpc, -, -, ⟨hr, -⟩, -⟩ := callTo_calls ha hm s.npc g
    have hclean : ended b s = callTo s s.npc g := hclean
    refine ⟨?_, ?_⟩
    · rw [finish_pc (by rw [hclean, core.loopJump, hj]), hclean, hnpc]
      exact pcMask_twice g
    · rw [hend.ras, hclean, hr]
  case _ => rw [hend.sr, hcall, regs.sr_eq]
  case _ => rw [hend.spOf, hcall]; exact hsp
  case _ => rw [hend.rasValid, hcall]; exact hras
  case _ =>
    rw [hend.sameMem y, hcall]
    exact hmem y hy
  case _ =>
    have hclean := ended_clean (pcClash_jump (d := b.delay) hf (loopDue_none hj))
    rw [hd] at hclean
    rw [hend.mem32, hclean]
    exact ((callTo_calls ha hm s.npc g).frame ho).1
  case _ =>
    rw [hend.mem32, hcall]
    exact (hframe ho).2

/-- Bytes of a frame that were made free are bytes of the frame. -/
theorem freeFrame_outside {s u t : State} (hm : s.mem.wf = true) (hs : u.mem = s.mem) (f : Word) {m : Memory}
    (h : m = u.mem ∨ m = freeBytes u u.mem 400 (frameWrites f u)) (ht : t.mem = m) : SameMemBut f 8 s t := by
  intro y hy
  have hbyte : m.byte y.toNat = u.mem.byte y.toNat := by
    obtain rfl | rfl := h
    · rfl
    · refine freeBytes_byte u _ (hs ▸ hm) _ fun hmem => ?_
      have hlt := frameWrites_mem hmem
      exact hy (y - f).toNat hlt (by bv_omega)
  rw [byteAt, ht, hbyte, hs]
  rfl

/-- The end of the delay slot of RTSD and RTSTKD. -/
theorem endDelay_sub (g f : Word) (s : State) : ∃ m c, endDelay (.sub g f) s = { s with mem := m, npc := c &&& pcMask }
    ∧ (m = s.mem ∨ m = freeBytes s s.mem 400 (frameWrites f s)) ∧ (frameWrites f s = [] → m = s.mem ∧ c = g) := by
  obtain ⟨h, -⟩ | ⟨_, h, -⟩ | ⟨_, h, -⟩ | ⟨_, _, h, m, c, he, hm, hk⟩ | ⟨_, _, _, h, -⟩ := endDelay_cases (.sub g f) s
  case inr.inr.inr.inl =>
    cases h
    exact ⟨m, c, he, hm, hk⟩
  case inl => obtain h | h := h <;> cases h
  all_goals cases h

/-- The end of the delay slot of RTED. -/
theorem endDelay_ret (g v f : Word) (s : State) : ∃ m c w, endDelay (.ret g v f) s = { s with
        mem := m, npc := c &&& pcMask, sr := w &&& srMask, emr := withBit s.emr 3 false }
    ∧ (m = s.mem ∨ m = freeBytes s s.mem 400 (frameWrites f s)) ∧ (frameWrites f s = [] → m = s.mem ∧ c = g ∧ w = v) := by
  obtain ⟨h, -⟩ | ⟨_, h, -⟩ | ⟨_, h, -⟩ | ⟨_, _, h, -⟩ | ⟨_, _, _, h, m, c, w, he, hm, hk⟩ := endDelay_cases (.ret g v f) s
  case inr.inr.inr.inr =>
    cases h
    exact ⟨m, c, w, he, hm, hk⟩
  case inl => obtain h | h := h <;> cases h
  all_goals cases h

theorem finish_sub {b s : State} {g f : Word} (hj : s.loopJump = none) (hd : b.delay = .sub g f) (hm : s.mem.wf = true) :
    (finish b s).sr = s.sr ∧ (finish b s).emr = s.emr ∧ (finish b s).nsp = s.nsp ∧ (finish b s).esp = s.esp
      ∧ SameMemBut f 8 s (finish b s)
      ∧ (FrameKept f s → (s.flowed = false → (finish b s).pc = g &&& pcMask) ∧ SameMem s (finish b s)) := by
  obtain ⟨x, n, j, he, hx, -⟩ := ended_from b s
  have hx' : ∃ a, x = .sub a f := by
    rw [hd] at hx
    obtain rfl | ⟨a, rfl⟩ := hx
    · exact ⟨g, rfl⟩
    · exact ⟨a, rfl⟩
  obtain ⟨a, rfl⟩ := hx'
  have hend := finish_sameEnd b s
  obtain ⟨m, c, hsub, hfree, hkept⟩ := endDelay_sub a f { s with npc := n, loopJump := j }
  rw [hsub] at he
  rw [he] at hend
  refine ⟨hend.sr, hend.emr, hend.nsp, hend.esp,
    freeFrame_outside (u := { s with npc := n, loopJump := j }) hm rfl f hfree hend.mem, fun hk => ⟨fun hf => ?_, ?_⟩⟩
  · have hclean := ended_clean (pcClash_jump (d := b.delay) hf (loopDue_none hj))
    obtain ⟨m', c', hsub', -, hkept'⟩ := endDelay_sub g f s
    obtain ⟨-, rfl⟩ := hkept' (frameWrites_kept hk)
    rw [hd, hsub'] at hclean
    rw [finish_pc (by rw [hclean]; exact hj), hclean]
    exact pcMask_twice c'
  · exact SameMem.of_mem_eq (hend.mem.trans (hkept (frameWrites_kept hk)).1)

/-- NMID cleared is EMR without its bit 3. -/
theorem withBit_nmid_clear (v : Word) : withBit v 3 false = v &&& ~~~8#32 := rfl

theorem finish_ret {b s : State} {g v f : Word} (hj : s.loopJump = none) (hd : b.delay = .ret g v f) (hm : s.mem.wf = true) :
    (finish b s).emr = s.emr &&& ~~~8#32 ∧ (finish b s).nsp = s.nsp ∧ (finish b s).esp = s.esp
      ∧ SameMemBut f 8 s (finish b s)
      ∧ (FrameKept f s → (s.flowed = false → (finish b s).pc = g &&& pcMask) ∧ (finish b s).sr = v &&& srMask
        ∧ SameMem s (finish b s)) := by
  obtain ⟨x, n, j, he, hx, -⟩ := ended_from b s
  have hx' : ∃ a, x = .ret a v f := by
    rw [hd] at hx
    obtain rfl | ⟨a, rfl⟩ := hx
    · exact ⟨g, rfl⟩
    · exact ⟨a, rfl⟩
  obtain ⟨a, rfl⟩ := hx'
  have hend := finish_sameEnd b s
  obtain ⟨m, c, w, hret, hfree, hkept⟩ := endDelay_ret a v f { s with npc := n, loopJump := j }
  rw [hret] at he
  rw [he] at hend
  refine ⟨hend.emr.trans (withBit_nmid_clear s.emr), hend.nsp, hend.esp,
    freeFrame_outside (u := { s with npc := n, loopJump := j }) hm rfl f hfree hend.mem,
    fun hk => ⟨fun hf => ?_, ?_, ?_⟩⟩
  · have hclean := ended_clean (pcClash_jump (d := b.delay) hf (loopDue_none hj))
    obtain ⟨m', c', w', hret', -, hkept'⟩ := endDelay_ret g v f s
    obtain ⟨-, rfl, -⟩ := hkept' (frameWrites_kept hk)
    rw [hd, hret'] at hclean
    rw [finish_pc (by rw [hclean]; exact hj), hclean]
    exact pcMask_twice c'
  · obtain ⟨-, -, rfl⟩ := hkept (frameWrites_kept hk)
    exact hend.sr
  · exact SameMem.of_mem_eq (hend.mem.trans (hkept (frameWrites_kept hk)).1)

/-! ### The counts and the loop jump of a set that is no delay slot (R652) -/

theorem finish_counts {b : State} (s : State) (hd : b.delay = .none) :
    (finish b s).ignoreA = s.ignoreA - 1 ∧ (finish b s).ignoreB = s.ignoreB - 1 ∧ (finish b s).window = s.window - 1
      ∧ (finish b s).loopJump = endJump s.loopJump
      ∧ (pcClash .none s = false → (finish b s).pc = endNpc s.loopJump s.npc &&& pcMask) := by
  obtain ⟨e, q, h⟩ := finish_ended b s
  obtain ⟨x, n, j, he, hx, hj⟩ := ended_from b s
  have hx' : x = .none := by
    rw [hd] at hx
    obtain rfl | ⟨a, rfl⟩ := hx <;> rfl
  subst hx'
  have he : ended b s = { s with npc := n, loopJump := j } := he
  refine ⟨?_, ?_, ?_, ?_, fun hc => ?_⟩
  case _ => rw [h, he]
  case _ => rw [h, he]
  case _ => rw [h, he]
  case _ =>
    rw [h, he]
    exact hj
  case _ =>
    have hclean : ended b s = s := by
      rw [ended_clean (by rw [hd]; exact hc), hd]
      rfl
    rw [h, hclean]

theorem loopDue_some {s : State} {k : Nat} {g : Word} (h : s.loopJump = some ⟨k, g⟩) : loopDue s = decide (k ≤ 1) := by
  rw [loopDue, h]

/-- Settles O49. -/
theorem setEnds : Obligations.SetEnds := by
  refine ⟨?_, ?_⟩
  case _ =>
    rintro b s hj ha hm t rfl
    refine ⟨finish_regs b s, fun hd => ?_, fun g hd => ?_, fun g hd => finish_call hj hd ha hm, fun g f hd => finish_sub hj hd hm,
      fun g v f hd => finish_ret hj hd hm⟩
    · obtain ⟨hpc, hend⟩ := finish_stay hj hd
      exact ⟨hpc, hend.sr, hend.emr, hend.nsp, hend.esp, hend.sameMem⟩
    · obtain ⟨hpc, hend⟩ := finish_jump hj hd
      exact ⟨hpc, hend.sr, hend.emr, hend.nsp, hend.esp, hend.sameMem⟩
  case _ =>
    rintro b s hd t rfl
    obtain ⟨hA, hB, hw, hl, hpc⟩ := finish_counts s hd
    refine ⟨hA, hB, hw, fun hj => ?_, fun k g hj => ?_, fun g hj => ?_⟩
    · rw [hl, hpc (pcClash_stay rfl (loopDue_none hj)), hj]
      exact ⟨rfl, rfl⟩
    · have hlong : ¬ k + 2 ≤ 1 := by omega
      rw [hl, hpc (pcClash_stay rfl ((loopDue_some hj).trans (decide_eq_false hlong))), hj]
      simp only [endJump, endNpc, if_neg hlong]
      exact ⟨rfl, rfl⟩
    · refine ⟨by rw [hl, hj]; rfl, fun hf => ?_⟩
      have hclean : pcClash .none s = false := by
        rw [pcClash, hf]
        rfl
      rw [hpc hclean, hj]
      exact pcMask_twice g

end Sys2Proof.Machine
end


section
/-! Reset, and the Wait and Stop states (O5, O6, O58; spec/10_state.md, spec/70_reset_and_hazards.md, spec/60_exceptions.md R560 to
R565). -/

namespace Sys2Proof.Machine

/-! ### Reset (R53, R600, R603) -/

/-- EMR after reset, bit by bit: the byte-order pin and the general-purpose pins. -/
theorem getLsbD_emrReset (p : Params) (i : Nat) (h : i < 32) :
    (emrReset p).getLsbD i = ((decide (17 ≤ i) && p.emrGp.getLsbD (i - 17)) || (decide (i = 16) && p.bigEndian)) := by
  have hbit : ∀ j : Fin 32, (0x00010000#32).getLsbD j.val = decide (j.val = 16) := by decide
  have hpin : (if p.bigEndian then 0x00010000#32 else 0#32).getLsbD i = (decide (i = 16) && p.bigEndian) := by
    cases p.bigEndian
    · simp
    · simpa using hbit ⟨i, h⟩
  have hlt : i - 17 < 32 := by omega
  have hge : (!decide (i < 17)) = decide (17 ≤ i) := by
    rw [← decide_not, decide_eq_decide, Nat.not_lt]
  rw [emrReset, BitVec.getLsbD_or, BitVec.getLsbD_shiftLeft, BitVec.getLsbD_setWidth, hpin, hge, decide_eq_true h,
    decide_eq_true hlt, Bool.true_and, Bool.true_and]

theorem emrReset_bem (p : Params) : (emrReset p).getLsbD 16 = p.bigEndian := by
  rw [getLsbD_emrReset p 16 (by decide)]
  rfl

theorem emrReset_gp (p : Params) : (emrReset p).extractLsb' 17 7 = p.emrGp := by
  apply BitVec.eq_of_getLsbD_eq
  intro i hi
  have hge : 17 ≤ 17 + i := by omega
  have hne : ¬ 17 + i = 16 := by omega
  rw [BitVec.getLsbD_extractLsb', getLsbD_emrReset p (17 + i) (by omega), decide_eq_true hi, decide_eq_true hge,
    decide_eq_false hne, Nat.add_sub_cancel_left, Bool.true_and, Bool.true_and, Bool.false_and, Bool.or_false]

theorem emrReset_zeros (p : Params) : emrReset p &&& ~~~0x00FF0000#32 = 0#32 := by
  apply BitVec.eq_of_getLsbD_eq
  intro i hi
  have hmask : ∀ j : Fin 32, (~~~0x00FF0000#32).getLsbD j.val = !decide (16 ≤ j.val ∧ j.val < 24) := by decide
  rw [BitVec.getLsbD_and, hmask ⟨i, hi⟩, getLsbD_emrReset p i hi, BitVec.getLsbD_zero]
  by_cases hin : 16 ≤ i ∧ i < 24
  · simp [hin]
  · have hgp : (decide (17 ≤ i) && p.emrGp.getLsbD (i - 17)) = false := by
      by_cases h17 : 17 ≤ i
      · rw [BitVec.getLsbD_of_ge _ _ (by omega), Bool.and_false]
      · simp [h17]
    have hbem : ¬ i = 16 := by omega
    simp [hgp, hbem]

/-- Settles O5. -/
theorem resetLeavesTheStatedValues : Obligations.ResetLeavesTheStatedValues := by
  rintro p s rfl
  exact ⟨rfl, emrReset_bem p, emrReset_gp p, emrReset_zeros p, rfl, rfl, rfl, rfl, rfl, rfl, rfl, rfl, rfl, rfl⟩

/-- The step in the Reset state with no event. -/
theorem step_in_reset {s : State} (he : s.events = []) (hp : s.proc = .reset) : step s = .next s := by
  unfold step
  rw [he, hp]

theorem step_event {s : State} {v : HostEvent} {rest : List HostEvent} (h : s.events = v :: rest) :
    step s = applyEvent { s with events := rest } v := by
  unfold step
  rw [h]

/-- Reset released with neither EE0 nor a debug request held (R560). -/
theorem releaseReset_runs {s : State} (hp : s.proc = .reset) (hd : s.eonce.dbgReq = false) (he : s.eonce.eeIn.getLsbD 0 = false) :
    releaseReset s = { s with proc := .execution } := by
  rw [releaseReset, if_pos hp, he, hd]
  rfl

/-- Settles O6. -/
theorem resetEventRestoresTheStatedValues : Obligations.ResetEventRestoresTheStatedValues := by
  refine ⟨fun s rest h => ?_, fun s he hp => step_in_reset he hp, fun s rest h hp hd he => ?_⟩
  · exact ⟨_, step_of_reset h, rfl, rfl, rfl, rfl, rfl, rfl, rfl, rfl, rfl, rfl, rfl, rfl, rfl, fun _ => rfl⟩
  · rw [step_event h]
    exact congrArg Host.Outcome.next (releaseReset_runs (s := { s with events := rest }) hp hd he)

/-! ### Wait and Stop (R562, R563) -/

theorem step_in_wait {s : State} (he : s.events = []) (hp : s.proc = .wait) (hd : s.eonce.dbgReq = false) :
    step s = .next (if wakes s then leaveWait s else s) := by
  unfold step
  rw [he, hp, hd]
  rfl

theorem step_in_stop {s : State} (he : s.events = []) (hp : s.proc = .stop) (hd : s.eonce.dbgReq = false)
    (hr : s.reqDebug = false) : step s = .next s := by
  unfold step
  rw [he, hp, hd, hr]
  rfl

/-- Leaving Wait: the core executes, and the exception is entered at once if it can be (R562). -/
theorem leaveWait_spec (s : State) : (leaveWait s).proc = .execution
    ∧ (pending s = none → leaveWait s = { s with proc := .execution })
    ∧ (pending s ≠ none → interruptible s = true → (leaveWait s).window = 3 ∧ EntryKeeps s (leaveWait s)) := by
  unfold leaveWait
  dsimp only
  rw [show pending { s with proc := .execution } = pending s from rfl]
  cases pending s with
  | none => exact ⟨rfl, fun _ => rfl, fun h => absurd rfl h⟩
  | some k =>
    dsimp only
    rw [show interruptible { s with proc := .execution } = interruptible s from rfl]
    obtain ⟨hk, -, -, hproc, hwin⟩ := enter_keeps { s with proc := .execution } k
    cases interruptible s with
    | false => exact ⟨rfl, nofun, fun _ h => absurd h Bool.false_ne_true⟩
    | true =>
      exact ⟨hproc, nofun, fun _ _ => ⟨hwin, ⟨hk.d, hk.r, hk.n, hk.mctl, hk.loops, hk.vba, hk.ras⟩⟩⟩

/-- Settles O58. -/
theorem waitAndStopStates : Obligations.WaitAndStopStates := by
  intro s hd
  refine ⟨fun he hp w hw => ?_, fun he hp hr => step_in_stop he hp hd hr, fun rest h hp => ?_⟩
  · have hwakes : wakes s = w := hw.symm
    rw [step_in_wait he hp hd, hwakes]
    refine ⟨?_, ?_⟩
    · rintro rfl
      rfl
    · rintro rfl
      exact ⟨_, rfl, leaveWait_spec s⟩
  · rw [step_event h]
    exact congrArg Host.Outcome.next (if_pos hp)

end Sys2Proof.Machine
end


section
/-! A step of one instruction, with or without a prefix (O1, O2; spec/30_encoding.md R151 to R158, R178). -/

namespace Sys2Proof

/-! ### What decodes takes one to three words -/

theorem rows1_words : ∀ r ∈ rows1, r.words = 1 := by
  have h : (rows1.all fun r => r.words == 1) = true := by
    simp only [rows1, List.all_append, Bool.and_eq_true]
    exact ⟨⟨⟨⟨rfl, rfl⟩, rfl⟩, rfl⟩, rfl⟩
  exact fun r hr => eq_of_beq (List.all_eq_true.mp h r hr)

theorem rows2_words : ∀ r ∈ rows2, r.words = 2 := by
  have h : (rows2.all fun r => r.words == 2) = true := rfl
  exact fun r hr => eq_of_beq (List.all_eq_true.mp h r hr)

theorem rows3_words : ∀ r ∈ rows3, r.words = 3 := by
  have h : (rows3.all fun r => r.words == 3) = true := rfl
  exact fun r hr => eq_of_beq (List.all_eq_true.mp h r hr)


/-- A row that is found is a row of the table that the words match. -/
theorem findRow_mem {ws : List Nat} {r : Row} {v : Nat} (h : findRow ws = some (r, v)) : r ∈ rows1 ∨ r ∈ rows2 ∨ r ∈ rows3 := by
  have hfind {rows : List Row} {x : Nat} (hf : (rows.find? (·.hits x)).map (fun r => (r, x)) = some (r, v)) : r ∈ rows := by
    obtain ⟨q, hq, he⟩ := Option.map_eq_some_iff.mp hf
    cases he
    exact List.mem_of_find?_eq_some hq
  unfold findRow at h
  split at h
  case h_1 p hp =>
    unfold findThree at hp
    split at hp
    case h_2 => cases hp
    split at hp
    · exact .inr (.inr (hfind (hp.trans h)))
    · cases hp
  case h_2 =>
    split at h
    case h_1 p hp =>
      unfold findTwo at hp
      split at hp
      case h_2 => cases hp
      split at hp
      · exact .inr (.inl (hfind (hp.trans h)))
      · cases hp
    case h_2 =>
      unfold findOne at h
      split at h
      · exact .inl (hfind h)
      · cases h

theorem decodeAt_words {b : Bank} {ws : List Nat} {i : Instr} {k : Nat} (h : decodeAt b ws = some (i, k)) : 1 ≤ k ∧ k ≤ 3 := by
  unfold decodeAt at h
  split at h
  case h_1 => cases h
  case h_2 r v hr =>
    split at h
    case h_1 => cases h
    case h_2 j hj =>
      cases h
      obtain hm | hm | hm := findRow_mem hr
      · rw [rows1_words r hm]; decide
      · rw [rows2_words r hm]; decide
      · rw [rows3_words r hm]; decide

theorem bankAt_zero (q : Nat) : bankAt 0#16 q = Bank.zero := by
  simp [bankAt, Bank.zero]

/-! ### Prefix words and others -/

/-- The words of a set after its prefix that stand for NOP are one-word prefixes. -/
theorem not_nopWord {w : Nat} (h : isPrefix1 w = false) : (w &&& 0xFFE0 == 0x90C0) = false := by
  rw [isPrefix1, beq_eq_false_iff_ne] at h
  rw [beq_eq_false_iff_ne]
  intro he
  apply h
  calc w &&& 0xF1E0 = w &&& 0xFFE0 &&& 0xF1E0 := by rw [Nat.and_assoc, show 0xFFE0 &&& 0xF1E0 = 0xF1E0 from rfl]
    _ = 0x90C0 &&& 0xF1E0 := by rw [he]
    _ = 0x90C0 := rfl

/-- A two-word prefix does not begin with a one-word one. -/
theorem isPrefix1_of_isPrefix2 {w v : Nat} (h : isPrefix2 w v = true) : isPrefix1 w = false := by
  rw [isPrefix2, Bool.and_eq_true, beq_iff_eq] at h
  rw [isPrefix1, beq_eq_false_iff_ne]
  intro he
  have hboth : w &&& 0xF100 = 0x90C0 &&& 0xF100 := by
    rw [← he, Nat.and_assoc, show 0xF1E0 &&& 0xF100 = 0xF100 from rfl]
  rw [h.1] at hboth
  exact absurd hboth (by decide)

end Sys2Proof

namespace Sys2Proof.Machine

/-! ### Decoding a set of one instruction -/

/-- One instruction that fills the rest of its set. -/
theorem walk_one {hb : BitVec 16} {prefixed : Bool} {ws : List Nat} {k pos : Nat} {i : Instr}
    (hp : isPrefix1 (ws.headD 0) = false) (hi : (prefixed && isapWord (ws.take k)) = false)
    (hd : decodeAt (bankAt hb pos) (ws.take k) = some (i, k)) :
    walk 8 hb prefixed ws k pos = ⟨[⟨pos, i, k, ws.headD 0⟩], false, false⟩ := by
  obtain ⟨hk1, hk3⟩ := decodeAt_words hd
  obtain ⟨n, rfl⟩ : ∃ n, k = n + 1 := ⟨k - 1, by omega⟩
  cases ws with
  | nil => cases hd
  | cons w rest =>
    have hp : isPrefix1 w = false := hp
    have hnop : (prefixed && (w &&& 0xFFE0 == 0x90C0)) = false := by rw [not_nopWord hp, Bool.and_false]
    rw [walk]
    simp only [hnop, hp, hi, hd, Bool.false_eq_true, if_false, Nat.sub_self]
    rw [walk]
    · rfl
    · exact fun h => absurd h (by decide)

theorem serialLen_lt {ws : List Nat} {j k : Nat} (h : serialLen ws j = some k) : j < k := by
  induction ws generalizing j with
  | nil => cases h
  | cons w rest ih =>
    rw [serialLen] at h
    split at h
    · exact Nat.lt_of_succ_lt (ih h)
    · cases h
      exact Nat.lt_succ_self j

/-- The length of a serial set is read from its own words. -/
theorem serialLen_take {ws : List Nat} {j k : Nat} (h : serialLen ws j = some k) (n : Nat) (hn : k ≤ j + n) :
    serialLen (ws.take n) j = some k := by
  induction ws generalizing j n with
  | nil => cases h
  | cons w rest ih =>
    cases n with
    | zero => exact absurd (serialLen_lt h) (by omega)
    | succ n =>
      rw [serialLen] at h
      rw [List.take_succ_cons, serialLen]
      split at h
      case isTrue hw =>
        rw [if_pos hw]
        exact ih h n (by omega)
      case isFalse hw => rw [if_neg hw, h]

/-- A set of a single instruction of at most three words breaks no grouping rule. -/
theorem groupOk_one (s : State) (c : BitVec 3) {x : Slot} (h : x.words ≤ 3) : groupOk s c [x] = true := by
  have hpair (p : Slot → Bool) : anyPair (pairClash s) ([x].filter p) = false := by
    rw [List.filter_singleton]
    cases p x <;> rfl
  have hext : distinct (extPositions x) = true := by
    have hw : x.words = 0 ∨ x.words = 1 ∨ x.words = 2 ∨ x.words = 3 := by omega
    have hne : ¬ (x.pos + 1) % 2 = (x.pos + 1 + 1) % 2 := by omega
    obtain hw | hw | hw | hw := hw <;> simp [extPositions, hw, distinct, List.range_succ, hne]
  have hunits : unitsOk s [x] = true := by
    unfold unitsOk
    simp only [List.filter_singleton, List.flatMap_cons, List.flatMap_nil, List.append_nil, hext, Bool.and_true]
    cases (effects s x.instr).dalu <;> rfl
  unfold groupOk
  simp only [hunits, hpair, Bool.not_false, Bool.and_self]

/-! ### Running it -/

theorem andThen_assoc {α β γ : Type} (r : Res α) (f : α → Res β) (g : β → Res γ) :
    andThen (andThen r f) g = andThen r fun x => andThen (f x) g := by
  cases r <;> rfl

/-- A quiet state runs the set at PC. -/
theorem step_quiet {s : State} (h : Quiet s) : step s = runSet s := by
  unfold step coreStep
  rw [h.events, h.proc, h.dbgReq, h.pending]
  rfl

/-- A legal set of one instruction: its prefix, then it, if it is enabled, and the end of the set. -/
theorem runSet_one {s : State} {len : Nat} {pre : Option Instr} {x : Slot} (hk : x.words ≤ 3)
    (hd : decodeSet s (fetchWords s) = ⟨len, pre, [x], false, false⟩) :
    runSet s = andThen (prefixEffect (begin s len) pre) fun m =>
      if x.runs m.ifc (tBit s) then
        andThen (exec x.instr { begin s len with ifc := m.ifc }) fun t =>
          .next (finish s (traceFlow (begin s len) pre [x] (overlayMarks (begin s len) m [x.instr] (tagUnit x.pos t))))
      else .next (finish s (traceFlow (begin s len) pre [] m)) := by
  rw [runSet, hd]
  dsimp only
  rw [runDecoded, andThen_assoc]
  congr 1
  funext m
  rw [groupOk_one _ _ hk]
  simp only [Bool.not_true, Bool.or_self, Bool.false_eq_true, if_false, List.filter_singleton]
  rw [show tBit (begin s len) = tBit s from rfl]
  cases x.runs m.ifc (tBit s) with
  | false => rfl
  | true =>
    simp only [if_true, cond_true, runLegal, runSlots, andThen_assoc]
    rfl

/-- A set that is a prefix word and nothing else. -/
theorem runSet_prefix {s : State} {len : Nat} {pre : Option Instr} (hd : decodeSet s (fetchWords s) = ⟨len, pre, [], false, false⟩) :
    runSet s = andThen (prefixEffect (begin s len) pre) fun m => .next (finish s (traceFlow (begin s len) pre [] m)) := by
  rw [runSet, hd]
  dsimp only
  rw [runDecoded, andThen_assoc]
  rfl

theorem length_fetchWords (s : State) : (fetchWords s).length = 10 := by
  rw [fetchWords, List.length_map, List.length_range]

/-- A set has a second word to look at. -/
theorem fetchWords_tail {s : State} {w : Nat} {rest : List Nat} (h : fetchWords s = w :: rest) : ∃ v more, rest = v :: more := by
  have hl := length_fetchWords s
  rw [h] at hl
  cases rest with
  | nil => cases hl
  | cons v more => exact ⟨v, more, rfl⟩

theorem decodeSet_prefix1 {s : State} {w v : Nat} {more : List Nat} {p : Instr} {r : Walked} (hw : isPrefix1 w = true)
    (hp : prefix1Instr w = some p) (hr : walk 8 0#16 true (v :: more) (w / 2 ^ 9 % 8) 1 = r) (hl : r.ilin = false ∧ r.ilst = false) :
    decodeSet s (w :: v :: more) = ⟨w / 2 ^ 9 % 8 + 1, some p, r.slots, false, false⟩ := by
  rw [decodeSet]
  simp only [hw, if_true, hp, Nat.add_sub_cancel, hr, hl.1, hl.2]
  rfl

theorem decodeSet_prefix2 {s : State} {w v k : Nat} {more : List Nat} {p : Instr} {r : Walked} (hw : isPrefix2 w v = true)
    (hk : w / 2 ^ 9 % 8 = k + 1) (hp : prefix2Instr w v = some p)
    (hr : walk 8 (highBits w v) true more k s.params.prefix2First = r) (hl : r.ilin = false ∧ r.ilst = false) :
    decodeSet s (w :: v :: more) = ⟨k + 2, some p, r.slots, false, false⟩ := by
  rw [decodeSet]
  simp only [isPrefix1_of_isPrefix2 hw, hw, Bool.false_eq_true, if_false, if_true, hp, hk, show k + 1 + 1 - 2 = k by omega, hr,
    hl.1, hl.2]
  rfl

theorem decodeSet_serial {s : State} {w v k : Nat} {more : List Nat} {r : Walked} (h1 : isPrefix1 w = false)
    (h2 : isPrefix2 w v = false) (hs : serialLen ((w :: v :: more).take 8) 0 = some k)
    (hr : walk 8 0#16 false (w :: v :: more) k 0 = r) (hl : r.ilin = false ∧ r.ilst = false) (ho : serialOk k r.slots = true) :
    decodeSet s (w :: v :: more) = ⟨k, none, r.slots, false, false⟩ := by
  rw [decodeSet]
  simp only [h1, h2, Bool.false_eq_true, if_false, hs, hr, hl.1, hl.2, ho, Bool.not_true, Bool.or_self]

/-! ### A set without a prefix -/

/-- No marks: laying them over a result leaves it. -/
theorem overlayMarks_self {b : State} (hf : b.flowed = false) (is : List Instr) (t : State) : overlayMarks b b is t = t := by
  have hlc : (Vector.ofFn fun k : Fin 4 => lcReg t k) = t.lc := by
    ext i hi
    simp [lcReg, Vector.get]
  unfold overlayMarks
  simp only [hf, BitVec.xor_self, BitVec.zero_and, if_true, BitVec.and_zero, marksLc, bne_self_eq_false, Bool.or_self,
    Bool.false_and, Bool.false_eq_true, if_false, newer, Bool.or_false, BitVec.or_zero, hlc]
  rw [and_not_zero]

/-- An instruction whose own condition does not hold changes nothing, and is no change of flow. -/
theorem exec_of_not_ownCondition {i : Instr} {s : State} (h : ownCondition i (tBit s) = false) :
    exec i s = .next s ∧ cofTaken s i = false ∧ isTrap i = false := by
  have hnot : tBit s = false → ¬ tBit s = true := Bool.eq_false_iff.mp
  unfold ownCondition at h
  split at h
  case h_1 => exact ⟨congrArg Host.Outcome.next (if_neg (hnot h)), rfl, rfl⟩
  case h_2 => exact ⟨congrArg Host.Outcome.next (if_neg (hnot h)), rfl, rfl⟩
  case h_3 => exact ⟨congrArg Host.Outcome.next (if_pos (by simpa using h)), rfl, rfl⟩
  case h_4 => exact ⟨congrArg Host.Outcome.next (if_pos (by simpa using h)), rfl, rfl⟩
  case h_5 => cases h

/-- Nothing is traced of an instruction whose own condition does not hold. -/
theorem traceFlow_not_run {b : State} {x : Slot} (h : ownCondition x.instr (tBit b) = false) (r : State) :
    traceFlow b none [] r = traceFlow b none [x] r := by
  obtain ⟨-, hcof, htrap⟩ := exec_of_not_ownCondition h
  unfold traceFlow
  simp only [List.any_cons, List.any_nil, hcof, htrap, Bool.or_false, Bool.false_and, Bool.false_eq_true, if_false]

/-- Settles O1. -/
theorem stepRunsTheDecodedInstruction : Obligations.StepRunsTheDecodedInstruction := by
  intro s i k hq h1 h2 hs hd
  obtain ⟨w, rest, hw⟩ : ∃ w rest, fetchWords s = w :: rest := by
    cases hl : fetchWords s with
    | nil => exact absurd (length_fetchWords s) (by rw [hl]; decide)
    | cons w rest => exact ⟨w, rest, rfl⟩
  obtain ⟨v, more, rfl⟩ := fetchWords_tail hw
  obtain ⟨hk1, hk3⟩ := decodeAt_words hd
  rw [hw] at h1 h2 hs hd ⊢
  have hwalk := walk_one (hb := 0#16) (prefixed := false) (pos := 0) h1 (Bool.false_and _) (by rw [bankAt_zero]; exact hd)
  have hok : serialOk k [⟨0, i, k, (w :: v :: more).headD 0⟩] = true := by
    simp [serialOk]
  have hset := decodeSet_serial (s := s) (w := w) (v := v) h1 h2 (serialLen_take hs 8 (by omega)) hwalk ⟨rfl, rfl⟩ hok
  rw [← hw] at hset
  rw [step_quiet hq, runSet_one hk3 hset]
  show (if (⟨0, i, k, (w :: v :: more).headD 0⟩ : Slot).runs (begin s k).ifc (tBit s) then _ else _) = _
  cases hown : ownCondition i (tBit s) with
  | true =>
    rw [if_pos (show Slot.runs ⟨0, i, k, _⟩ (begin s k).ifc (tBit s) = true from hown)]
    simp only [overlayMarks_self (b := begin s k) rfl]
    rfl
  | false =>
    rw [if_neg (show ¬ Slot.runs ⟨0, i, k, _⟩ (begin s k).ifc (tBit s) = true from Bool.eq_false_iff.mp hown)]
    rw [(exec_of_not_ownCondition (s := begin s k) hown).1,
      traceFlow_not_run (b := begin s k) (x := ⟨0, i, k, (w :: v :: more).headD 0⟩) hown]
    rfl

/-! ### Sets with a prefix (R153 to R155) -/

theorem step_prefix1 {s : State} {w k : Nat} {rest : List Nat} {p i : Instr} (hq : Quiet s) (hf : fetchWords s = w :: rest)
    (hw : isPrefix1 w = true) (hk : w / 2 ^ 9 % 8 = k) (hp : prefix1Instr w = some p) (hn : isPrefix1 (rest.headD 0) = false)
    (hi : isapWord (rest.take k) = false) (hd : decodeAt Bank.zero (rest.take k) = some (i, k)) :
    step s = andThen (exec p (begin s (k + 1))) fun m =>
      if ifcEnables m.ifc (tBit s) 1 && ownCondition i (tBit s) then
        andThen (exec i { begin s (k + 1) with ifc := m.ifc }) fun t =>
          .next (finish s (traceFlow (begin s (k + 1)) (some p) [⟨1, i, k, rest.headD 0⟩]
            (overlayMarks (begin s (k + 1)) m [i] (tagUnit 1 t))))
      else .next (finish s (traceFlow (begin s (k + 1)) (some p) [] m)) := by
  subst hk
  obtain ⟨v, more, rfl⟩ := fetchWords_tail hf
  have hwalk := walk_one (hb := 0#16) (prefixed := true) (pos := 1) hn hi (by rw [bankAt_zero]; exact hd)
  have hset := decodeSet_prefix1 (s := s) hw hp hwalk ⟨rfl, rfl⟩
  rw [← hf] at hset
  rw [step_quiet hq, runSet_one (decodeAt_words hd).2 hset]
  rfl

theorem step_prefix1_alone {s : State} {w : Nat} {rest : List Nat} {p : Instr} (hq : Quiet s) (hf : fetchWords s = w :: rest)
    (hw : isPrefix1 w = true) (hk : w / 2 ^ 9 % 8 = 0) (hp : prefix1Instr w = some p) :
    step s = andThen (exec p (begin s 1)) fun m => .next (finish s (traceFlow (begin s 1) (some p) [] m)) := by
  obtain ⟨v, more, rfl⟩ := fetchWords_tail hf
  have hset := decodeSet_prefix1 (s := s) (v := v) (more := more) (r := ⟨[], false, false⟩) hw hp (by rw [hk]; rfl) ⟨rfl, rfl⟩
  rw [← hf, hk] at hset
  rw [step_quiet hq, runSet_prefix hset]
  rfl

theorem step_prefix2 {s : State} {w v k q : Nat} {rest : List Nat} {p i : Instr} (hq : Quiet s) (hf : fetchWords s = w :: v :: rest)
    (hw : isPrefix2 w v = true) (hk : w / 2 ^ 9 % 8 = k + 1) (hp : prefix2Instr w v = some p) (hpos : q = s.params.prefix2First)
    (hn : isPrefix1 (rest.headD 0) = false) (hi : isapWord (rest.take k) = false)
    (hd : decodeAt (bankAt (highBits w v) q) (rest.take k) = some (i, k)) :
    step s = andThen (exec p (begin s (k + 2))) fun m =>
      if ifcEnables m.ifc (tBit s) q && ownCondition i (tBit s) then
        andThen (exec i { begin s (k + 2) with ifc := m.ifc }) fun t =>
          .next (finish s (traceFlow (begin s (k + 2)) (some p) [⟨q, i, k, rest.headD 0⟩]
            (overlayMarks (begin s (k + 2)) m [i] (tagUnit q t))))
      else .next (finish s (traceFlow (begin s (k + 2)) (some p) [] m)) := by
  subst hpos
  have hwalk := walk_one (prefixed := true) hn hi hd
  have hset := decodeSet_prefix2 (s := s) hw hk hp hwalk ⟨rfl, rfl⟩
  rw [← hf] at hset
  rw [step_quiet hq, runSet_one (decodeAt_words hd).2 hset]
  rfl

end Sys2Proof.Machine
end


section
/-! The high-bank bits of a two-word prefix (O2; spec/30_encoding.md R154, R156, R158). -/

namespace Sys2Proof

/-! ### The bank bits of a position -/

/-- The sixteen high-bank bits of a prefix, as a number. -/
def highNat (w v : Nat) : Nat :=
  (w / 2 ^ 7 % 2) * 2 ^ 15 + (w / 2 ^ 5 % 2) * 2 ^ 14 + (v / 2 ^ 8 % 2) * 2 ^ 13 + (w / 2 ^ 6 % 2) * 2 ^ 12
    + (v / 2 ^ 9 % 16) * 2 ^ 8 + v % 2 ^ 8

/-- The pieces of a number with single bits at 15 to 12. -/
theorem top_bits {a b c d e f : Nat} (ha : a < 2) (hb : b < 2) (hc : c < 2) (hd : d < 2) (he : e < 16) (hf : f < 256) {n : Nat}
    (hn : n = a * 2 ^ 15 + b * 2 ^ 14 + c * 2 ^ 13 + d * 2 ^ 12 + e * 2 ^ 8 + f) :
    n / 2 ^ 15 % 2 = a ∧ n / 2 ^ 14 % 2 = b ∧ n / 2 ^ 13 % 2 = c ∧ n / 2 ^ 12 % 2 = d := by
  omega

theorem getLsbD_highBits (w v : Nat) {i : Nat} (hi : i < 16) : (highBits w v).getLsbD i = (highNat w v).testBit i := by
  have hbits : highBits w v = BitVec.ofNat 16 (highNat w v) := rfl
  rw [hbits, BitVec.getLsbD_ofNat, decide_eq_true hi, Bool.true_and]

/-- The bits E1 and E3 of DALU unit q (R154, R156). -/
theorem bankAt_dalu (w v : Nat) {q : Nat} (hq : q < 4) :
    (bankAt (highBits w v) q).e1 = v.testBit (9 + q) ∧ (bankAt (highBits w v) q).e3 = v.testBit q := by
  have hlow : highNat w v % 2 ^ 8 = v % 2 ^ 8 := by
    unfold highNat
    omega
  have hhigh : highNat w v / 2 ^ 8 % 2 ^ 4 = v / 2 ^ 9 % 2 ^ 4 := by
    unfold highNat
    omega
  have hu : q % 4 = q := Nat.mod_eq_of_lt hq
  have h1 : (bankAt (highBits w v) q).e1 = (highBits w v).getLsbD (8 + q) := by rw [bankAt, hu]
  have h3 : (bankAt (highBits w v) q).e3 = (highBits w v).getLsbD q := by rw [bankAt, hu]
  have hbitHigh := congrArg (Nat.testBit · q) hhigh
  have hbitLow := congrArg (Nat.testBit · q) hlow
  simp only [Nat.testBit_mod_two_pow, Nat.testBit_div_two_pow, hq, decide_true, Bool.true_and] at hbitHigh
  simp only [Nat.testBit_mod_two_pow, show q < 8 by omega, decide_true, Bool.true_and] at hbitLow
  rw [h1, h3, getLsbD_highBits w v (by omega), getLsbD_highBits w v (by omega), hbitLow, Nat.add_comm 8, hbitHigh, Nat.add_comm q]
  exact ⟨rfl, rfl⟩

/-- The bits of AGU unit q mod 2. -/
theorem bankAt_agu (w v q : Nat) :
    (bankAt (highBits w v) q).lo = (if q % 2 = 0 then w.testBit 5 else w.testBit 6)
      ∧ (bankAt (highBits w v) q).hi = (if q % 2 = 0 then w.testBit 7 else v.testBit 8) := by
  have hbit (i j x : Nat) (hi : i < 16) (h : highNat w v / 2 ^ i % 2 = x / 2 ^ j % 2) : (highBits w v).getLsbD i = x.testBit j := by
    rw [getLsbD_highBits w v hi, Nat.testBit_eq_decide_div_mod_eq, Nat.testBit_eq_decide_div_mod_eq, h]
  have hlt (x : Nat) : x % 2 < 2 := Nat.mod_lt x (by decide)
  obtain ⟨b15, b14, b13, b12⟩ := top_bits (hlt _) (hlt _) (hlt _) (hlt _) (Nat.mod_lt _ (by decide)) (Nat.mod_lt _ (by decide))
    (show highNat w v = _ from rfl)
  have h14 := hbit 14 5 w (by decide) b14
  have h12 := hbit 12 6 w (by decide) b12
  have h15 := hbit 15 7 w (by decide) b15
  have h13 := hbit 13 8 v (by decide) b13
  rw [← h14, ← h12, ← h15, ← h13]
  exact ⟨rfl, rfl⟩

/-! ### NOT and TFRA with the bank bits of a unit -/

theorem regOf_add8 (k : Bool) (v : Nat) : regOf k (8 + v) = regOf k v := by
  rw [regOf, regOf, Nat.add_mod_left]

theorem decodeAt_notReg (k : Bank) (a n : Fin 8) :
    decodeAt k [0xD800 + 128 * n.val + a.val] = some (.notReg (regOf k.e1 a.val) (regOf k.e3 n.val), 1) := by
  have hits : ∀ a n : Fin 8, rowNotReg.hits (0xD800 + 128 * n.val + a.val) = true := by decide
  have hunpack : rowNotReg.unpack (0xD800 + 128 * n.val + a.val) = [a.val, n.val] := by
    simp only [Row.unpack, rowNotReg, List.map_cons, List.map_nil,
      getField_codeAt0 (show 0xD800 % 8 = 0 by decide) a.isLt,
      getField_codeAt7 (show 0xD800 / 128 % 8 = 0 by decide) n.isLt (show 0xD800 % 128 + a.val < 128 by omega)]
  exact decodeAt_single (r := rowNotReg) rfl (hits a n) (by rw [hunpack]; rfl)

theorem decodeAt_tfra (k : Bank) (a n : Fin 8) :
    decodeAt k [0xE8E8 + 256 * n.val + a.val] = some (.tfra (.r (regOf k.lo a.val)) (.r (regOf k.hi n.val)), 1) := by
  have hits : ∀ a n : Fin 8, rowTfra.hits (0xE8E8 + 256 * n.val + a.val) = true := by decide
  have hunpack : rowTfra.unpack (0xE8E8 + 256 * n.val + a.val) = [8 + a.val, 8 + n.val] := by
    simp only [Row.unpack, rowTfra, List.map_cons, List.map_nil, getField, List.foldl_cons, List.foldl_nil,
      Nat.shiftRight_eq_div_pow]
    have ha : (0 * 2 ^ 4 + (0xE8E8 + 256 * n.val + a.val) / 2 ^ 0 % 2 ^ 4) = 8 + a.val := by omega
    have hn : (0 * 2 ^ 4 + (0xE8E8 + 256 * n.val + a.val) / 2 ^ 8 % 2 ^ 4) = 8 + n.val := by omega
    rw [ha, hn]
  have hsrc : rxSrcOf k.lo (8 + a.val) = some (.r (regOf k.lo a.val)) := by
    rw [rxSrcOf, if_neg (by omega), if_neg (by omega), if_neg (by omega), if_neg (by omega), regOf_add8]
  have hdst : rxOf k.hi (8 + n.val) = some (.r (regOf k.hi n.val)) := by
    rw [rxOf, if_neg (by omega), if_neg (by omega), if_neg (by omega), regOf_add8]
  refine decodeAt_single (r := rowTfra) (i := .tfra (.r (regOf k.lo a.val)) (.r (regOf k.hi n.val))) rfl (hits a n) ?_
  rw [hunpack]
  show ((rxSrcOf k.lo (8 + a.val)).bind fun src => (rxOf k.hi (8 + n.val)).map fun x => Instr.tfra src x) = _
  rw [hsrc, hdst]
  rfl

end Sys2Proof

namespace Sys2Proof.Machine

/-- Settles O2. -/
theorem stepRunsThePrefixedInstruction : Obligations.StepRunsThePrefixedInstruction := by
  refine ⟨fun s w rest p i k hq hf hw hk hp hn hi hd => step_prefix1 hq hf hw hk hp hn hi hd,
    fun s w rest p hq hf hw hk hp => step_prefix1_alone hq hf hw hk hp,
    fun s w v rest p i k q hq hf hw hk hp hpos hn hi hd => step_prefix2 hq hf hw hk hp hpos hn hi hd, fun w v q a n hq => ?_⟩
  obtain ⟨h1, h3⟩ := bankAt_dalu w v hq
  obtain ⟨hlo, hhi⟩ := bankAt_agu w v q
  rw [decodeAt_notReg, decodeAt_tfra, h1, h3, hlo, hhi]
  exact ⟨rfl, rfl⟩

end Sys2Proof.Machine
end


section
/-! The fields of a row: what is put into them is read back (O4; spec/30_encoding.md R14, R178).  The pieces of a row's fields, its
fixed bits and its `*` bits stand at places of their own, so that the packed number is their disjoint union. -/

namespace Sys2Proof

/-! ### Numbers with no common bit -/

/-- Adding numbers with no common bit is joining their bits. -/
theorem add_eq_or_of_and_eq_zero (x y : Nat) (h : x &&& y = 0) : x + y = x ||| y := by
  induction x using Nat.strongRecOn generalizing y with
  | ind x ih =>
    by_cases hx : x = 0
    · subst hx
      rw [Nat.zero_add, Nat.zero_or]
    · have hhalf : x / 2 + y / 2 = (x ||| y) / 2 := by
        rw [Nat.or_div_two]
        exact ih (x / 2) (by omega) (y / 2) (by rw [← Nat.and_div_two, h])
      have hand : ¬ (x % 2 = 1 ∧ y % 2 = 1) := by
        rw [← Nat.and_mod_two_eq_one, h]
        decide
      have hor := Nat.or_mod_two_eq_one (a := x) (b := y)
      omega

/-- A number whose bits all stand in a mask. -/
def LivesIn (x m : Nat) : Prop := x &&& m = x

theorem LivesIn.and_eq_zero {x a b : Nat} (h : LivesIn x a) (hab : a &&& b = 0) : x &&& b = 0 := by
  rw [← show x &&& a = x from h, Nat.and_assoc, hab, Nat.and_zero]

theorem LivesIn.add {x y a b : Nat} (hx : LivesIn x a) (hy : LivesIn y b) (hxy : x &&& y = 0) : LivesIn (x + y) (a ||| b) := by
  rw [LivesIn, add_eq_or_of_and_eq_zero x y hxy, Nat.and_or_distrib_right, Nat.and_or_distrib_left, Nat.and_or_distrib_left, hx, hy]
  apply Nat.eq_of_testBit_eq
  intro i
  simp only [Nat.testBit_or, Nat.testBit_and]
  cases x.testBit i <;> cases y.testBit i <;> simp

/-- Numbers that live in masks with no common bit have none. -/
theorem LivesIn.disjoint {x y a b : Nat} (hx : LivesIn x a) (hy : LivesIn y b) (hab : a &&& b = 0) : x &&& y = 0 := by
  rw [Nat.and_comm]
  exact hy.and_eq_zero (by rw [Nat.and_comm]; exact hx.and_eq_zero hab)

/-- A sum has no bit in a mask that its summands have none in. -/
theorem add_and_eq_zero {x y m : Nat} (hxy : x &&& y = 0) (hx : x &&& m = 0) (hy : y &&& m = 0) : (x + y) &&& m = 0 := by
  rw [add_eq_or_of_and_eq_zero x y hxy, Nat.and_or_distrib_right, hx, hy, Nat.zero_or]

theorem and_eq_zero_of_or {x a b : Nat} (h : x &&& (a ||| b) = 0) : x &&& a = 0 ∧ x &&& b = 0 := by
  rw [Nat.and_or_distrib_left, Nat.or_eq_zero_iff] at h
  exact h

theorem LivesIn.le {x m : Nat} (h : LivesIn x m) : x ≤ m := by
  rw [← show x &&& m = x from h]
  exact Nat.and_le_right

/-! ### One piece of a field -/

/-- The bits of a piece. -/
def segMask (s : Nat × Nat) : Nat := (2 ^ s.2 - 1) <<< s.1

/-- The value of a piece. -/
def getSeg (w : Nat) (s : Nat × Nat) : Nat := (w >>> s.1) % 2 ^ s.2

/-- A piece is read from its own bits. -/
theorem getSeg_and_segMask (w : Nat) (s : Nat × Nat) : getSeg (w &&& segMask s) s = getSeg w s := by
  apply Nat.eq_of_testBit_eq
  intro i
  simp only [getSeg, segMask, Nat.testBit_mod_two_pow, Nat.testBit_shiftRight, Nat.testBit_and, Nat.testBit_shiftLeft,
    Nat.testBit_two_pow_sub_one, Nat.add_sub_cancel_left]
  by_cases hi : i < s.2 <;> simp [hi]

/-- Bits elsewhere do not change a piece. -/
theorem getSeg_add {x y : Nat} {s : Nat × Nat} (hxy : x &&& y = 0) (hx : x &&& segMask s = 0) : getSeg (x + y) s = getSeg y s := by
  rw [← getSeg_and_segMask, add_eq_or_of_and_eq_zero x y hxy, Nat.and_or_distrib_right, hx, Nat.zero_or, getSeg_and_segMask]

/-- The bits put at a piece stand in it, and are its value. -/
theorem livesIn_segMask (v : Nat) (s : Nat × Nat) : LivesIn ((v % 2 ^ s.2) <<< s.1) (segMask s) := by
  rw [LivesIn, segMask, ← Nat.shiftLeft_and_distrib, Nat.and_two_pow_sub_one_eq_mod, Nat.mod_mod]

theorem getSeg_shiftLeft (v : Nat) (s : Nat × Nat) : getSeg ((v % 2 ^ s.2) <<< s.1) s = v % 2 ^ s.2 := by
  rw [getSeg, Nat.shiftLeft_shiftRight, Nat.mod_mod]

/-! ### One field -/

/-- The bits of a field. -/
def fieldMask : List (Nat × Nat) → Nat
  | [] => 0
  | s :: rest => segMask s ||| fieldMask rest

/-- The pieces of a field do not overlap. -/
def fieldOk : List (Nat × Nat) → Bool
  | [] => true
  | s :: rest => segMask s &&& fieldMask rest == 0 && fieldOk rest

/-- A field's value is its first piece above the others. -/
theorem getField_cons (w : Nat) (s : Nat × Nat) (rest : List (Nat × Nat)) :
    getField w (s :: rest) = getSeg w s * 2 ^ fieldWidth rest + getField w rest := by
  have hacc (l : List (Nat × Nat)) (acc : Nat) : l.foldl (fun acc s => acc * 2 ^ s.2 + (w >>> s.1) % 2 ^ s.2) acc
      = acc * 2 ^ fieldWidth l + l.foldl (fun acc s => acc * 2 ^ s.2 + (w >>> s.1) % 2 ^ s.2) 0 := by
    induction l generalizing acc with
    | nil => simp [fieldWidth]
    | cons s l ih =>
      have hw : fieldWidth (s :: l) = s.2 + fieldWidth l := by simp [fieldWidth]
      rw [List.foldl_cons, List.foldl_cons, ih, ih (0 * 2 ^ s.2 + _), hw, Nat.pow_add]
      ring
  rw [getField, List.foldl_cons, hacc, Nat.zero_mul, Nat.zero_add]
  rfl

/-- The bits put into a field stand in it. -/
theorem putField_livesIn (v : Nat) {f : List (Nat × Nat)} (h : fieldOk f = true) : LivesIn (putField v f) (fieldMask f) := by
  induction f with
  | nil => exact Nat.zero_and 0
  | cons s rest ih =>
    rw [fieldOk, Bool.and_eq_true, beq_iff_eq] at h
    obtain ⟨hs, hrest⟩ := h
    exact (livesIn_segMask _ s).add (ih hrest) ((livesIn_segMask _ s).disjoint (ih hrest) hs)

/-- A field reads back what is put into it, whatever stands outside it. -/
theorem getField_putField (v : Nat) {f : List (Nat × Nat)} (h : fieldOk f = true) (x : Nat) (hx : x &&& fieldMask f = 0) :
    getField (x + putField v f) f = v % 2 ^ fieldWidth f := by
  induction f generalizing x with
  | nil => simp [getField, fieldWidth, Nat.mod_one]
  | cons s rest ih =>
    rw [fieldOk, Bool.and_eq_true, beq_iff_eq] at h
    obtain ⟨hs, hrest⟩ := h
    obtain ⟨hxs, hxrest⟩ := and_eq_zero_of_or hx
    have hseg := livesIn_segMask (v >>> fieldWidth rest) s
    have hput := putField_livesIn v hrest
    have hxseg : x &&& (v >>> fieldWidth rest % 2 ^ s.2) <<< s.1 = 0 := by
      rw [Nat.and_comm]
      exact hseg.and_eq_zero (by rw [Nat.and_comm]; exact hxs)
    have hxput : x &&& putField v rest = 0 := by
      rw [Nat.and_comm]
      exact hput.and_eq_zero (by rw [Nat.and_comm]; exact hxrest)
    have hdisj := hseg.disjoint hput hs
    have hfirst : getSeg (x + putField v (s :: rest)) s = v >>> fieldWidth rest % 2 ^ s.2 := by
      have hbase : x + putField v (s :: rest)
          = x + putField v rest + (v >>> fieldWidth rest % 2 ^ s.2) <<< s.1 := by
        rw [putField]
        omega
      rw [hbase, getSeg_add (add_and_eq_zero hxput hxseg (by rw [Nat.and_comm]; exact hdisj))
        (add_and_eq_zero hxput hxs (hput.and_eq_zero (by rw [Nat.and_comm]; exact hs))), getSeg_shiftLeft]
    have hothers : getField (x + putField v (s :: rest)) rest = v % 2 ^ fieldWidth rest := by
      rw [putField, ← Nat.add_assoc]
      exact ih hrest _ (add_and_eq_zero hxseg hxrest (hseg.and_eq_zero hs))
    have hwidth : fieldWidth (s :: rest) = fieldWidth rest + s.2 := by
      simp [fieldWidth, Nat.add_comm]
    rw [getField_cons, hfirst, hothers, hwidth, Nat.pow_add, Nat.mod_mul, Nat.shiftRight_eq_div_pow, Nat.mul_comm, Nat.add_comm]

/-! ### All fields of a row -/

/-- The bits of some fields. -/
def fieldsMask : List (List (Nat × Nat)) → Nat
  | [] => 0
  | f :: fs => fieldMask f ||| fieldsMask fs

/-- The fields, and the pieces of each, do not overlap. -/
def fieldsOk : List (List (Nat × Nat)) → Bool
  | [] => true
  | f :: fs => fieldOk f && (fieldMask f &&& fieldsMask fs == 0 && fieldsOk fs)

theorem packFields_livesIn {fs : List (List (Nat × Nat))} (h : fieldsOk fs = true) (vs : List Nat) :
    LivesIn (packFields fs vs) (fieldsMask fs) := by
  induction fs generalizing vs with
  | nil => exact Nat.zero_and 0
  | cons f fs ih =>
    rw [fieldsOk, Bool.and_eq_true, Bool.and_eq_true, beq_iff_eq] at h
    obtain ⟨hf, hdisj, hfs⟩ := h
    cases vs with
    | nil => exact Nat.zero_and _
    | cons v vs => exact (putField_livesIn v hf).add (ih hfs vs) ((putField_livesIn v hf).disjoint (ih hfs vs) hdisj)

/-- Every field reads back its value. -/
theorem getFields_packFields {fs : List (List (Nat × Nat))} (h : fieldsOk fs = true) {vs : List Nat}
    (hv : Laws.Encoding.Fits fs vs = true) (x : Nat) (hx : x &&& fieldsMask fs = 0) :
    fs.map (getField (x + packFields fs vs)) = vs := by
  induction fs generalizing vs x with
  | nil =>
    cases vs with
    | nil => rfl
    | cons v vs => cases hv
  | cons f fs ih =>
    rw [fieldsOk, Bool.and_eq_true, Bool.and_eq_true, beq_iff_eq] at h
    obtain ⟨hf, hdisj, hfs⟩ := h
    obtain ⟨hxf, hxfs⟩ := and_eq_zero_of_or hx
    cases vs with
    | nil => cases hv
    | cons v vs =>
      rw [Laws.Encoding.Fits, Bool.and_eq_true, decide_eq_true_iff] at hv
      obtain ⟨hlt, hvs⟩ := hv
      have hput := putField_livesIn v hf
      have hpack := packFields_livesIn hfs vs
      have hxput : x &&& putField v f = 0 := by
        rw [Nat.and_comm]
        exact hput.and_eq_zero (by rw [Nat.and_comm]; exact hxf)
      have hxpack : x &&& packFields fs vs = 0 := by
        rw [Nat.and_comm]
        exact hpack.and_eq_zero (by rw [Nat.and_comm]; exact hxfs)
      have hfirst : getField (x + packFields (f :: fs) (v :: vs)) f = v := by
        rw [packFields, Nat.add_comm (putField v f), ← Nat.add_assoc, getField_putField v hf _
          (add_and_eq_zero hxpack hxf (hpack.and_eq_zero (by rw [Nat.and_comm]; exact hdisj))), Nat.mod_eq_of_lt hlt]
      rw [List.map_cons, hfirst, packFields, ← Nat.add_assoc,
        ih hfs hvs _ (add_and_eq_zero hxput hxfs (hput.and_eq_zero hdisj))]

/-- A row's fixed bits, `*` bits and fields do not overlap, and fit its words. -/
def Row.ok (r : Row) : Bool :=
  fieldsOk r.fields && (r.mat &&& r.mask == r.mat && (r.mask &&& (r.star ||| fieldsMask r.fields) == 0
    && (r.star &&& fieldsMask r.fields == 0 && decide (r.mat ||| r.star ||| fieldsMask r.fields < 2 ^ (16 * r.words)))))

/-- What a row packs matches it, is read back, and fits its words. -/
theorem Row.pack_spec {r : Row} (h : r.ok = true) {vs : List Nat} (hv : Laws.Encoding.Fits r.fields vs = true) :
    r.hits (r.pack vs) = true ∧ r.unpack (r.pack vs) = vs ∧ r.pack vs < 2 ^ (16 * r.words) := by
  simp only [Row.ok, Bool.and_eq_true, beq_iff_eq, decide_eq_true_iff] at h
  obtain ⟨hfields, hmat, hmask, hstar, hlt⟩ := h
  have hpack := packFields_livesIn hfields vs
  have hmat : LivesIn r.mat r.mask := hmat
  obtain ⟨hms, hmf⟩ := and_eq_zero_of_or hmask
  have hmatStar : r.mat &&& r.star = 0 := hmat.and_eq_zero hms
  have hmatFields : r.mat &&& fieldsMask r.fields = 0 := hmat.and_eq_zero hmf
  have hbase : r.mat + r.star &&& fieldsMask r.fields = 0 := add_and_eq_zero hmatStar hmatFields hstar
  have hsum : r.pack vs = r.mat ||| r.star ||| packFields r.fields vs := by
    rw [Row.pack, add_eq_or_of_and_eq_zero _ _ (by
      rw [Nat.and_comm]
      exact hpack.and_eq_zero (by rw [Nat.and_comm]; exact hbase)), add_eq_or_of_and_eq_zero _ _ hmatStar]
  refine ⟨?_, getFields_packFields hfields hv _ hbase, ?_⟩
  · rw [Row.hits, beq_iff_eq, hsum, Nat.and_or_distrib_right, Nat.and_or_distrib_right, hmat, Nat.and_comm r.star, hms,
      hpack.and_eq_zero (by rw [Nat.and_comm]; exact hmf), Nat.or_zero, Nat.or_zero]
  · rw [hsum]
    have hfix : r.mat ||| r.star < 2 ^ (16 * r.words) := lt_of_le_of_lt Nat.left_le_or hlt
    exact Nat.or_lt_two_pow hfix (lt_of_le_of_lt (hpack.le.trans Nat.right_le_or) hlt)

/-! ### The rows of the table -/

theorem rows_ok : ∀ r ∈ rows1 ++ rows2 ++ rows3, r.ok = true := by
  have h : (rows1 ++ rows2 ++ rows3).all Row.ok = true := by decide +kernel
  exact List.all_eq_true.mp h

/-- Any two rows of one length differ in a bit that both fix. -/
theorem rows_apart : [rows1, rows2, rows3].all (fun rows =>
    decide (rows.Pairwise fun r q => (r.mat ^^^ q.mat) &&& r.mask &&& q.mask ≠ 0)) = true := by decide +kernel

/-- The search among rows that are pairwise apart ends at the row that a number matches. -/
theorem find?_hits_of_pairwise {rows : List Row} (hp : rows.Pairwise fun r q => (r.mat ^^^ q.mat) &&& r.mask &&& q.mask ≠ 0)
    {r : Row} (hr : r ∈ rows) {w : Nat} (hw : r.hits w = true) : rows.find? (·.hits w) = some r := by
  obtain ⟨before, after, rfl⟩ := List.append_of_mem hr
  refine List.find?_eq_some_iff_append.mpr ⟨hw, before, after, rfl, fun q hq => ?_⟩
  have hne := (List.pairwise_append.mp hp).2.2 q hq r (List.mem_cons_self ..)
  have hapart : r.apart q = true := by
    rw [Row.apart, bne_iff_ne, Nat.xor_comm, Nat.and_assoc, Nat.and_comm r.mask, ← Nat.and_assoc]
    exact hne
  rw [Row.not_hits_of_apart hapart hw, Bool.not_false]

theorem find?_rows {rows : List Row} (hrows : rows ∈ [rows1, rows2, rows3]) {r : Row} (hr : r ∈ rows) {w : Nat}
    (hw : r.hits w = true) : rows.find? (·.hits w) = some r :=
  find?_hits_of_pairwise (of_decide_eq_true (List.all_eq_true.mp rows_apart rows hrows)) hr hw

/-! ### The words of a row -/

/-- A prefix of one word is told from a row by a bit of the first word. -/
def Row.noPrefix1 (r : Row) : Bool := (r.mat ^^^ 0x90C0) &&& r.mask &&& 0xF1E0 != 0

/-- A prefix of two words is told from a row by a bit of the first two. -/
def Row.noPrefix2 (r : Row) : Bool := (r.mat ^^^ 0xA0003000) &&& r.mask &&& 0xE000F100 != 0

theorem rows_noPrefix1 : ∀ r ∈ rows1 ++ rows2 ++ rows3, r.noPrefix1 = true := by
  have h : (rows1 ++ rows2 ++ rows3).all Row.noPrefix1 = true := by decide +kernel
  exact List.all_eq_true.mp h

theorem rows_noPrefix2 : ∀ r ∈ rows2 ++ rows3, r.noPrefix2 = true := by
  have h : (rows2 ++ rows3).all Row.noPrefix2 = true := by decide +kernel
  exact List.all_eq_true.mp h

/-- The type bits of a row of two words (R152). -/
theorem rows2_tags : ∀ r ∈ rows2, r.mask &&& 0xC000C000 = 0xC000C000 ∧ r.mat &&& 0xC000C000 = 0x80000000 := by
  have h : (rows2.all fun r => r.mask &&& 0xC000C000 == 0xC000C000 && r.mat &&& 0xC000C000 == 0x80000000) = true := by decide +kernel
  intro r hr
  simpa using List.all_eq_true.mp h r hr

/-- The type bits of a row of three words. -/
theorem rows3_tags : ∀ r ∈ rows3, r.mask &&& 0xC000E000C000 = 0xC000E000C000 ∧ r.mat &&& 0xC000E000C000 = 0x800020000000 := by
  have h : (rows3.all fun r => r.mask &&& 0xC000E000C000 == 0xC000E000C000
    && r.mat &&& 0xC000E000C000 == 0x800020000000) = true := by decide +kernel
  intro r hr
  simpa using List.all_eq_true.mp h r hr

/-- A number that matches a row is told from another pattern by a bit that both fix. -/
theorem Row.not_pattern {r : Row} {v : Nat} (h : r.hits v = true) (mask mat : Nat)
    (hne : ((r.mat ^^^ mat) &&& r.mask &&& mask != 0) = true) : (v &&& mask == mat) = false :=
  Row.not_hits_of_apart (q := ⟨1, mask, mat, 0, [], fun _ _ => none⟩) hne h

/-- The bits of a number that a row fixes. -/
theorem Row.fixed_bits {r : Row} {v : Nat} (h : r.hits v = true) {m : Nat} (hm : r.mask &&& m = m) : v &&& m = r.mat &&& m := by
  rw [Row.hits, beq_iff_eq] at h
  rw [← h, Nat.and_assoc, hm]

theorem mod_and_of_lt (v m : Nat) (hm : m &&& 0xFFFF = m) : v % 2 ^ 16 &&& m = v &&& m := by
  rw [← Nat.and_two_pow_sub_one_eq_mod, Nat.and_assoc, Nat.and_comm (2 ^ 16 - 1)]
  exact congrArg (v &&& ·) hm

/-- The first word of a row is no prefix of one word. -/
theorem not_isPrefix1 {r : Row} (hr : r.noPrefix1 = true) {v : Nat} (h : r.hits v = true) : isPrefix1 (v % 2 ^ 16) = false := by
  rw [isPrefix1, mod_and_of_lt v 0xF1E0 (by decide)]
  exact Row.not_pattern h 0xF1E0 0x90C0 hr

/-- The first two words of a row are no prefix of two words. -/
theorem not_isPrefix2 {r : Row} (hr : r.noPrefix2 = true) {v : Nat} (h : r.hits v = true) :
    isPrefix2 (v % 2 ^ 16) (v / 2 ^ 16 % 2 ^ 16) = false := by
  have hne := Row.not_pattern h 0xE000F100 0xA0003000 hr
  rw [beq_eq_false_iff_ne] at hne
  rw [isPrefix2, mod_and_of_lt v 0xF100 (by decide), mod_and_of_lt (v / 2 ^ 16) 0xE000 (by decide), Bool.and_eq_false_iff,
    beq_eq_false_iff_ne, beq_eq_false_iff_ne]
  by_contra hboth
  rw [not_or, not_not, not_not] at hboth
  obtain ⟨hlow, hhigh⟩ := hboth
  apply hne
  have hmod : (v &&& 0xE000F100) % 2 ^ 16 = 0x3000 := by
    rw [← hlow, ← mod_and_of_lt v 0xF100 (by decide), Nat.and_mod_two_pow]
  have hdiv : (v &&& 0xE000F100) / 2 ^ 16 = 0xA000 := by
    rw [← hhigh, Nat.and_div_two_pow]
  omega

theorem top2_eq (w : Nat) : top2 w = (w &&& 0xC000) / 2 ^ 14 := by
  rw [top2, Nat.and_div_two_pow]
  exact (Nat.and_two_pow_sub_one_eq_mod (w / 2 ^ 14) 2).symm

theorem top3_eq (w : Nat) : top3 w = (w &&& 0xE000) / 2 ^ 13 := by
  rw [top3, Nat.and_div_two_pow]
  exact (Nat.and_two_pow_sub_one_eq_mod (w / 2 ^ 13) 3).symm

/-- A one-word row decodes the words that it matches. -/
theorem decodeWords_row1 {r : Row} (hr : r ∈ rows1) {v : Nat} (h : r.hits v = true) (hv : v < 2 ^ 16) {k : Bank} {i : Instr}
    (hb : r.build k (r.unpack v) = some i) : decodeWords k (cutWords 1 v) = some (named i, 1) := by
  have hmod : v % 2 ^ 16 = v := Nat.mod_eq_of_lt hv
  have hnp := not_isPrefix1 (rows_noPrefix1 r (by simp [hr])) h
  have hfind : findRow [v] = some (r, v) := by
    rw [findRow_single, find?_rows (List.mem_cons_self ..) hr h]
    rfl
  rw [cutWords, cutWords, hmod, decodeWords]
  rw [hmod] at hnp
  simp only [hnp, Bool.false_eq_true, if_false, decodeAt, hfind, hb, rows1_words r hr]

/-- A two-word row. -/
theorem decodeWords_row2 {r : Row} (hr : r ∈ rows2) {v : Nat} (h : r.hits v = true) (hv : v < 2 ^ 32) {k : Bank} {i : Instr}
    (hb : r.build k (r.unpack v) = some i) : decodeWords k (cutWords 2 v) = some (named i, 2) := by
  have hnp1 := not_isPrefix1 (rows_noPrefix1 r (by simp [hr])) h
  have hnp2 := not_isPrefix2 (rows_noPrefix2 r (by simp [hr])) h
  obtain ⟨hmask, hmat⟩ := rows2_tags r hr
  have hfix := (Row.fixed_bits h hmask).trans hmat
  have hlow : top2 (v % 2 ^ 16) = 0 := by
    have hmod := congrArg (· % 2 ^ 16) hfix
    rw [Nat.and_mod_two_pow] at hmod
    rw [top2_eq]
    exact congrArg (· / 2 ^ 14) hmod
  have hhigh : top2 (v / 2 ^ 16 % 2 ^ 16) = 2 := by
    have hdiv := congrArg (· / 2 ^ 16) hfix
    rw [Nat.and_div_two_pow] at hdiv
    rw [top2_eq, mod_and_of_lt _ _ (by decide)]
    exact congrArg (· / 2 ^ 14) hdiv
  have hjoin : v % 2 ^ 16 + v / 2 ^ 16 % 2 ^ 16 * 2 ^ 16 = v := by omega
  have hfind : findRow [v % 2 ^ 16, v / 2 ^ 16 % 2 ^ 16] = some (r, v) := by
    have htwo : findTwo [v % 2 ^ 16, v / 2 ^ 16 % 2 ^ 16] = some (r, v) := by
      simp only [findTwo, hlow, hhigh, hjoin, and_self, if_true, find?_rows (by simp) hr h, Option.map_some]
    simp only [findRow, findThree, htwo]
  simp only [cutWords, decodeWords, hnp1, hnp2, Bool.false_eq_true, if_false, decodeAt, hfind, hb, rows2_words r hr]

/-- A three-word row. -/
theorem decodeWords_row3 {r : Row} (hr : r ∈ rows3) {v : Nat} (h : r.hits v = true) (hv : v < 2 ^ 48) {k : Bank} {i : Instr}
    (hb : r.build k (r.unpack v) = some i) : decodeWords k (cutWords 3 v) = some (named i, 3) := by
  have hnp1 := not_isPrefix1 (rows_noPrefix1 r (by simp [hr])) h
  have hnp2 := not_isPrefix2 (rows_noPrefix2 r (by simp [hr])) h
  obtain ⟨hmask, hmat⟩ := rows3_tags r hr
  have hfix := (Row.fixed_bits h hmask).trans hmat
  have hfirst : top2 (v % 2 ^ 16) = 0 := by
    have hmod := congrArg (· % 2 ^ 16) hfix
    rw [Nat.and_mod_two_pow] at hmod
    rw [top2_eq]
    exact congrArg (· / 2 ^ 14) hmod
  have hsecond : top3 (v / 2 ^ 16 % 2 ^ 16) = 1 := by
    have hdiv := congrArg (· / 2 ^ 16 % 2 ^ 16) hfix
    rw [Nat.and_div_two_pow, Nat.and_mod_two_pow] at hdiv
    rw [top3_eq]
    exact congrArg (· / 2 ^ 13) hdiv
  have hthird : top2 (v / 2 ^ 16 / 2 ^ 16 % 2 ^ 16) = 2 := by
    have hdiv := congrArg (· / 2 ^ 32) hfix
    rw [Nat.and_div_two_pow] at hdiv
    rw [Nat.div_div_eq_div_mul, top2_eq, mod_and_of_lt _ _ (by decide)]
    exact congrArg (· / 2 ^ 14) hdiv
  have hjoin : v % 2 ^ 16 + v / 2 ^ 16 % 2 ^ 16 * 2 ^ 16 + v / 2 ^ 16 / 2 ^ 16 % 2 ^ 16 * 2 ^ 32 = v := by omega
  have hfind : findRow [v % 2 ^ 16, v / 2 ^ 16 % 2 ^ 16, v / 2 ^ 16 / 2 ^ 16 % 2 ^ 16] = some (r, v) := by
    have hthree : findThree [v % 2 ^ 16, v / 2 ^ 16 % 2 ^ 16, v / 2 ^ 16 / 2 ^ 16 % 2 ^ 16] = some (r, v) := by
      simp only [findThree, hfirst, hsecond, hthird, hjoin, and_self, if_true, find?_rows (by simp) hr h, Option.map_some]
    simp only [findRow, hthree]
  simp only [cutWords, decodeWords, hnp1, hnp2, Bool.false_eq_true, if_false, decodeAt, hfind, hb, rows3_words r hr]

end Sys2Proof

namespace Sys2Proof.Machine

/-- Settles O3: the words are evaluated, and the rows of each length compared two by two. -/
theorem decodeReadsTheWordsOfTheSpec : Obligations.DecodeReadsTheWordsOfTheSpec := by
  refine ⟨?_, ?_, ?_, ?_, ?_, ?_, ?_, ?_, ?_, ?_, ?_, ?_, ?_, ?_, ?_, ?_, rows_apart⟩
  all_goals decide +kernel

end Sys2Proof.Machine
end

section
/-! PROOF. O4, decoding of encoding, in three layers: every operand code is read back as the operand; a core instruction's row builds
it again from its field values; and a row decodes the words it packs (the rows' own facts). Prefix words are read back bit by
bit. -/

namespace Sys2Proof

/-! ### Operands are read back from their codes -/

@[simp] theorem regOf_regCode (n : Fin 16) : regOf (regHigh n) (regCode n) = n := by revert n; decide

theorem regOf_of_mod_eq {n : Fin 16} {c : Nat} (h : n.val % 8 = c) : regOf (regHigh n) c = n := h ▸ regOf_regCode n

theorem pairOf_pairCode {a b : DReg} (h : pairOk a b = true) : pairOf (regHigh a) (regHigh b) (pairCode a b) = (a, b) := by
  have hmem : (regCode a, regCode b) ∈ pairTable := by simpa [pairOk, regCode] using h
  have hget : pairTable[pairCode a b]? = some (regCode a, regCode b) := List.getElem?_idxOf hmem
  simp only [pairOf, hget, Option.getD_some, regOf_regCode]

theorem sameOf_sameCode {a b : DReg} (h : sameOk a b = true) : sameOf (regHigh a) (regHigh b) (sameCode a) = (a, b) := by
  obtain ⟨hab, hodd⟩ : a.val % 8 = b.val % 8 ∧ a.val % 2 = 1 := by simpa [sameOk] using h
  have ha : a.val % 8 = 2 * sameCode a + 1 := by unfold sameCode regCode; omega
  rw [sameOf, regOf_of_mod_eq ha, regOf_of_mod_eq (hab ▸ ha)]

theorem eeOf_eeCode {c d : DReg} (h : eeOk c d = true) : eeOf (regHigh c) (regHigh d) (eeCode c) = (c, d) := by
  obtain ⟨heven, hd⟩ : c.val % 2 = 0 ∧ d.val % 8 = c.val % 8 + 1 := by simpa [eeOk] using h
  have hc : c.val % 8 = 2 * eeCode c := by unfold eeCode regCode; omega
  rw [eeOf, regOf_of_mod_eq hc, regOf_of_mod_eq (hc ▸ hd)]

theorem ggOf_ggCode {g h : DReg} (ok : ggOk g h = true) : ggOf (regHigh g) (regHigh h) (ggCode g) = (g, h) := by
  obtain ⟨hlow, hh⟩ : g.val % 8 < 4 ∧ h.val % 8 = g.val % 8 + 4 := by simpa [ggOk] using ok
  have hg : g.val % 8 = ggCode g % 4 := by unfold ggCode regCode; omega
  rw [ggOf, regOf_of_mod_eq hg, regOf_of_mod_eq (hg ▸ hh)]

@[simp] theorem drOf_drCode (x : DR) : drOf (drHigh x) (drCode x) = x := by
  cases x with
  | d n => revert n; decide
  | r n => revert n; decide

@[simp] theorem c4Of_c4Code (x : C4) : c4Of (c4High x) (c4Code x) = x := by
  cases x with
  | d n | r n | b n | n n | m n => revert n; decide

@[simp] theorem c3Of_c3Code (x : C3) : c3Of (c3Code x) = x := by
  cases x with
  | b n | n n | m n => revert n; decide

@[simp] theorem c1Of_c1Code (x : C1) : c1Of (c1Code x) = some x := by cases x <;> decide

@[simp] theorem c2Of_c2Code (x : C2) : c2Of (c2Code x) = some x := by
  cases x with
  | emr | vba | sr | mctl => rfl
  | sa n | lc n => revert n; decide

@[simp] theorem rxOf_rxCode (x : Rx) : rxOf (rxHigh x) (rxCode x) = some x := by
  cases x with
  | n n | r n => revert n; decide
  | sp => rfl

@[simp] theorem rxSrcOf_rxSrcCode (x : RxSrc) : rxSrcOf (rxSrcHigh x) (rxSrcCode x) = some x := by
  cases x with
  | n n | r n => revert n; decide
  | sp | pc => rfl

@[simp] theorem eaOf_eaCode (x : EaMode) : eaOf (eaCode x) = x := by
  cases x with
  | indexN0 | postDec | plain | postInc => rfl
  | postN n => revert n; decide

@[simp] theorem pair8Of_pair8Code (p : Pair) : pair8Of (pair8High p) (pair8Code p) = p := by revert p; decide

@[simp] theorem quadOf_quadCode (q : Quad) : quadOf (quadHigh q) (quadCode q) = q := by revert q; decide

@[simp] theorem evenOf_evenCode (x : PushEven) : evenOf (evenHigh x) (evenCode x) = some x := by
  cases x with
  | d n | b n | ext n | r n | n n | m n | sa n | extPair n => revert n; decide

@[simp] theorem oddOf_oddCode (x : PushOdd) : oddOf (oddHigh x) (oddCode x) = some x := by
  cases x with
  | vba | sr | mctl => rfl
  | d n | b n | ext n | r n | n n | m n | lc n => revert n; decide

@[simp] theorem dirOf_dirCode (x : Dir) : dirOf (dirCode x) = x := by cases x <;> rfl

@[simp] theorem halfOf_halfCode (x : Half) : halfOf (halfCode x) = x := by cases x <;> rfl

@[simp] theorem candOf_val (c : Fin 3) : candOf c.val = some c := by simp [candOf]

@[simp] theorem toNat_beq_one (b : Bool) : (b.toNat == 1) = b := by cases b <;> rfl

@[simp] theorem ofNat_val_four (k : Fin 4) : Fin.ofNat 4 k.val = k := by revert k; decide

@[simp] theorem ofNat_val_eight (k : Fin 8) : Fin.ofNat 8 k.val = k := by revert k; decide

/-- The MM code of a mode that the two-bit field has. -/
theorem eaShortOf_eaShortCode {em : EaMode} {rn : RReg} {forms : List MemForm} (hm : (Mem.ea em rn).among forms = true)
    (hforms : forms.contains .ea = false) : eaShortOf (eaShortCode em) = em := by
  cases em with
  | postN k => exact absurd (hforms.symm.trans hm) Bool.false_ne_true
  | indexN0 | postDec | plain | postInc => rfl

/-! ### A core instruction's row builds it from its field values -/

/-- The rows of a length. -/
def rowsOf : Nat → List Row
  | 1 => rows1
  | 2 => rows2
  | _ => rows3

/-- A core instruction's row stands in the table, and builds the instruction from its bank bits and field values. -/
def Builds (i : Instr) : Prop :=
  ∀ e, encodingOf i = some e → e.row ∈ rowsOf e.row.words ∧ e.row.build e.bank e.vals = some i

theorem Builds.of {i j : Instr} {r : Row} {k : Bank} {vals : List Nat} (he : encodingOf i = some ⟨r, k, vals⟩)
    (hlead : r.LeadsIn (rowsOf r.words)) (hb : r.build k vals = some j) (hj : j = i) : Builds i := by
  rintro e he'
  obtain rfl : ⟨r, k, vals⟩ = e := Option.some.inj (he.symm.trans he')
  exact ⟨List.mem_of_find?_eq_some hlead, hj ▸ hb⟩

/-- A row whose operand code can be unassigned. -/
theorem Builds.of_map {α : Type} {i : Instr} {r : Row} {k : Bank} {vals : List Nat} {o : Option α} {f : α → Instr} {x : α}
    (he : encodingOf i = some ⟨r, k, vals⟩) (hlead : r.LeadsIn (rowsOf r.words)) (hb : r.build k vals = o.map f) (ho : o = some x)
    (hf : f x = i) : Builds i :=
  .of he hlead (hb.trans (by rw [ho]; rfl)) hf

/-- A row with two such operands. -/
theorem Builds.of_bind {i : Instr} {r : Row} {k : Bank} {vals : List Nat} {src : RxSrc} {x : Rx} {f : RxSrc → Rx → Instr}
    (he : encodingOf i = some ⟨r, k, vals⟩) (hlead : r.LeadsIn (rowsOf r.words))
    (hb : r.build k vals
      = (rxSrcOf (rxSrcHigh src) (rxSrcCode src)).bind fun a => (rxOf (rxHigh x) (rxCode x)).map fun b => f a b)
    (hf : f src x = i) : Builds i :=
  .of he hlead (hb.trans (by rw [rxSrcOf_rxSrcCode, rxOf_rxCode]; rfl)) hf

/-- A row whose operand is no stack pointer. -/
theorem Builds.of_not_sp {i : Instr} {r : Row} {k : Bank} {vals : List Nat} {x : Rx} {f : Rx → Instr}
    (he : encodingOf i = some ⟨r, k, vals⟩) (hlead : r.LeadsIn (rowsOf r.words))
    (hb : r.build k vals = (rxOf (rxHigh x) (rxCode x)).bind fun a => if a = .sp then none else some (f a))
    (hx : (x != .sp) = true) (hf : f x = i) : Builds i :=
  .of he hlead (hb.trans (by rw [rxOf_rxCode]; exact if_neg (by simpa using hx))) hf

theorem Builds.of_none {i : Instr} (h : encodingOf i = none) : Builds i := fun e he => by simp [h] at he

/-! The moves with a memory operand have a row for each of the operand's forms. -/

theorem builds_movebLoad {m : Mem} {dr : DR} (h : (Instr.movebLoad m dr).WF = true) : Builds (.movebLoad m dr) := by
  cases m with
  | ea em rn => exact .of rfl rfl rfl (by rw [eaShortOf_eaShortCode h rfl]; simp)
  | abs16 | sp => exact .of rfl rfl rfl (by simp)
  | disp | short | index | abs32 | spShort => exact .of_none rfl

theorem builds_movebStore {m : Mem} {dr : DR} (h : (Instr.movebStore dr m).WF = true) : Builds (.movebStore dr m) := by
  cases m with
  | ea em rn => exact .of rfl rfl rfl (by rw [eaShortOf_eaShortCode h rfl]; simp)
  | disp | abs16 | abs32 | sp => exact .of rfl rfl rfl (by simp)
  | short | index | spShort => exact .of_none rfl

theorem builds_movefLoad {m : Mem} {b : DReg} : Builds (.movefLoad m b) := by
  cases m with
  | ea | disp | abs16 | abs32 | sp => exact .of rfl rfl rfl (by simp)
  | short | index | spShort => exact .of_none rfl

theorem builds_movefStore {m : Mem} {b : DReg} (h : (Instr.movefStore b m).WF = true) : Builds (.movefStore b m) := by
  cases m with
  | ea em rn => exact .of rfl rfl rfl (by rw [eaShortOf_eaShortCode h rfl]; simp)
  | disp | short | index | abs16 | abs32 | sp | spShort => exact .of_none rfl

theorem builds_movel {dir : Dir} {m : Mem} {dr : DR} : Builds (.movel dir m dr) := by
  cases m with
  | ea | disp | short | index | abs32 | spShort => exact .of rfl rfl rfl (by simp)
  | abs16 | sp => exact .of_none rfl

theorem builds_movelC4Mem {dir : Dir} {m : Mem} {c : C4} : Builds (.movelC4Mem dir m c) := by
  cases m with
  | abs16 | sp => exact .of rfl rfl rfl (by simp)
  | ea | disp | short | index | abs32 | spShort => exact .of_none rfl

theorem builds_movew {dir : Dir} {m : Mem} {dr : DR} : Builds (.movew dir m dr) := by
  cases m with
  | ea | disp | short | index | abs32 | spShort => exact .of rfl rfl rfl (by simp)
  | abs16 | sp => exact .of_none rfl

theorem builds_movewC4Mem {dir : Dir} {m : Mem} {c : C4} : Builds (.movewC4Mem dir m c) := by
  cases m with
  | abs16 | sp => exact .of rfl rfl rfl (by simp)
  | ea | disp | short | index | abs32 | spShort => exact .of_none rfl

theorem builds_movesf {m : Mem} {b : DReg} : Builds (.movesf b m) := by
  cases m with
  | ea | disp | abs16 | abs32 | sp => exact .of rfl rfl rfl (by simp)
  | short | index | spShort => exact .of_none rfl

theorem builds_moveub {m : Mem} {dr : DR} (h : (Instr.moveub m dr).WF = true) : Builds (.moveub m dr) := by
  cases m with
  | ea em rn => exact .of rfl rfl rfl (by rw [eaShortOf_eaShortCode h rfl]; simp)
  | disp | abs16 | abs32 | sp => exact .of rfl rfl rfl (by simp)
  | short | index | spShort => exact .of_none rfl

theorem builds_moveuwC4 {m : Mem} {c : C4} : Builds (.moveuwC4 m c) := by
  cases m with
  | abs16 | sp => exact .of rfl rfl rfl (by simp)
  | ea | disp | short | index | abs32 | spShort => exact .of_none rfl

theorem builds_moveuw {m : Mem} {dr : DR} : Builds (.moveuw m dr) := by
  cases m with
  | ea | disp | abs32 => exact .of rfl rfl rfl (by simp)
  | short | index | abs16 | sp | spShort => exact .of_none rfl

theorem builds_of_wf {i : Instr} (h : i.WF = true) : Builds i := by
  cases i with
  | abs | addImm | add2 | addnc | adr | asr | cmpeq | cmpeqU | cmpeqS | cmpgt | cmpgtU | cmpgtS | cmphi | decge | div | iaddnc
    | incListed | incF | neg | rnd | satL | sbr | subImm | sub2 | subl | subnc | tfr | tfrf | tfrt | tsteq | tstge | imaclhuu
    | imacus | impyW | impyhluu | impysu | impyuu | macImm | andImmLow | andImmHigh | andReg | asllImm | asllReg | aslw
    | asrrImm | asrrReg | asrw | clb | eorReg | extractImm | extractReg | extractuImm | extractuReg | insertImm | insertReg
    | lsll | lsr | lsrrImm | lsrrReg | lsrw | notReg | orReg | rol | ror | sxtB | sxtL | sxtW | zxtB | zxtL | zxtW | tfraFromOsp
    | tfraToOsp | move2f | move2l | move2w | move4f | move4w | movefImm | movelImmC4 | movelC4 | movelC3 | movewImm7
    | movewImm16 | movewC3 | movet | movef | moves2f | moves4f | moveslEa | moveulImm | moveuwHigh | moveuwLow | vsl2f | vsl2w
    | vsl4f | vsl4w | bmclrDr | bmsetDr | bmchgDr | bmtstcDr | bmtstsDr | bmtsetDr | break_ | skipls | contd | cont | dosetup =>
    exact .of rfl rfl rfl (by simp)
  | addReg | subReg | subRegSwap | imac | impy | mac | macr | mpy | mpyr =>
    exact .of rfl rfl rfl (by rw [pairOf_pairCode h]; simp)
  | addSame | subSame | imacSame | impySame | macSame | macrSame | mpySame | mpyrSame =>
    exact .of rfl rfl rfl (by rw [sameOf_sameCode h]; simp)
  | macsu | macus | macuu | mpysu | mpyus | mpyuu =>
    exact .of rfl rfl rfl (by rw [eeOf_eeCode h]; simp)
  | sbc =>
    exact .of rfl rfl rfl (by rw [eeOf_eeCode h])
  | max | min =>
    exact .of rfl rfl rfl (by rw [ggOf_ggCode h])
  | max2vitA | max2vitB =>
    obtain ⟨ha, hb⟩ := Bool.and_eq_true_iff.mp h
    exact .of rfl rfl rfl (by rw [regOf_of_mod_eq (beq_iff_eq.mp ha), regOf_of_mod_eq (beq_iff_eq.mp hb)])
  | rte | rted | rts | rtsd | rtstk | rtstkd | trap | debug | debugev | di | ei | mark | stop | wait =>
    exact .of rfl rfl rfl rfl
  | asl2a | asla | asra | lsra | sxtaW | tsteqaL | tsteqaW | tstgeaL | tstgta | zxtaW | addaImm | subaImm =>
    exact .of_map rfl rfl rfl (rxOf_rxCode _) (by simp)
  | addaImm16 =>
    exact .of_map rfl rfl rfl (rxSrcOf_rxSrcCode _) (by simp)
  | addaReg | addl1a | addl2a | cmpeqa | cmpgta | cmphia | subaReg | sxtaB | tfra | zxtaB =>
    exact .of_bind rfl rfl rfl rfl
  | deceqa | decgea =>
    exact .of_not_sp rfl rfl rfl h rfl
  | movelImmC1 | bmclrC1 | bmsetC1 | bmchgC1 | bmtstcC1 | bmtstsC1 =>
    exact .of_map rfl rfl rfl (c1Of_c1Code _) (by simp)
  | movelC2 =>
    exact .of_map rfl rfl rfl (c2Of_c2Code _) (by simp)
  | popEven | popnEven | pushEven | pushnEven =>
    exact .of_map rfl rfl rfl (evenOf_evenCode _) rfl
  | popOdd | popnOdd | pushOdd | pushnOdd =>
    exact .of_map rfl rfl rfl (oddOf_oddCode _) rfl
  | illegal =>
    exact .of_map rfl rfl rfl (candOf_val _) rfl
  | movebLoad =>
    exact builds_movebLoad h
  | movebStore =>
    exact builds_movebStore h
  | movefLoad =>
    exact builds_movefLoad
  | movefStore =>
    exact builds_movefStore h
  | movel =>
    exact builds_movel
  | movelC4Mem =>
    exact builds_movelC4Mem
  | movew =>
    exact builds_movew
  | movewC4Mem =>
    exact builds_movewC4Mem
  | movesf =>
    exact builds_movesf
  | moveub =>
    exact builds_moveub h
  | moveuwC4 =>
    exact builds_moveuwC4
  | moveuw =>
    exact builds_moveuw
  | bmclrMem imm ea | bmsetMem imm ea | bmchgMem imm ea | bmtstcMem imm ea | bmtstsMem imm ea | bmtsetMem imm ea
    | movewImmMem imm ea =>
    cases ea with
    | rn | spShort | abs16 | sp => exact .of rfl rfl rfl (by simp)
  | movelExtEven ea reg | movelExtOdd ea reg | movelExtStore reg ea =>
    cases ea with
    | sp | abs32 => exact .of rfl rfl rfl (by simp)
  | brad target | bra target | bsrd target | bsr target | btd target | bt target | bfd target | bf target =>
    cases target with
    | short | long => exact .of rfl rfl rfl (by simp)
  | jmpd target | jmp target | jsrd target | jsr target | jtd target | jt target | jfd target | jf target =>
    cases target with
    | abs | reg => exact .of rfl rfl rfl (by simp)
  | doen loop count | doensh loop count =>
    cases count with
    | u6 | u16 | reg => exact .of rfl rfl rfl (by simp)
  | asl | clr | inc | deca | inca | andDr | andMem | eorDr | eorMem | notDr | notMem | orDr | orMem | nop | prefix1 | prefix2
    | ifa | iff | ift | lpmarka | lpmarkb =>
    exact .of_none rfl

end Sys2Proof
end

section
/-! PROOF. O4: a row decodes the words that it packs, and a prefix's words are read back piece by piece. -/

namespace Sys2Proof.Laws.Encoding

/-- The family's lemmas, one per constructor in the constructors' order, speak of every instruction. -/
theorem of_every (i : Instr) : Statement i :=
  Instr.casesOn (motive := Statement) i
    abs addImm addReg addSame add2 addnc adr asl asr clr cmpeq cmpeqU cmpeqS cmpgt cmpgtU cmpgtS cmphi decge div iaddnc inc
    incListed incF max max2vitA max2vitB min neg rnd satL sbc sbr subImm subReg subRegSwap subSame sub2 subl subnc tfr tfrf
    tfrt tsteq tstge imac imacSame imaclhuu imacus impy impySame impyW impyhluu impysu impyuu mac macSame macImm macr
    macrSame macsu macus macuu mpy mpySame mpyr mpyrSame mpysu mpyus mpyuu andImmLow andImmHigh andReg asllImm asllReg aslw
    asrrImm asrrReg asrw clb eorReg extractImm extractReg extractuImm extractuReg insertImm insertReg lsll lsr lsrrImm
    lsrrReg lsrw notReg orReg rol ror sxtB sxtL sxtW zxtB zxtL zxtW addaImm addaImm16 addaReg addl1a addl2a asl2a asla asra
    cmpeqa cmpgta cmphia deca deceqa decgea inca lsra subaImm subaReg sxtaB sxtaW tfra tfraFromOsp tfraToOsp tsteqaL tsteqaW
    tstgeaL tstgta zxtaB zxtaW move2f move2l move2w move4f move4w movebLoad movebStore movefImm movefLoad movefStore
    movelImmC4 movelImmC1 movelC4 movelC2 movelExtEven movelExtStore movelExtOdd movel movelC4Mem movelC3 movewImm7
    movewImm16 movewImmMem movew movewC4Mem movewC3 movet movef moves2f moves4f movesf moveslEa moveub moveulImm moveuwHigh
    moveuwLow moveuwC4 moveuw vsl2f vsl2w vsl4f vsl4w popEven popOdd popnEven popnOdd pushEven pushOdd pushnEven pushnOdd
    bmclrDr bmclrC1 bmclrMem bmsetDr bmsetC1 bmsetMem bmchgDr bmchgC1 bmchgMem bmtstcDr bmtstcC1 bmtstcMem bmtstsDr bmtstsC1
    bmtstsMem bmtsetDr bmtsetMem andDr andMem eorDr eorMem notDr notMem orDr orMem brad bra bsrd bsr btd bt bfd bf jmpd jmp
    jsrd jsr jtd jt jfd jf break_ skipls contd cont dosetup doen doensh illegal prefix1 prefix2 ifa iff ift lpmarka lpmarkb
    rte rted rts rtsd rtstk rtstkd trap debug debugev di ei mark stop wait nop

end Sys2Proof.Laws.Encoding

namespace Sys2Proof

/-! ### Instructions with a row -/

theorem pairOk_self {a : DReg} (h : a.val % 2 = 0) : pairOk a a = true := by revert a; decide

theorem sameOk_self {a : DReg} (h : ¬ a.val % 2 = 0) : sameOk a a = true := by revert a; decide

/-- The core of a well-formed instruction is well-formed. -/
theorem wf_coreOf {i : Instr} (h : i.WF = true) : (coreOf i).WF = true := by
  cases i with
  | asl a n | clr a n =>
    rw [coreOf]
    split
    · exact pairOk_self ‹_›
    · exact sameOk_self ‹_›
  | inc | deca | inca | andDr | eorDr | notDr | orDr | andMem | eorMem | notMem | orMem => rfl
  | _ => exact h

/-- A row of any length decodes the words that it packs. -/
theorem decodeWords_pack {r : Row} (hwords : r.words = 1 ∨ r.words = 2 ∨ r.words = 3) (hr : r ∈ rowsOf r.words) {vals : List Nat}
    (hfits : Laws.Encoding.Fits r.fields vals = true) {k : Bank} {i : Instr} (hb : r.build k vals = some i) :
    decodeWords k (cutWords r.words (r.pack vals)) = some (named i, r.words) := by
  have hall : r ∈ rows1 ++ rows2 ++ rows3 := by
    rcases hwords with h | h | h <;> rw [h] at hr <;> simp only [List.mem_append]
    · exact .inl (.inl hr)
    · exact .inl (.inr hr)
    · exact .inr hr
  obtain ⟨hhits, hunpack, hlt⟩ := Row.pack_spec (rows_ok r hall) hfits
  rw [← hunpack] at hb
  rcases hwords with h | h | h <;> rw [h] at hr hlt ⊢
  · exact decodeWords_row1 hr hhits hlt hb
  · exact decodeWords_row2 hr hhits hlt hb
  · exact decodeWords_row3 hr hhits hlt hb

theorem length_cutWords (n v : Nat) : (cutWords n v).length = n := by
  induction n generalizing v with
  | zero => rfl
  | succ n ih => rw [cutWords, List.length_cons, ih]

theorem decode_encode_row {i : Instr} (h : i.WF = true) {e : Encoding} (hp : prefixWords i = none)
    (he : encodingOf (coreOf i) = some e) (hwords : e.row.words = 1 ∨ e.row.words = 2 ∨ e.row.words = 3)
    (hfits : Laws.Encoding.Fits e.row.fields e.vals = true) :
    decodeWords (bankOf i) (encode i) = some (i.canon, (encode i).length) := by
  obtain ⟨hmem, hbuild⟩ := builds_of_wf (wf_coreOf h) e he
  have hencode : encode i = cutWords e.row.words (e.row.pack e.vals) := by simp only [encode, hp, he]
  have hbank : bankOf i = e.bank := by simp only [bankOf, he]
  rw [hencode, hbank, length_cutWords]
  exact decodeWords_pack hwords hmem hfits hbuild

/-! ### Prefix words -/

/-- A mask cut in two at a bit. -/
theorem and_eq_split {m k hi lo : Nat} (hhi : m / 2 ^ k = hi) (hlo : m % 2 ^ k = lo) (x : Nat) :
    x &&& m = (x / 2 ^ k &&& hi) * 2 ^ k + (x % 2 ^ k &&& lo) := by
  rw [← hhi, ← hlo, ← Nat.and_div_two_pow, ← Nat.and_mod_two_pow, Nat.div_add_mod']

/-- The high byte of a two-word prefix's first word is `0011 aaa0`. -/
theorem prefix_highByte {a : Nat} (ha : a < 8) : (0x30 + 2 * a) &&& 0xF1 = 0x30 := by
  interval_cases a <;> rfl

theorem isPrefix_two {w x a : Nat} (ha : a < 8) (hw : w / 2 ^ 8 = 0x30 + 2 * a) (hx : x / 2 ^ 13 = 5) :
    isPrefix1 w = false ∧ isPrefix2 w x = true := by
  have hw2 : w &&& 0xF100 = 0x3000 := by
    rw [and_eq_split (k := 8) (hi := 0xF1) (lo := 0) rfl rfl, hw, prefix_highByte ha, Nat.and_zero]
    rfl
  have hx2 : x &&& 0xE000 = 0xA000 := by
    rw [and_eq_split (k := 13) (hi := 7) (lo := 0) rfl rfl, hx, Nat.and_zero]
    rfl
  have hw1 : w &&& 0xF1E0 ≠ 0x90C0 := by
    rw [and_eq_split (k := 8) (hi := 0xF1) (lo := 0xE0) rfl rfl, hw, prefix_highByte ha]
    have hlow : w % 2 ^ 8 &&& 0xE0 ≤ 0xE0 := Nat.and_le_right
    omega
  constructor
  · simpa [isPrefix1] using hw1
  · simp [isPrefix2, hw2, hx2]

theorem testBit_of_div_mod {w i : Nat} {b : Bool} (h : w / 2 ^ i % 2 = b.toNat) : w.testBit i = b := by
  rw [Nat.testBit_eq_decide_div_mod_eq, h]
  cases b <;> rfl

theorem ofNat_three_of_mod {n : Nat} {x : BitVec 3} (h : n % 8 = x.toNat) : BitVec.ofNat 3 n = x := by
  apply BitVec.eq_of_toNat_eq
  rw [BitVec.toNat_ofNat, ← h]

/-- The pieces of a two-word prefix's words. -/
theorem prefix2_pieces {a b15 b14 b13 b12 e l p j c w x : Nat} (h15 : b15 < 2) (h14 : b14 < 2) (h13 : b13 < 2)
    (h12 : b12 < 2) (he : e < 16) (hl : l < 256) (hp : p < 2) (hj : j < 2) (hc : c < 8)
    (hw : w = 0x3000 + a * 2 ^ 9 + b15 * 2 ^ 7 + b12 * 2 ^ 6 + b14 * 2 ^ 5 + p * 2 ^ 4 + j * 2 ^ 3 + c)
    (hx : x = 0xA000 + e * 2 ^ 9 + b13 * 2 ^ 8 + l) :
    (w / 2 ^ 9 = 24 + a ∧ w / 2 ^ 4 % 2 = p ∧ w / 2 ^ 3 % 2 = j ∧ w % 8 = c)
      ∧ (w / 2 ^ 7 % 2 = b15 ∧ w / 2 ^ 5 % 2 = b14 ∧ x / 2 ^ 8 % 2 = b13 ∧ w / 2 ^ 6 % 2 = b12)
      ∧ w / 2 ^ 8 = 0x30 + 2 * a ∧ x / 2 ^ 13 = 5 ∧ x / 2 ^ 9 % 16 = e ∧ x % 2 ^ 8 = l := by
  omega

/-- Sixteen bits in the pieces that a two-word prefix puts them in. -/
theorem exists_pieces {n : Nat} (hn : n < 2 ^ 16) : ∃ a b c d e f, a < 2 ∧ b < 2 ∧ c < 2 ∧ d < 2 ∧ e < 16 ∧ f < 256
    ∧ n = a * 2 ^ 15 + b * 2 ^ 14 + c * 2 ^ 13 + d * 2 ^ 12 + e * 2 ^ 8 + f :=
  ⟨n / 2 ^ 15, n / 2 ^ 14 % 2, n / 2 ^ 13 % 2, n / 2 ^ 12 % 2, n / 2 ^ 8 % 16, n % 2 ^ 8, by omega⟩

/-- The words of a two-word prefix are read back piece by piece. -/
theorem decode_prefix2 {k : Bank} {aaa : BitVec 3} {hb : BitVec 16} {p j : Bool} {ccc : BitVec 3}
    (h : (Instr.prefix2 aaa hb p j ccc).WF = true) :
    decodeWords k (encode (.prefix2 aaa hb p j ccc)) = some (.prefix2 aaa hb p j ccc, 2) := by
  obtain ⟨b15, b14, b13, b12, e, l, h15, h14, h13, h12, he, hl, hbits⟩ := exists_pieces hb.isLt
  obtain ⟨e15, e14, e13, e12⟩ := top_bits h15 h14 h13 h12 he hl hbits
  have htop : hb.toNat / 2 ^ 15 = b15 := by omega
  have hmid : hb.toNat / 2 ^ 8 % 16 = e := by omega
  have hlow : hb.toNat % 2 ^ 8 = l := by omega
  obtain ⟨w, x, hencode, hw, hx⟩ : ∃ w x, encode (.prefix2 aaa hb p j ccc) = [w, x]
      ∧ w = 0x3000 + aaa.toNat * 2 ^ 9 + b15 * 2 ^ 7 + b12 * 2 ^ 6 + b14 * 2 ^ 5 + p.toNat * 2 ^ 4 + j.toNat * 2 ^ 3 + ccc.toNat
      ∧ x = 0xA000 + e * 2 ^ 9 + b13 * 2 ^ 8 + l := by
    refine ⟨_, _, rfl, ?_, ?_⟩
    · rw [htop, e12, e14]
    · rw [hmid, e13, hlow]
  obtain ⟨⟨wa, wp, wj, wc⟩, ⟨w15, w14, x13, w12⟩, whigh, xtag, xe, xl⟩ :=
    prefix2_pieces h15 h14 h13 h12 he hl p.toNat_lt j.toNat_lt ccc.isLt hw hx
  obtain ⟨hone, htwo⟩ := isPrefix_two aaa.isLt whigh xtag
  have haaa : BitVec.ofNat 3 (w / 2 ^ 9) = aaa := ofNat_three_of_mod (by rw [wa, Nat.add_mod]; simp [Nat.mod_eq_of_lt aaa.isLt])
  have hccc : BitVec.ofNat 3 w = ccc := ofNat_three_of_mod wc
  have hbitP : bitOf w 4 = p := testBit_of_div_mod wp
  have hbitJ : bitOf w 3 = j := testBit_of_div_mod wj
  have hhigh : highBits w x = hb := by
    rw [highBits, w15, w14, x13, w12, xe, xl, ← hbits, BitVec.ofNat_toNat, BitVec.setWidth_eq]
  obtain ⟨⟨hok, h0⟩, h1⟩ : (cccOk ccc = true ∧ aaa ≠ 0#3) ∧ aaa ≠ 1#3 := by simpa [Instr.WF] using h
  have hinstr : prefix2Instr w x = some (.prefix2 aaa hb p j ccc) := by
    simp only [prefix2Instr, haaa, hccc, hbitP, hbitJ, hhigh]
    exact if_neg (by simp [hok, h0, h1])
  rw [hencode, decodeWords, hone]
  simp only [Bool.false_eq_true, if_false, htwo, if_true, hinstr, Option.map_some]

theorem decode_encode_prefix {i : Instr} (h : i.WF = true) (hp : (prefixWords i).isSome = true) :
    decodeWords (bankOf i) (encode i) = some (i.canon, (encode i).length) := by
  cases i with
  | nop => rfl
  | ifa aaa | ift aaa | iff aaa | lpmarka aaa | lpmarkb aaa => revert aaa; decide +kernel
  | prefix1 aaa p j ccc => revert aaa p j ccc; decide +kernel
  | prefix2 => exact decode_prefix2 h
  | _ => exact absurd hp Bool.false_ne_true

end Sys2Proof

namespace Sys2Proof.Machine

/-- Settles O4: by the instruction's words, a prefix's or those that its row packs. -/
theorem decodingUndoesEncoding : Obligations.DecodingUndoesEncoding := by
  intro i h
  rcases Laws.Encoding.of_every i h with ⟨ws, hws, -⟩ | ⟨e, hp, he, hwords, hfits⟩
  · exact decode_encode_prefix h (by rw [hws]; rfl)
  · exact decode_encode_row h hp he hwords hfits

end Sys2Proof.Machine
end

section
/-! PROOF. O60, ERCV and ETRSMT through the EOnCE window: a long at offset 4k of the window is register k. -/

namespace Sys2Proof.Machine

theorem eonceOffset_add {s : State} {off : Nat} (h : off < 0x200) :
    eonceOffset s (s.params.eonceBase + BitVec.ofNat 32 off) = some off := by
  have hoff : (s.params.eonceBase + BitVec.ofNat 32 off - s.params.eonceBase).toNat = off := by
    rw [BitVec.add_comm, BitVec.add_sub_cancel, BitVec.toNat_ofNat]
    omega
  simp only [eonceOffset, hoff, h, if_true]

theorem aligned_window {s : State} {off : Nat} (hbase : s.params.eonceBase.toNat % 4 = 0) (hoff : off % 4 = 0)
    : aligned (s.params.eonceBase + BitVec.ofNat 32 off) 4 = true := by
  simp only [aligned, beq_iff_eq, BitVec.toNat_add, BitVec.toNat_ofNat]
  omega

/-- MOVE.L from an absolute address inside the window. -/
theorem exec_movel_read_window {s : State} (hbase : s.params.eonceBase.toNat % 4 = 0) {off : Nat} (hoff : off % 4 = 0)
    (h : off < 0x200) (n : RReg) :
    ∃ x, exec (.movel .read (.abs32 (s.params.eonceBase + BitVec.ofNat 32 off)) (.r n)) s
      = .next (setR (note (eonceRead32 s off 1).2 x) n (((eonceRead32 s off 1).1.signExtend 40).setWidth 32)) := by
  have hexec : exec (.movel .read (.abs32 (s.params.eonceBase + BitVec.ofNat 32 off)) (.r n)) s
    = execMovel .read (.abs32 (s.params.eonceBase + BitVec.ofNat 32 off)) (.r n) s := rfl
  rw [hexec, execMovel, withEa_aligned (aligned_window hbase hoff)]
  simp only [read32, memEa, load32, eonceOffset_add h]
  exact ⟨_, rfl⟩

/-- MOVE.L to an absolute address inside the window. -/
theorem exec_movel_write_window {s : State} (hbase : s.params.eonceBase.toNat % 4 = 0) {off : Nat} (hoff : off % 4 = 0)
    (h : off < 0x200) (n : RReg) :
    ∃ x, exec (.movel .write (.abs32 (s.params.eonceBase + BitVec.ofNat 32 off)) (.r n)) s
      = .next (note (eonceWrite32 s off (rreg s n)) x) := by
  have hexec : exec (.movel .write (.abs32 (s.params.eonceBase + BitVec.ofNat 32 off)) (.r n)) s
    = execMovel .write (.abs32 (s.params.eonceBase + BitVec.ofNat 32 off)) (.r n) s := rfl
  rw [hexec, execMovel, withEa_aligned (aligned_window hbase hoff)]
  simp only [write32, memEa, store32, eonceOffset_add h]
  exact ⟨_, rfl⟩

/-- A read of register k of 32 bits. -/
theorem eonceRead32_reg {s : State} {k : Nat} {v : Word} (h : eonceReg s k = some (v, 32)) (tag : Nat) :
    eonceRead32 s (4 * k) tag = (v, eonceReadEffect s k) := by
  have hk : 4 * k / 4 = k := by omega
  have hfree : (free 32 s tag <<< 32 : Word) = 0#32 := BitVec.shiftLeft_eq_zero (Nat.le_refl 32)
  rw [eonceRead32, if_neg (by omega), hk, h]
  simp only [hfree, BitVec.or_zero]

/-- A write of register k that takes it. -/
theorem eonceWrite32_reg {s : State} {k : Nat} (h : eonceWrites s.eonce k = true) (v : Word) :
    eonceWrite32 s (4 * k) v = { s with eonce := eonceSet { s.eonce with enabled := true } k v } := by
  have hk : 4 * k / 4 = k := by omega
  rw [eonceWrite32, if_pos (by omega), hk, eonceWrite, if_pos h]

theorem setWidth_signExtend_long (v : Word) : (v.signExtend 40).setWidth 32 = v := by
  apply BitVec.eq_of_getLsbD_eq
  intro i hi
  simp [BitVec.getLsbD_signExtend, hi]
  omega

/-- ETRSMT with its low half written. -/
theorem low_half_written (e : BitVec 64) (v : Word) : (e &&& 0xFFFFFFFF00000000#64) ||| v.setWidth 64 = e.extractLsb' 32 32 ++ v := by
  apply BitVec.eq_of_getLsbD_eq
  intro i hi
  have hmask : (0xFFFFFFFF00000000#64).getLsbD i = decide (32 ≤ i) := by revert i; decide
  simp only [BitVec.getLsbD_or, BitVec.getLsbD_and, hmask, BitVec.getLsbD_setWidth, BitVec.getLsbD_append, BitVec.getLsbD_extractLsb']
  by_cases h : i < 32
  · simp [h, hi]
  · simp [h, hi, show 32 + (i - 32) = i by omega, show i - 32 < 32 by omega, show 32 ≤ i by omega]

/-- ETRSMT with its high half written. -/
theorem high_half_written (e : BitVec 64) (v : Word) : (e &&& 0xFFFFFFFF#64) ||| (v.setWidth 64 <<< 32) = v ++ e.extractLsb' 0 32 := by
  apply BitVec.eq_of_getLsbD_eq
  intro i hi
  have hmask : (0xFFFFFFFF#64).getLsbD i = decide (i < 32) := by revert i; decide
  simp only [BitVec.getLsbD_or, BitVec.getLsbD_and, hmask, BitVec.getLsbD_setWidth, BitVec.getLsbD_append, BitVec.getLsbD_extractLsb',
    BitVec.getLsbD_shiftLeft]
  by_cases h : i < 32
  · simp [h]
  · simp [h, hi, show i - 32 < 64 by omega]

/-- Settles O60: MOVE.L reaches registers 2 to 5 of the window. -/
theorem eonceReceiveAndTransmit : Obligations.EonceReceiveAndTransmit := by
  rintro s b rfl hbase n
  refine ⟨?_, ?_, ?_, ?_⟩
  · obtain ⟨x, hexec⟩ := exec_movel_read_window hbase (off := 4 * 2) rfl (by decide) n
    rw [eonceRead32_reg rfl, setWidth_signExtend_long] at hexec
    refine ⟨_, hexec, ?_, rfl, fun _ => rfl⟩
    rw [rreg_setR_same]
    rfl
  · obtain ⟨x, hexec⟩ := exec_movel_read_window hbase (off := 4 * 3) rfl (by decide) n
    rw [eonceRead32_reg rfl, setWidth_signExtend_long] at hexec
    refine ⟨_, hexec, ?_, rfl, rfl, fun _ => rfl⟩
    rw [rreg_setR_same]
    rfl
  · obtain ⟨x, hexec⟩ := exec_movel_write_window hbase (off := 4 * 4) rfl (by decide) n
    rw [eonceWrite32_reg (by simp [eonceWrites, eonceWritable])] at hexec
    exact ⟨_, hexec, low_half_written _ _, rfl, rfl, fun _ => rfl⟩
  · obtain ⟨x, hexec⟩ := exec_movel_write_window hbase (off := 4 * 5) rfl (by decide) n
    rw [eonceWrite32_reg (by simp [eonceWrites, eonceWritable])] at hexec
    exact ⟨_, hexec, high_half_written _ _, rfl, rfl, fun _ => rfl⟩

end Sys2Proof.Machine
end

section
/-! PROOF. O42, the stack instructions: an access of a slot, then the move of a pointer, then for POP a write of the register.  The
frame of the access is kept by the other two; the pointer's new value and shadow bit are kept by the register's write. -/

namespace Sys2Proof.Machine

/-! ### The register that POP writes -/

theorem evenReg_ne_oddReg (i : Fin 8) : evenReg i ≠ oddReg i := by revert i; decide

theorem setEven_spec {s u : State} (hd : ∀ n, dreg u n = dreg s n) (e : PushEven) (v : Word) :
    Plain (evenDests e) 0#32 u (setEven u e v) ∧ evenIs s (setEven u e v) e v := by
  have hlow (n : DReg) : Plain [.d n] 0#32 u (setExt u n (v.setWidth 9)) ∧ extIs s (setExt u n (v.setWidth 9)) n v 0 :=
    setExt_spec n v 0 (hd n)
  cases e with
  | d i => exact ⟨setD_frame u _ _ _, dreg_setD_same u _ _ _, ltag_setD_same u _ _ _⟩
  | r i => exact ⟨setR_frame u _ _, rreg_setR_same u _ _⟩
  | b i => exact ⟨setR_frame u _ _, rreg_setR_same u _ _⟩
  | n i => exact ⟨setN_frame u _ _, nreg_setN_same u _ _⟩
  | m i => exact ⟨setM_frame u _ _, mreg_setM_same u _ _⟩
  | sa k => exact ⟨setSa_frame u _ _, saReg_setSa_same u _ _⟩
  | ext i => exact hlow (evenReg i)
  | extPair i =>
    obtain ⟨hframe, heven⟩ := hlow (evenReg i)
    have hne : Dest.d (oddReg i) ∉ [Dest.d (evenReg i)] := by simpa using (evenReg_ne_oddReg i).symm
    obtain ⟨hframe', hodd⟩ := setExt_spec (s := s) (oddReg i) v 16 ((hframe.1.d _ hne).1.trans (hd _))
    obtain ⟨hreg, htag⟩ := hframe'.1.d (evenReg i) (by simpa using evenReg_ne_oddReg i)
    exact ⟨hframe.trans hframe', ⟨hreg.trans heven.1, htag.trans heven.2⟩, hodd⟩

theorem setOdd_spec {s u : State} (hd : ∀ n, dreg u n = dreg s n) (hs : SrLegal u) (o : PushOdd) (v : Word) :
    Plain (oddDests o) (oddSr o) u (setOdd u o v) ∧ oddIs s (setOdd u o v) o v := by
  cases o with
  | d i => exact ⟨setD_frame u _ _ _, dreg_setD_same u _ _ _, ltag_setD_same u _ _ _⟩
  | r i => exact ⟨setR_frame u _ _, rreg_setR_same u _ _⟩
  | b i => exact ⟨setR_frame u _ _, rreg_setR_same u _ _⟩
  | n i => exact ⟨setN_frame u _ _, nreg_setN_same u _ _⟩
  | m i => exact ⟨setM_frame u _ _, mreg_setM_same u _ _⟩
  | lc k => exact ⟨setLc_frame u _ _, lcReg_setLc_same u _ _⟩
  | ext i => exact setExt_spec _ v 16 (hd _)
  | vba => exact ⟨writeVba_frame u v, rfl⟩
  | sr => exact ⟨writeSr_frame u v hs, rfl⟩
  | mctl => exact ⟨writeMctl_frame u v, rfl⟩

theorem evenDests_no_pointer (e : PushEven) : Dest.nsp ∉ evenDests e ∧ Dest.esp ∉ evenDests e := by
  cases e <;> simp [evenDests]

theorem oddDests_no_pointer (o : PushOdd) : Dest.nsp ∉ oddDests o ∧ Dest.esp ∉ oddDests o := by
  cases o <;> simp [oddDests]

/-! ### The move of the pointer -/

/-- The frame of an access does not speak of the values of the shadow bits. -/
theorem AccessFrame.shadows {ds : List Dest} {m : Word} {a : Word} {w : Nat} {b : Bool} {s u : State}
    (h : AccessFrame ds m a w b s u) (t : State) : AccessFrame ds m a w b (shadowsOf s t) (shadowsOf u t) :=
  ⟨⟨h.regs.d, h.regs.r, h.regs.n, h.regs.m, h.regs.mctl, h.regs.nsp, h.regs.esp, h.regs.sa, h.regs.lc, h.regs.vba, h.regs.sr,
      h.regs.emr⟩,
    ⟨h.core.pc, h.core.proc, h.core.reqIllegal, h.core.reqDebug, h.core.window, h.core.loopJump, h.core.ignoreA, h.core.ignoreB,
      h.core.inputs, h.core.events, h.core.params, h.core.lastPc⟩, h.flow, ⟨h.ras.1, h.ras.2.1, rfl, rfl⟩,
    h.overflow, h.eonce, h.mem⟩

/-- The two ways to move a stack pointer: `x` is the pointer as a destination, `P` what holds of it afterwards. -/
structure Moves (s : State) (x : Dest) (move : State → State) (P : State → Prop) : Prop where
  frame : ∀ u, expMode u = expMode s → ∃ u', Plain [x] 0#32 u u' ∧ move u = shadowsOf u' (move u)
  moved : ∀ u, expMode u = expMode s → SameShadow s u → P (move u)
  stable : ∀ t t', t'.nsp = t.nsp → t'.esp = t.esp → SameShadow t t' → P t → P t'

theorem moves_sp {s : State} {v : Word} (hv : v &&& spMask = v) :
    Moves s (spDest s) (fun u => moveSp u v) fun t => ShadowIs true s t ∧ sameSp s t = v := by
  refine ⟨fun u he => ⟨setSp u v, ?_, ?_⟩, fun u he hsh => ?_, fun t t' hn he hsh => ?_⟩
  · have hdest : spDest s = spDest u := by rw [spDest, spDest, he]
    exact hdest ▸ setSp_frame u v
  · simp only [moveSp, setSpShadow]
    split <;> rfl
  · have hmove : moveSp u v = if expMode s then setEspShadow (setEsp u v) true else setNspShadow (setNsp u v) true := by
      rw [moveSp, setSpShadow, expMode_setSp, setSp, he]
      cases expMode s <;> rfl
    obtain ⟨hn, he'⟩ := hsh
    rw [hmove, ShadowIs, sameSp]
    cases expMode s
    · exact ⟨⟨rfl, he'⟩, hv⟩
    · exact ⟨⟨rfl, hn⟩, hv⟩
  · rw [ShadowIs, ShadowIs, sameSp, sameSp, hn, he, hsh.1, hsh.2]
    exact id

theorem moves_nsp {s : State} {v : Word} (hv : v &&& spMask = v) :
    Moves s .nsp (fun u => moveNsp u v) fun t => (t.nspShadow = true ∧ t.espShadow = s.espShadow) ∧ t.nsp = v :=
  ⟨fun u _ => ⟨setNsp u v, setNsp_frame u v, rfl⟩, fun _ _ hsh => ⟨⟨rfl, hsh.2⟩, hv⟩,
    fun _ _ hn _ hsh h => ⟨⟨hsh.1.trans h.1.1, hsh.2.trans h.1.2⟩, hn.trans h.2⟩⟩

theorem AccessFrame.expMode_eq {ds : List Dest} {a : Word} {w : Nat} {b : Bool} {s u : State}
    (h : AccessFrame ds 0#32 a w b s u) : expMode u = expMode s := by
  rw [expMode, expMode, srBit, srBit, h.regs.sr_eq]

section
variable {s u : State} {x : Dest} {move : State → State} {P : State → Prop} (hM : Moves s x move P) {a : Word} {w : Nat} {b : Bool}
  (h : AccessFrame [] 0#32 a w b s u)
include hM h

/-- A move of the pointer after an access. -/
theorem Moves.after : AccessFrame [x] 0#32 a w b (shadowsOf s (move u)) (move u) ∧ SameMem u (move u) := by
  obtain ⟨u', hp, hmove⟩ := hM.frame u h.expMode_eq
  have hframe := (h.then_plain hp).shadows (move u)
  rw [← hmove] at hframe
  refine ⟨hframe, fun y => ?_⟩
  rw [hmove]
  exact hp.2.2.2.2.2 y

theorem Moves.after_moved : P (move u) := hM.moved u h.expMode_eq h.ras.2.2

/-- And then a write of registers that are no stack pointers. -/
theorem Moves.after_then {ds : List Dest} {m : Word} {t : State} (hp : Plain ds m (move u) t)
    (hds : Dest.nsp ∉ ds ∧ Dest.esp ∉ ds) : AccessFrame (x :: ds) m a w b (shadowsOf s t) t ∧ P t := by
  have ⟨regs, _, _, ⟨_, _, hshadow⟩, _⟩ := hp
  have hsame : shadowsOf s t = shadowsOf s (move u) := by rw [shadowsOf, shadowsOf, hshadow.1, hshadow.2]
  have hframe := (hM.after h).1.then_plain hp
  rw [BitVec.zero_or] at hframe
  exact ⟨hsame ▸ hframe, hM.stable _ _ (regs.nsp hds.1) (regs.esp hds.2) hshadow (hM.after_moved h)⟩

end

/-! ### The instructions -/

section
variable {s : State} {x : Dest} {move : State → State} {P : State → Prop} (hM : Moves s x move P)
include hM

theorem Moves.push (hm : s.mem.wf = true) (a v : Word) :
    AccessFrame [x] 0#32 a 4 true (shadowsOf s (move (pushLong s a v))) (move (pushLong s a v)) ∧ P (move (pushLong s a v))
      ∧ (OutsideEonce s a 4 → mem32 (move (pushLong s a v)) a = v) := by
  obtain ⟨hframe, -, hstored⟩ : WriteAt s ⟨a, s, false⟩ [] 4 (pushLong s a v) fun t => mem32 t a = v :=
    write32_at (e := ⟨a, s, false⟩) (EaOf.self rfl) hm v
  obtain ⟨hmoved, hmem⟩ := hM.after hframe
  refine ⟨hmoved, hM.after_moved hframe, fun hout => ?_⟩
  have hemr : (move (pushLong s a v)).emr = (pushLong s a v).emr := hmoved.regs.emr_eq.trans hframe.regs.emr_eq.symm
  rw [hmem.mem32 (by rw [bigEndian, bigEndian, hemr]), hstored hout]

theorem Moves.pop {ds : List Dest} {m : Word} {set : State → Word → State} {Q : State → Word → Prop} (hx : ∀ n, Dest.d n ≠ x)
    (hset : ∀ u v, (∀ n, dreg u n = dreg s n) → u.sr = s.sr → Plain ds m u (set u v) ∧ Q (set u v) v)
    (hds : Dest.nsp ∉ ds ∧ Dest.esp ∉ ds) (a : Word) (b : Bool) {t : State}
    (ht : t = set (move (popLong s a b).2) (popLong s a b).1) :
    AccessFrame (x :: ds) m a 4 false (shadowsOf s t) t ∧ P t ∧ (OutsideEonce s a 4 → Q t (mem32 s a)) := by
  obtain ⟨hframe, -, hvalue⟩ : ReadAt s ⟨a, s, !b⟩ [] 4 (popLong s a b) (mem32 s a) :=
    read32_at (e := ⟨a, s, !b⟩) (EaOf.self rfl)
  have hregs := (hM.after hframe).1.regs
  have hd (n : DReg) : dreg (move (popLong s a b).2) n = dreg s n := (hregs.d n (by simpa using hx n)).1
  obtain ⟨hp, hq⟩ := hset _ (popLong s a b).1 hd hregs.sr_eq
  rw [← ht] at hp hq
  obtain ⟨hall, hP⟩ := hM.after_then hframe hp hds
  exact ⟨hall, hP, fun hout => hvalue hout ▸ hq⟩

end

theorem d_ne_spDest (s : State) (n : DReg) : Dest.d n ≠ spDest s := by
  rw [spDest]
  split <;> exact nofun

section
variable {s : State} {x : Dest} {move : State → State} {P : State → Prop} (hM : Moves s x move P) (hx : ∀ n, Dest.d n ≠ x) (a : Word)
  (b : Bool)
include hM hx

theorem Moves.pop_even (e : PushEven) {t : State} (ht : t = setEven (move (popLong s a b).2) e (popLong s a b).1) :
    AccessFrame (x :: evenDests e) 0#32 a 4 false (shadowsOf s t) t ∧ P t ∧ (OutsideEonce s a 4 → evenIs s t e (mem32 s a)) :=
  hM.pop (set := fun u v => setEven u e v) (Q := fun t v => evenIs s t e v) hx (fun _ v hd _ => setEven_spec hd e v)
    (evenDests_no_pointer e) a b ht

theorem Moves.pop_odd (hs : SrLegal s) (o : PushOdd) {t : State} (ht : t = setOdd (move (popLong s a b).2) o (popLong s a b).1) :
    AccessFrame (x :: oddDests o) (oddSr o) a 4 false (shadowsOf s t) t ∧ P t
      ∧ (OutsideEonce s a 4 → oddIs s t o (mem32 s a)) :=
  hM.pop (set := fun u v => setOdd u o v) (Q := fun t v => oddIs s t o v) hx
    (fun u v hd hu => setOdd_spec hd (show SrLegal u by rw [SrLegal, hu]; exact hs) o v) (oddDests_no_pointer o) a b ht

end

/-- Settles O42: every instruction is an access, a move of its pointer, and for POP and POPN a write of its register. -/
theorem stackInstructions : Obligations.StackInstructions := by
  rintro s ha hs hm N rfl
  have hup : (spOf s + 8) &&& spMask = spOf s + 8 := spMask_add ha.sp (by decide)
  have hdown : (spOf s - 8) &&& spMask = spOf s - 8 := spMask_sub ha.sp (by decide)
  have hnup : (s.nsp + 8) &&& spMask = s.nsp + 8 := spMask_add ha.1 (by decide)
  have hndown : (s.nsp - 8) &&& spMask = s.nsp - 8 := spMask_sub ha.1 (by decide)
  have hnsp (n : DReg) : Dest.d n ≠ .nsp := nofun
  refine ⟨fun e => ⟨?_, ?_, ?_, ?_⟩, fun o => ⟨?_, ?_, ?_, ?_⟩⟩
  · obtain ⟨hf, ⟨hsh, hv⟩, hstored⟩ := (moves_sp hup).push hm (spOf s) (evenVal s e)
    exact ⟨_, rfl, hf, hsh, hv, hstored⟩
  · obtain ⟨hf, ⟨hsh, hv⟩, hstored⟩ := (moves_nsp (s := s) hnup).push hm s.nsp (evenVal s e)
    exact ⟨_, rfl, hf, hsh, hv, hstored⟩
  · obtain ⟨hf, ⟨hsh, hv⟩, hread⟩ := (moves_sp hdown).pop_even (d_ne_spDest s) (spOf s - 8) (spShadow s) e rfl
    exact ⟨_, rfl, hf, hsh, hv, hread⟩
  · obtain ⟨hf, ⟨hsh, hv⟩, hread⟩ := (moves_nsp (s := s) hndown).pop_even hnsp (s.nsp - 8) s.nspShadow e rfl
    exact ⟨_, rfl, hf, hsh, hv, hread⟩
  · obtain ⟨hf, ⟨hsh, hv⟩, hstored⟩ := (moves_sp hup).push hm (spOf s + 4) (oddVal s o)
    exact ⟨_, rfl, hf, hsh, hv, hstored⟩
  · obtain ⟨hf, ⟨hsh, hv⟩, hstored⟩ := (moves_nsp (s := s) hnup).push hm (s.nsp + 4) (oddVal s o)
    exact ⟨_, rfl, hf, hsh, hv, hstored⟩
  · obtain ⟨hf, ⟨hsh, hv⟩, hread⟩ := (moves_sp hdown).pop_odd (d_ne_spDest s) (spOf s - 4) (spShadow s) hs o rfl
    exact ⟨_, rfl, hf, hsh, hv, hread⟩
  · obtain ⟨hf, ⟨hsh, hv⟩, hread⟩ := (moves_nsp (s := s) hndown).pop_odd hnsp (s.nsp - 4) s.nspShadow hs o rfl
    exact ⟨_, rfl, hf, hsh, hv, hread⟩

end Sys2Proof.Machine
end

section
/-! PROOF. O52, the exception that is taken between two sets: which request comes first, and the state that its entry leaves.  Only an
event that the EOnCE watches could request the debug exception again; `Unasked` is what the parts of the entry keep where none is
watched. -/

namespace Sys2Proof.Machine

/-! ### The order of the requests -/

/-- With no internal exception pending the external ones decide. -/
theorem pending_external {s : State} (hi : s.reqIllegal = false) (hd : s.reqDebug = false) (ho : s.reqOverflow = false) :
    pending s = if s.inputs.nmiReq && !s.emr.getLsbD 3 then some .nmi
      else if aboveMask s && !disInt s then some .maskable else none := by
  rw [pending, hi, hd, ho]
  rfl

/-- An internal request comes first if none of higher priority is there (R502). -/
theorem pending_order (s : State) : (pending s = some .illegal ↔ s.reqIllegal = true)
    ∧ (pending s = some .debug ↔ s.reqIllegal = false ∧ s.reqDebug = true)
    ∧ (pending s = some .overflow ↔ s.reqIllegal = false ∧ s.reqDebug = false ∧ s.reqOverflow = true) := by
  cases hi : s.reqIllegal with
  | true => simp [pending, hi]
  | false =>
    cases hd : s.reqDebug with
    | true => simp [pending, hi, hd]
    | false =>
      cases ho : s.reqOverflow with
      | true => simp [pending, hi, hd, ho]
      | false =>
        rw [pending_external hi hd ho]
        split
        · simp
        · split <;> simp

theorem pending_external_order {s : State} (hi : s.reqIllegal = false) (hd : s.reqDebug = false) (ho : s.reqOverflow = false) :
    (pending s = some .nmi ↔ s.inputs.nmiReq = true ∧ s.emr.getLsbD 3 = false)
    ∧ (pending s = some .maskable ↔ ¬(s.inputs.nmiReq = true ∧ s.emr.getLsbD 3 = false)
      ∧ s.inputs.ireq = true ∧ intMask s < s.inputs.ipl.toNat ∧ s.sr.getLsbD 19 = false) := by
  have hnmi : (s.inputs.nmiReq && !s.emr.getLsbD 3) = true ↔ s.inputs.nmiReq = true ∧ s.emr.getLsbD 3 = false := by simp
  have hmask : (aboveMask s && !disInt s) = true
      ↔ s.inputs.ireq = true ∧ intMask s < s.inputs.ipl.toNat ∧ s.sr.getLsbD 19 = false := by
    simp [aboveMask, disInt, srBit, and_assoc]
  rw [pending_external hi hd ho, ← hnmi, ← hmask]
  split
  case isTrue h => exact ⟨⟨fun _ => h, fun _ => rfl⟩, nofun, fun h' => absurd h h'.1⟩
  case isFalse h =>
    split
    case isTrue h' => exact ⟨⟨nofun, fun hn => absurd hn h⟩, fun _ => ⟨h, h'⟩, fun _ => rfl⟩
    case isFalse h' => exact ⟨⟨nofun, fun hn => absurd hn h⟩, nofun, fun hm => absurd hm.2 h'⟩

/-! ### Where the EOnCE asks for nothing -/

/-- What decides whether an event of the EOnCE asks for the debug exception. -/
structure SameWatch (e e' : Eonce) : Prop where
  dm : e'.eselDm = e.eselDm
  di : e'.eselDi = e.eselDi
  full : e'.emcr.getLsbD 23 = e.emcr.getLsbD 23
  enabled : e'.enabled = e.enabled

theorem SameWatch.refl (e : Eonce) : SameWatch e e := ⟨rfl, rfl, rfl, rfl⟩

theorem SameWatch.trans {e f g : Eonce} (h : SameWatch e f) (h' : SameWatch f g) : SameWatch e g :=
  ⟨h'.dm.trans h.dm, h'.di.trans h.di, h'.full.trans h.full, h'.enabled.trans h.enabled⟩

theorem SameWatch.ite {c : Prop} [Decidable c] {e f g : Eonce} (hf : SameWatch e f) (hg : SameWatch e g) :
    SameWatch e (if c then f else g) := by
  split
  · exact hf
  · exact hg

theorem SameWatch.of_esr {e f : Eonce} (h : SameWatch e f) (v : Word) : SameWatch e { f with esr := v } :=
  ⟨h.dm, h.di, h.full, h.enabled⟩

theorem SameWatch.of_evs {e f : Eonce} (h : SameWatch e f) (v : BitVec 18) : SameWatch e { f with evs := v } :=
  ⟨h.dm, h.di, h.full, h.enabled⟩

theorem countOne_watch (e : Eonce) : SameWatch e (countOne e) :=
  .ite ⟨rfl, rfl, rfl, rfl⟩ (.ite (.ite ⟨rfl, rfl, rfl, rfl⟩ ⟨rfl, rfl, rfl, rfl⟩) ⟨rfl, rfl, rfl, rfl⟩)

theorem countIf_watch (b : Eonce) (what : Nat) (e : Eonce) : SameWatch e (countIf b what e) := .ite (countOne_watch e) (.refl e)

theorem countEvents_watch (b : Eonce) (vles : Bool) (e : Eonce) : SameWatch e (countEvents b vles e) := by
  have henable : SameWatch e { e with ecntCtrl := e.ecntCtrl ||| 0x00F0#16 } := ⟨rfl, rfl, rfl, rfl⟩
  exact .ite (.ite (countOne_watch e) (.refl e)) (.ite (.ite (henable.trans (countOne_watch _)) henable) (.refl e))

/-- No request of the debug exception, and nothing that decides on one changed. -/
structure Unasked (s t : State) : Prop where
  request : t.reqDebug = s.reqDebug
  watch : SameWatch s.eonce t.eonce

theorem Unasked.refl (s : State) : Unasked s s := ⟨rfl, .refl _⟩

theorem Unasked.trans {s t u : State} (h : Unasked s t) (h' : Unasked t u) : Unasked s u :=
  ⟨h'.request.trans h.request, h.watch.trans h'.watch⟩

theorem mirrorPins_unasked (s : State) : Unasked s (mirrorPins s) := ⟨rfl, rfl, rfl, rfl, rfl⟩

theorem samplePcs_unasked (v : Word) (s : State) : Unasked s (samplePcs v s) := by
  rw [samplePcs]
  split
  · exact ⟨rfl, rfl, rfl, rfl, rfl⟩
  · exact .refl s

theorem advance_unasked (s : State) : Unasked s (advance s) :=
  Unasked.trans (t := { s with pc := s.npc &&& pcMask, fresh := s.fresh + 8, flowed := false, acc := [], emrEv := 0#32, ifc := 0#3 })
    ⟨rfl, rfl, rfl, rfl, rfl⟩ (mirrorPins_unasked _)

/-- A full trace buffer asks for nothing with TBFDM clear (R740). -/
theorem tracePush_unasked {s : State} (h : s.eonce.emcr.getLsbD 23 = false) (v : Word) : Unasked s (tracePush s v) := by
  unfold tracePush
  dsimp only
  split
  · rw [h, Bool.and_false, if_neg Bool.false_ne_true]
    refine ⟨rfl, SameWatch.of_esr (SameWatch.trans ?_ (countIf_watch s.eonce 10 _)) _⟩
    exact ⟨rfl, rfl, rfl, rfl⟩
  · exact .refl s

theorem traceJump_unasked {s : State} (h : s.eonce.emcr.getLsbD 23 = false) (src dst : Word) : Unasked s (traceJump s src dst) := by
  have hpush {t : State} (ht : Unasked s t) (v : Word) : Unasked s (tracePush t v) :=
    ht.trans (tracePush_unasked (ht.watch.full.trans h) v)
  have hif {t : State} (ht : Unasked s t) (c : Bool) (v : Word) : Unasked s (if c then tracePush t v else t) := by
    cases c
    · exact ht
    · exact hpush ht v
  exact hif (hif (hpush (hpush (.refl s) _) _) _ _) _ _

theorem traceInt_unasked {s : State} (h : s.eonce.enabled = false ∨ s.eonce.emcr.getLsbD 23 = false) (src dst : Word) :
    Unasked s (traceInt s src dst) := by
  rw [traceInt]
  split
  case isTrue ht =>
    refine traceJump_unasked (h.resolve_left fun he => ?_) src dst
    rw [tracing, he] at ht
    exact Bool.false_ne_true ht
  case isFalse => exact .refl s

theorem selected_zero (srcs : List (Option EselSource)) (j : Nat) : selected 0#16 srcs j = [] := by
  induction srcs generalizing j with
  | nil => rfl
  | cons x rest ih =>
    unfold selected
    split
    case h_1 hbit => simp at hbit
    case h_2 => exact ih _

theorem selects_nil (d : Detected) (evs : BitVec 18) (all : Bool) : selects d evs [] all = false := by
  cases all <;> rfl

/-- The selector asks for nothing with no source selected (R721). -/
theorem selectEvents_unasked {s : State} (hm : s.eonce.eselDm = 0#16) (hi : s.eonce.eselDi = 0#16) (d : Detected) :
    Unasked s (selectEvents d s) := by
  unfold selectEvents
  simp only [hm, hi, selected_zero, selects_nil, Bool.false_eq_true, if_false]
  refine ⟨rfl, .of_evs (SameWatch.trans (.ite ?_ (.refl _)) (.ite ?_ (.refl _))) _⟩
  · exact ⟨hm.symm, hi.symm, rfl, rfl⟩
  · exact ⟨rfl, rfl, rfl, rfl⟩

/-- The bits of EMCR that events set leave TBFDM alone (R710). -/
theorem tbfdm_of_events (v : Word) (evs : BitVec 18) : (v ||| (evs.setWidth 32 &&& 0x1FF#32)).getLsbD 23 = v.getLsbD 23 := by
  have hmask : (0x1FF#32).getLsbD 23 = false := by decide
  rw [BitVec.getLsbD_or, BitVec.getLsbD_and, hmask, Bool.and_false, Bool.or_false]

theorem eonceEvents_unasked {b : Eonce} {s : State}
    (h : b.enabled = false ∨ s.eonce.eselDm = 0#16 ∧ s.eonce.eselDi = 0#16) (d : Detected) (vles : Bool) :
    Unasked s (eonceEvents b d vles s) := by
  unfold eonceEvents
  dsimp only
  split
  case isTrue => exact ⟨rfl, rfl, rfl, rfl, rfl⟩
  case isFalse hb =>
    obtain ⟨hm, hi⟩ := h.resolve_left (by simpa using hb)
    generalize hevs : s.eonce.evs ||| d.data ||| d.pcs = evs
    have htoggle : SameWatch s.eonce
        (togglePins { s.eonce with evs := evs, emcr := s.eonce.emcr ||| (evs.setWidth 32 &&& 0x1FF#32) } evs) :=
      ⟨rfl, rfl, tbfdm_of_events _ evs, rfl⟩
    have hcount := htoggle.trans (countEvents_watch b vles _)
    generalize countEvents b vles (togglePins { s.eonce with
      evs := evs, emcr := s.eonce.emcr ||| (evs.setWidth 32 &&& 0x1FF#32) } evs) = e at hcount ⊢
    exact Unasked.trans
      (t := { s with eonce := { e with edcaCtrl := e.edcaCtrl.map (edcaEnable e.evs), edcdCtrl := edcdEnable e.evs e.edcdCtrl } })
      ⟨rfl, hcount.dm, hcount.di, hcount.full, hcount.enabled⟩
      (selectEvents_unasked (hcount.dm.trans hm) (hcount.di.trans hi) d)

/-! ### The entry -/

/-- An entry that the EOnCE does not watch leaves no request of the debug exception (R720). -/
theorem enter_debug_unasked {b : State} (hm : b.mem.wf = true) (h : EntryUnwatched b) : (enter b .debug).reqDebug = false := by
  obtain ⟨hout, hwatch⟩ := h
  obtain ⟨e0, q0, h0⟩ := entered_only b .debug
  have hsettle : Unasked b (settle b) :=
    (eonceEvents_unasked (hwatch.imp_right fun hw => ⟨hw.1, hw.2.1⟩) .none false).trans (mirrorPins_unasked _)
  have htake : (takeException { settle b with acc := [] } (offsetOf (settle b) .debug) (levelOf (settle b) .debug)
      (settle b).pc).eonce = (settle b).eonce := by
    have hm' : (settle b).mem = b.mem := by rw [show settle b = _ from h0]
    have hesp : (settle b).esp = b.esp := by rw [show settle b = _ from h0]
    have hparams : (settle b).params = b.params := by rw [show settle b = _ from h0]
    refine takeException_eonce (s := { settle b with acc := [] }) ?_ ?_ _ _ _
    · rw [hm']
      exact hm
    · rw [hesp]
      exact hout.congr hparams
  have hrest : (settle b).eonce.enabled = false ∨ (settle b).eonce.eselDm = 0#16 ∧ (settle b).eonce.eselDi = 0#16
      ∧ (settle b).eonce.emcr.getLsbD 23 = false := by
    rw [hsettle.watch.enabled, hsettle.watch.dm, hsettle.watch.di, hsettle.watch.full]
    exact hwatch
  unfold enter
  rw [if_pos rfl]
  dsimp only [acknowledge]
  generalize takeException { settle b with acc := [] } (offsetOf (settle b) .debug) (levelOf (settle b) .debug) (settle b).pc = u
    at htake ⊢
  generalize settle b = s at htake hrest ⊢
  have htrace : Unasked { u with reqDebug := false, window := 3 }
      (traceInt { u with reqDebug := false, window := 3 } s.lastPc (vectorAddr s (offsetOf s .debug))) :=
    traceInt_unasked (by rw [htake]; exact hrest.imp_right fun hr => hr.2.2) _ _
  generalize traceInt { u with reqDebug := false, window := 3 } s.lastPc (vectorAddr s (offsetOf s .debug)) = v at htrace ⊢
  have hevents (d : Detected) : Unasked v (eonceEvents s.eonce d false v) := by
    refine eonceEvents_unasked (hrest.imp_right fun hr => ?_) d false
    rw [htrace.watch.dm, htrace.watch.di, htake]
    exact ⟨hr.1, hr.2.1⟩
  exact (((htrace.trans (hevents _)).trans (samplePcs_unasked _ _)).trans (advance_unasked _)).request

/-- Where the vector of an exception is: VBA and the offset, whose low bits are ignored (R540). -/
theorem vectorAddr_offset (s : State) {off : BitVec 12} {v : Word} (h : off.setWidth 32 &&& 0xFC0#32 = v) :
    vectorAddr s off &&& pcMask = s.vba &&& 0xFFFFF000#32 ||| v := by
  have hv : v &&& pcMask = v := by
    rw [← h, BitVec.and_assoc]
    rfl
  rw [vectorAddr, h, BitVec.and_or_distrib_right, hv, BitVec.and_assoc]
  rfl

theorem busOffset (o : BitVec 6) : (o ++ 0#6).setWidth 32 &&& 0xFC0#32 = 0#20 ++ (o ++ 0#6) := by
  revert o
  decide

/-- Acknowledging clears the latch, or sets NMID: the byte order stays. -/
theorem acknowledge_spec (u : State) (k : Pending) : ∃ e m i d o, acknowledge u k = { u with
    eonce := e, emr := m, reqIllegal := i, reqDebug := d, reqOverflow := o } ∧ m.getLsbD 16 = u.emr.getLsbD 16
      ∧ (k = .illegal → i = false) ∧ (k = .overflow → o = false) := by
  cases k with
  | illegal => exact ⟨_, _, _, _, _, rfl, rfl, fun _ => rfl, nofun⟩
  | overflow => exact ⟨_, _, _, _, _, rfl, rfl, nofun, fun _ => rfl⟩
  | debug | maskable => exact ⟨_, _, _, _, _, rfl, rfl, nofun, nofun⟩
  | nmi =>
    refine ⟨_, _, _, _, _, rfl, ?_, nofun, nofun⟩
    rw [getLsbD_withBit _ _ _ _ (by decide), if_neg (by decide)]

/-- The frame, the handler's address, SR and the latches that an entry between two sets leaves. -/
theorem enter_frame {b : State} (ha : StacksAligned b) (hm : b.mem.wf = true) (k : Pending) :
    EntryFrame b.pc b (enter b k) ∧ (enter b k).pc = vectorAddr b (offsetOf b k) &&& pcMask
      ∧ EntrySr b (enter b k) (levelOf b k).toNat ∧ (k = .illegal → (enter b k).reqIllegal = false)
      ∧ (k = .overflow → (enter b k).reqOverflow = false) := by
  obtain ⟨e, q, h⟩ := enter_eq b k
  obtain ⟨e0, q0, h0⟩ := entered_only b k
  have hstart : entryStart b k = { b with eonce := e0, reqDebug := q0, acc := [] } := by rw [entryStart, h0]
  have htaken : taken b k = acknowledge (takeException (entryStart b k) (offsetOf b k) (levelOf b k) b.pc) k := by
    rw [taken, h0]
    rfl
  obtain ⟨hf, hsr, -, hn, -⟩ := takeException_spec (s := entryStart b k) (by rw [hstart]; exact ha) (by rw [hstart]; exact hm)
    (offsetOf b k) (levelOf b k) b.pc
  rw [htaken] at h
  generalize takeException (entryStart b k) (offsetOf b k) (levelOf b k) b.pc = u at *
  obtain ⟨e', m, i, d, o, hack, hbig, hi, ho⟩ := acknowledge_spec u k
  rw [hack] at h
  rw [hstart] at hf hsr hn
  have hpc : u.npc &&& pcMask = vectorAddr b (offsetOf b k) &&& pcMask := by
    rw [hn, pcMask_twice]
    rfl
  have hread (x : Word) : mem32 (enter b k) x = mem32 u x :=
    mem32_congr (by rw [h]; exact hbig) x fun _ _ => by rw [h]; rfl
  refine ⟨⟨?_, ?_, fun hout => ?_, ?_⟩, ?_, ?_, ?_, ?_⟩
  · rw [h]; exact hf.esp
  · rw [h]; exact hf.nsp
  · rw [hread, hread]; exact hf.frame hout
  · rw [h]; exact hf.mem
  · rw [h]; exact hpc
  · rw [h]; exact hsr
  · rw [h]; exact hi
  · rw [h]; exact ho

/-- An exception that can be taken is entered. -/
theorem step_enters {s : State} {k : Pending} (he : s.events = []) (hp : s.proc = .execution) (hr : s.eonce.dbgReq = false)
    (hk : pending s = some k) (hi : interruptible s = true) : step s = .next (enter s k) := by
  unfold step coreStep
  rw [he, hp, hr, hk, hi]
  rfl

/-- Settles O52: the order of the requests, and the entry. -/
theorem exceptionsAreEntered : Obligations.ExceptionsAreEntered := by
  refine ⟨fun s => ?_, fun s k he hp hr hk hd hj hw hia ha hm => ?_⟩
  · obtain ⟨hillegal, hdebug, hoverflow⟩ := pending_order s
    exact ⟨hillegal, hdebug, hoverflow, pending_external_order⟩
  have hi : interruptible s = true := by rw [interruptible, hd, hj, hw, hia]; rfl
  obtain ⟨hframe, hpc, hsr, hillegal, hoverflow⟩ := enter_frame ha hm k
  obtain ⟨hkeeps, -, hemr, hproc, hwindow⟩ := enter_keeps s k
  refine ⟨_, step_enters he hp hr hk hi, hframe, hkeeps, hwindow, hproc.trans hp, ?_⟩
  rintro x rfl bus rfl
  have hexternal {d : BitVec 12} {v : Word} (hv : d.setWidth 32 &&& 0xFC0#32 = v) :
      vectorAddr s (externalOffset s d) &&& pcMask = s.vba &&& 0xFFFFF000#32
        ||| (if s.inputs.autoVec then v else 0#20 ++ (s.inputs.offset ++ 0#6)) := by
    rw [externalOffset]
    cases s.inputs.autoVec
    · exact vectorAddr_offset s (busOffset _)
    · exact vectorAddr_offset s hv
  refine ⟨?_, ?_, ?_, ?_, ?_⟩
  · rintro rfl
    exact ⟨hpc.trans (vectorAddr_offset s (off := 0x080#12) (by decide)), hsr, hillegal rfl⟩
  · rintro rfl
    exact ⟨hpc.trans (vectorAddr_offset s (off := 0x0C0#12) (by decide)), hsr, fun h => enter_debug_unasked hm h⟩
  · rintro rfl
    exact ⟨hpc.trans (vectorAddr_offset s (off := 0x100#12) (by decide)), hsr, hoverflow rfl⟩
  · rintro rfl
    refine ⟨hpc.trans (hexternal rfl), hsr, ?_⟩
    rw [hemr, if_pos rfl, getLsbD_withBit _ _ _ _ (by decide), if_pos rfl]
  · rintro rfl
    exact ⟨hpc.trans (hexternal rfl), hsr⟩

end Sys2Proof.Machine
end

section
/-! PROOF. O59, the first clause: two instructions that write a data register each and make no access run on the state before the set,
and the merged state has each register from its own instruction and C from the later one. -/

namespace Sys2Proof.Machine

theorem get_ofFn {α : Type} {n : Nat} (f : Fin n → α) (k : Fin n) : (Vector.ofFn f).get k = f k := by
  simp [Vector.get]
  rfl

/-- The result of a DALU instruction that writes Dn, and makes no access. -/
structure WritesD (n : DReg) (d : Done) : Prop where
  dests : d.eff.dests = [.d n]
  acc : d.st.acc = []

section
variable {s : State} {n m : DReg} {d e : Done} (hd : WritesD n d) (he : WritesD m e) (hne : n ≠ m)
include hd he hne

/-- A register of the merged state comes from its writer. -/
theorem owned_two {α : Type} (old fresh : α) (get : State → α) : owned [d, e] (.d n) old fresh get = get d.st
    ∧ owned [d, e] (.d m) old fresh get = get e.st
    ∧ ∀ k, k ≠ n → k ≠ m → owned [d, e] (.d k) old fresh get = old := by
  refine ⟨?_, ?_, fun k hn hm => ?_⟩
  · simp [owned, hd.dests, he.dests, hne]
  · simp [owned, hd.dests, he.dests, hne.symm]
  · simp [owned, hd.dests, he.dests, hn, hm]

theorem dreg_merge_two : dreg (merge s [d, e]) n = dreg d.st n ∧ dreg (merge s [d, e]) m = dreg e.st m
    ∧ ∀ k, k ≠ n → k ≠ m → dreg (merge s [d, e]) k = dreg s k := by
  have hget (k : DReg) : dreg (merge s [d, e]) k
      = owned [d, e] (.d k) (dreg s k) (free 40 (mergeBase s) (100 + k.val)) fun t => dreg t k := by
    unfold dreg merge
    dsimp only
    rw [get_ofFn]
    rfl
  exact ⟨(hget n).trans (owned_two hd he hne ..).1, (hget m).trans (owned_two hd he hne ..).2.1,
    fun k hn hm => (hget k).trans ((owned_two hd he hne ..).2.2 k hn hm)⟩

end

/-- Results without accesses leave memory as it was. -/
theorem mem_merge_two {s : State} {n m : DReg} {d e : Done} (hd : WritesD n d) (he : WritesD m e) : (merge s [d, e]).mem = s.mem := by
  have hnone {k : DReg} {x : Done} (hx : WritesD k x) : writtenBytes x = [] := by rw [writtenBytes, hx.acc]; rfl
  simp [merge, mergeMem, hnone hd, hnone he, copyBytes, twice, freeBytes, mergeBase]

/-- C of the merged state is that of the later writer. -/
theorem carry_merge_two {s : State} {d e : Done} (hd : d.eff.sr = bitC) (he : e.eff.sr = bitC) :
    carry (merge s [d, e]) = carry e.st := by
  have hC : bitC.getLsbD 0 = true := by decide
  have hS : bitS.getLsbD 0 = false := by decide
  have hne : (bitC == srMask) = false := by decide
  show (mergeSr s.sr [d, e]).getLsbD 0 = e.st.sr.getLsbD 0
  simp only [mergeSr, List.foldl_cons, List.foldl_nil, hd, he, hne, Bool.false_eq_true, if_false, BitVec.getLsbD_or,
    BitVec.getLsbD_and, BitVec.getLsbD_not, hC, hS]
  simp only [Nat.zero_lt_succ, decide_true, Bool.not_false, Bool.not_true, Bool.and_false, Bool.and_true, Bool.false_or,
    Bool.or_false]

theorem earlyBytes_nil {t : State} (h : t.acc = []) : earlyBytes t = [] := by rw [earlyBytes, h]; rfl

/-- Results without accesses race for no byte. -/
theorem racing_nil {ds : List Done} (h : ∀ d ∈ ds, d.st.acc = []) (k : Nat) : racing ds [] k = [] := by
  rw [racing]
  split
  case h_1 => rfl
  case h_2 d hd =>
    have hnone (t : State) : raceBytes d.st t = [] := by
      simp [raceBytes, earlyBytes_nil (h d (List.mem_of_getElem? hd))]
    simp [hnone, earlyBytes_nil (h d (List.mem_of_getElem? hd))]

/-- Two instructions without accesses that are not TRAP or a return: their results are merged. -/
theorem runSlots_two {s : State} {x y : Slot} {n m : DReg} {d e : Done} (hx : runOne s 0 x = .next d) (hy : runOne s 1 y = .next e)
    (hd : WritesD n d) (he : WritesD m e) (hkind : ∀ z ∈ [x, y], isTrap z.instr = false ∧ readsLate z.instr = false) :
    runSlots s [x, y] = .next (merge s [d, e]) := by
  obtain ⟨htx, hlx⟩ := hkind x (by simp)
  obtain ⟨hty, hly⟩ := hkind y (by simp)
  have heach : runEach s 0 [x, y] = .next [d, e] := by simp only [runEach, hx, hy, andThen]
  have hrace : ((List.range [x, y].length).flatMap (racing [d, e] [])).eraseDups = [] := by
    rw [List.flatMap_eq_nil_iff.mpr fun k _ => racing_nil (by simp [hd.acc, he.acc]) k]
    rfl
  have hseveral : runSeveral s [x, y] [] = .next (merge s [d, e]) := by
    have hlate : [x, y].any (fun z => readsLate z.instr) = false := by simp [hlx, hly]
    rw [runSeveral, heach]
    simp only [andThen, hrace, hlate, List.isEmpty_nil, Bool.not_false, Bool.and_self, if_true]
  have hfilter : [x, y].filter (fun z => isTrap z.instr) = [] ∧ [x, y].filter (fun z => !isTrap z.instr) = [x, y] := by
    simp [htx, hty]
  rw [runSlots, hfilter.1, hfilter.2]
  · simp only [List.isEmpty_nil, if_true, hseveral, andThen]
  · simp
  · simp

/-! ### Two TFRs, and two additions -/

theorem runOne_tfr {s : State} (hacc : s.acc = []) (j : Nat) {x : Slot} {a n : DReg} (hx : x.instr = .tfr a n) :
    ∃ d, runOne s j x = .next d ∧ WritesD n d ∧ dreg d.st n = dreg s a := by
  refine ⟨⟨.tfr a n, effects s (.tfr a n), tagUnit x.pos (transfer { s with fresh := s.fresh + j } a n)⟩, ?_, ⟨rfl, ?_⟩, ?_⟩
  · rw [runOne, hx]
    rfl
  · exact congrArg (List.map _) hacc
  · exact dreg_setD_same { s with fresh := s.fresh + j } n (dreg s a) (lnCalc6 { s with fresh := s.fresh + j } (dreg s a))

theorem addTo_acc (s : State) (n : DReg) (a b : DWord) : (addTo s n a b).acc = s.acc := by
  have hover (c : Bool) (t : State) : (overflowIf c t).acc = t.acc := by
    rw [overflowIf]
    split <;> rfl
  show (writeSat s n _ _).acc = s.acc
  rw [writeSat]
  split
  · split
    · rfl
    · split <;> rfl
  · exact hover _ _

theorem runOne_addReg {s : State} (hacc : s.acc = []) (hsat : satMode s = false) (j : Nat) {x : Slot} {a b n : DReg}
    (hx : x.instr = .addReg a b n) :
    ∃ d, runOne s j x = .next d ∧ WritesD n d ∧ d.eff.sr = bitC ∧ (dreg d.st n).toInt = (sD s a + sD s b).bmod (2 ^ 40)
      ∧ carry d.st = decide (2 ^ 40 ≤ uD s a + uD s b) := by
  obtain ⟨-, -, hadd, -⟩ := saturableArithmetic
  obtain ⟨t, hexec, ⟨-, hwritten⟩, hcarry⟩ := hadd a b n { s with fresh := s.fresh + j }
  have ht : t = addTo { s with fresh := s.fresh + j } n (dreg s a) (dreg s b) := (Host.Outcome.next.inj hexec).symm
  refine ⟨⟨.addReg a b n, effects s (.addReg a b n), tagUnit x.pos t⟩, ?_, ⟨rfl, ?_⟩, rfl, hwritten.wrapped hsat, hcarry⟩
  · rw [runOne, hx, hexec]
    rfl
  · exact congrArg (List.map _) ((congrArg State.acc ht).trans ((addTo_acc _ _ _ _).trans hacc))

/-- Two TFRs of one set swap two registers. -/
theorem swap_by_tfrs {s : State} (hacc : s.acc = []) {a b : DReg} (hne : a ≠ b) (w v : Nat) :
    ∃ t, runSlots s [⟨0, .tfr a b, 1, w⟩, ⟨1, .tfr b a, 1, v⟩] = .next t
      ∧ dreg t b = dreg s a ∧ dreg t a = dreg s b ∧ SameMem s t ∧ ∀ n, n ≠ a → n ≠ b → dreg t n = dreg s n := by
  obtain ⟨d, hd, hwd, hvd⟩ := runOne_tfr hacc 0 (x := ⟨0, .tfr a b, 1, w⟩) rfl
  obtain ⟨e, he, hwe, hve⟩ := runOne_tfr hacc 1 (x := ⟨1, .tfr b a, 1, v⟩) rfl
  obtain ⟨hb, ha, hother⟩ := dreg_merge_two (s := s) hwd hwe hne.symm
  refine ⟨_, runSlots_two hd he hwd hwe (by simp [isTrap, readsLate]), hb.trans hvd, ha.trans hve,
    .of_mem_eq (mem_merge_two hwd hwe), fun n hna hnb => hother n hnb hna⟩

/-- Two additions of one set. -/
theorem two_additions {s : State} (hacc : s.acc = []) (hsat : satMode s = false) (a b c d : DReg) {n m : DReg} (hne : n ≠ m)
    (w v : Nat) : ∃ t, runSlots s [⟨0, .addReg a b n, 1, w⟩, ⟨1, .addReg c d m, 1, v⟩] = .next t
      ∧ (dreg t n).toInt = (sD s a + sD s b).bmod (2 ^ 40) ∧ (dreg t m).toInt = (sD s c + sD s d).bmod (2 ^ 40)
      ∧ carry t = decide (2 ^ 40 ≤ uD s c + uD s d) ∧ ∀ k, k ≠ n → k ≠ m → dreg t k = dreg s k := by
  obtain ⟨x, hx, hwx, hsx, hvx, -⟩ := runOne_addReg hacc hsat 0 (x := ⟨0, .addReg a b n, 1, w⟩) rfl
  obtain ⟨y, hy, hwy, hsy, hvy, hcy⟩ := runOne_addReg hacc hsat 1 (x := ⟨1, .addReg c d m, 1, v⟩) rfl
  obtain ⟨hn, hm, hother⟩ := dreg_merge_two (s := s) hwx hwy hne
  have hcarry := (carry_merge_two (s := s) hsx hsy).trans hcy
  have hrun := runSlots_two hx hy hwx hwy (by simp [isTrap, readsLate])
  generalize merge s [x, y] = t at hn hm hother hcarry hrun
  exact ⟨t, hrun, (congrArg BitVec.toInt hn).trans hvx, (congrArg BitVec.toInt hm).trans hvy, hcarry, hother⟩

end Sys2Proof.Machine
end

section
/-! PROOF. O59, the sets that are illegal: what such a set does, which words make one, and which positions. -/

namespace Sys2Proof.Machine

/-! ### The effect of an illegal set -/

theorem getLsbD_withBit_true (v : Word) (k i : Nat) (hk : k < 32) :
    (withBit v k true).getLsbD i = (v.getLsbD i || decide (i = k)) := by
  rw [getLsbD_withBit _ _ _ _ hk]
  by_cases h : i = k <;> simp [h]

/-- An illegal set sets its bits of EMR and the request; beside that only the EOnCE takes note. -/
theorem illegalEffect_spec {ilin ilst : Bool} (h : (ilin || ilst) = true) (u : State) : ∃ m v e, illegalEffect ilin ilst u = { u with
    emr := m, emrEv := v, reqIllegal := true, eonce := e } ∧ m.getLsbD 0 = (u.emr.getLsbD 0 || ilin)
      ∧ m.getLsbD 1 = (u.emr.getLsbD 1 || ilst) ∧ m &&& ~~~3#32 = u.emr &&& ~~~3#32 := by
  have hout (v : Word) (k : Fin 2) : withBit v k.val true &&& ~~~3#32 = v &&& ~~~3#32 :=
    setEmrBit_other v k 3#32 (by revert k; decide)
  have hbit (v : Word) (k i : Fin 2) : (withBit v k.val true).getLsbD i.val = (v.getLsbD i.val || decide (i.val = k.val)) :=
    getLsbD_withBit_true v k.val i.val (by omega)
  cases ilin <;> cases ilst
  case false.false => cases h
  case true.false => exact ⟨_, _, _, rfl, by simpa using hbit u.emr 0 0, by simpa using hbit u.emr 0 1, hout _ 0⟩
  case false.true => exact ⟨_, _, _, rfl, by simpa using hbit u.emr 1 0, by simpa using hbit u.emr 1 1, hout _ 1⟩
  case true.true =>
    refine ⟨_, _, _, rfl, ?_, ?_, (hout _ 1).trans (hout _ 0)⟩
    · exact (hbit _ 1 0).trans ((Bool.or_false _).trans (hbit u.emr 0 0))
    · exact (hbit _ 1 1).trans ((Bool.or_true _).trans (Bool.or_true _).symm)

/-- What is due at the end of a delay slot leaves the request and, NMID apart, EMR. -/
theorem endDelay_requests (d : Delay) (s : State) : (endDelay d s).reqIllegal = s.reqIllegal
    ∧ ∀ i, i ≠ 3 → (endDelay d s).emr.getLsbD i = s.emr.getLsbD i := by
  obtain ⟨-, h⟩ | ⟨t, -, h⟩ | ⟨t, -, h⟩ | ⟨t, f, -, m, c, h, -⟩ | ⟨t, v, f, -, m, c, w, h, -⟩ := endDelay_cases d s
  case inr.inr.inl =>
    obtain ⟨m, e, a, p, q, hc⟩ := callTo_only s s.npc t
    rw [h, hc]
    exact ⟨rfl, fun _ _ => rfl⟩
  case inr.inr.inr.inr =>
    rw [h]
    refine ⟨rfl, fun i hi => ?_⟩
    show (withBit s.emr 3 false).getLsbD i = _
    rw [getLsbD_withBit _ _ _ _ (by decide), if_neg hi]
  all_goals
    rw [h]
    exact ⟨rfl, fun _ _ => rfl⟩

theorem finish_requests (b s : State) : (finish b s).reqIllegal = s.reqIllegal
    ∧ ∀ i, i ≠ 3 → (finish b s).emr.getLsbD i = s.emr.getLsbD i := by
  obtain ⟨e, q, h⟩ := finish_ended b s
  obtain ⟨x, a, j, hx, -, -⟩ := ended_from b s
  rw [h, hx]
  exact endDelay_requests x { s with npc := a, loopJump := j }

theorem ended_stay {b s : State} (hj : s.loopJump = none) (hd : b.delay = .none) : ended b s = s := by
  rw [ended_clean (pcClash_stay (by rw [hd]; rfl) (loopDue_none hj)), hd]
  rfl

/-- A set that is no delay slot and has no loop jump pending ends at the next one (R10). -/
theorem finish_calm {b s : State} (hj : s.loopJump = none) (hd : b.delay = .none) : ∃ e q v w x f l, finish b s = { s with
    eonce := e, reqDebug := q, npc := s.npc, pc := s.npc &&& pcMask, loopJump := none, window := v, ignoreA := w, ignoreB := x
    fresh := f, lastPc := l, flowed := false, acc := [], emrEv := 0#32, ifc := 0#3 } := by
  obtain ⟨e, q, h⟩ := finish_ended b s
  rw [ended_stay hj hd, hj] at h
  exact ⟨e, q, _, _, _, _, _, h⟩

/-- An illegal set executes nothing (R179, R511). -/
theorem runSet_illegal {s m : State} {x : ExecSet} {bad : Bool} (hx : x = decodeSet s (fetchWords s))
    (hm : prefixEffect (begin s x.len) x.pre = .next m) (hbad : bad = (x.ilst || !groupOk (begin s x.len) m.ifc x.slots))
    (h : (x.ilin || bad) = true) : runSet s = .next (finish s (illegalEffect x.ilin bad (begin s x.len))) := by
  unfold runSet runDecoded
  rw [← hx]
  dsimp only
  rw [hm]
  dsimp only [andThen]
  rw [← hbad, if_pos h]

theorem step_illegal {s m : State} {x : ExecSet} {bad : Bool} (hq : Quiet s) (hx : x = decodeSet s (fetchWords s))
    (hm : prefixEffect (begin s x.len) x.pre = .next m) (hbad : bad = (x.ilst || !groupOk (begin s x.len) m.ifc x.slots))
    (h : (x.ilin || bad) = true) : ∃ t, step s = .next t ∧ t.reqIllegal = true ∧ t.emr.getLsbD 0 = (s.emr.getLsbD 0 || x.ilin)
        ∧ t.emr.getLsbD 1 = (s.emr.getLsbD 1 || bad)
        ∧ (s.delay = .none → s.loopJump = none → Untouched [] 0#32 3#32 s t ∧ SameMem s t ∧ SameRas s t
          ∧ t.pc = (s.pc + BitVec.ofNat 32 (2 * x.len)) &&& 0xFFFFFFFE#32 ∧ t.delay = .none) := by
  obtain ⟨e, v, f, heffect, h0, h1, hemr⟩ := illegalEffect_spec h (begin s x.len)
  have hstep := (step_quiet hq).trans (runSet_illegal hx hm hbad h)
  rw [heffect] at hstep
  obtain ⟨hreq, hbits⟩ := finish_requests s { begin s x.len with emr := e, emrEv := v, reqIllegal := true, eonce := f }
  refine ⟨_, hstep, hreq, (hbits 0 (by decide)).trans h0, (hbits 1 (by decide)).trans h1, fun hd hj => ?_⟩
  obtain ⟨_, _, _, _, _, _, _, hfinish⟩ := finish_calm (b := s)
    (s := { begin s x.len with emr := e, emrEv := v, reqIllegal := true, eonce := f }) hj hd
  rw [hfinish]
  exact ⟨⟨fun _ _ => ⟨rfl, rfl⟩, fun _ _ => rfl, fun _ _ => rfl, fun _ _ => rfl, fun _ => rfl, fun _ => rfl, fun _ => rfl,
    fun _ _ => rfl, fun _ _ => rfl, fun _ => rfl, rfl, hemr⟩, fun _ => rfl, ⟨rfl, rfl, rfl, rfl⟩, rfl, rfl⟩

/-! ### The words that make a set illegal -/

/-- A word whose top bits are not 00 is read alone. -/
theorem findRow_of_top2 {w : Nat} (h : top2 w ≠ 0) (rest : List Nat) : findRow (w :: rest) = findRow [w] := by
  have htwo : findTwo (w :: rest) = none := by
    cases rest with
    | nil => rfl
    | cons x more => exact if_neg fun hh => h hh.1
  have hthree : findThree (w :: rest) = none := by
    rcases rest with - | ⟨x, - | ⟨y, more⟩⟩
    · rfl
    · rfl
    · exact if_neg fun hh => h hh.1
  rw [findRow, hthree, htwo]
  rfl

theorem not_isPrefix2_of_top2 {w : Nat} (h : top2 w ≠ 0) (x : Nat) : isPrefix2 w x = false := by
  rw [isPrefix2, Bool.and_eq_false_iff]
  refine .inl (beq_eq_false_iff_ne.mpr fun he => h ?_)
  have hmask : w &&& 0xC000 = w &&& 0xF100 &&& 0xC000 := by rw [Nat.and_assoc]; rfl
  rw [top2_eq, hmask, he]
  rfl

/-- A word with no row is an illegal instruction (R179). -/
theorem decodeSet_noRow {s : State} {w : Nat} {rest : List Nat} (hf : fetchWords s = w :: rest) (htop : top2 w ≠ 0)
    (hp : isPrefix1 w = false) (hd : decodeAt Bank.zero [w] = none) :
    (decodeSet s (fetchWords s)).ilin = true ∧ (decodeSet s (fetchWords s)).len = 1 := by
  obtain ⟨v, more, rfl⟩ := fetchWords_tail hf
  have hall : decodeAt Bank.zero (w :: v :: more) = none := by
    rw [decodeAt, findRow_of_top2 htop]
    exact hd
  have hlen : serialLen ((w :: v :: more).take 8) 0 = some 1 := by
    rw [List.take_succ_cons, serialLen, if_neg htop]
  have hwalk : (walk 8 0#16 false (w :: v :: more) 1 0).ilin = true := by
    rw [walk]
    simp only [hp, bankAt_zero, hd, hall, Bool.false_and, Bool.false_eq_true, if_false, List.take_succ_cons, List.take_zero]
  rw [hf]
  simp only [decodeSet, hp, not_isPrefix2_of_top2 htop, Bool.false_eq_true, if_false, hlen, hwalk, and_self]

/-- An ISAP opcode in a prefix-grouped set is illegal (R157 (c)). -/
theorem decodeSet_isap {s : State} {w : Nat} {rest : List Nat} (hf : fetchWords s = w :: rest) (hw : isPrefix1 w = true)
    (hp : isPrefix1 (rest.headD 0) = false) (hi : isapWord (rest.take (w / 2 ^ 9 % 8)) = true) :
    (decodeSet s (fetchWords s)).ilin = true := by
  obtain ⟨v, more, rfl⟩ := fetchWords_tail hf
  have hp : isPrefix1 v = false := hp
  obtain ⟨n, hn⟩ : ∃ n, w / 2 ^ 9 % 8 = n + 1 := by
    cases hk : w / 2 ^ 9 % 8 with
    | zero =>
      rw [hk] at hi
      exact absurd hi Bool.false_ne_true
    | succ n => exact ⟨n, rfl⟩
  have hwalk : (walk 8 0#16 true (v :: more) (w / 2 ^ 9 % 8) 1).ilin = true := by
    rw [hn] at hi ⊢
    rw [walk]
    simp only [not_nopWord hp, hp, hi, Bool.and_self, Bool.and_false, Bool.false_eq_true, if_false, if_true]
  rw [hf]
  simp only [decodeSet, hw, if_true, Nat.add_sub_cancel, hwalk, Bool.true_or]

/-! ### The positions that make a grouping error -/

theorem distinct_of_twice (pre mid post : List Nat) (a : Nat) : distinct (pre ++ a :: (mid ++ a :: post)) = false := by
  induction pre with
  | nil => simp [distinct]
  | cons x pre ih => rw [List.cons_append, distinct, ih, Bool.and_false]

/-- Two instructions of one kind at one unit (R158, R511). -/
theorem groupOk_of_same_unit {s : State} {x y : Slot} (hkind : (effects s x.instr).dalu = (effects s y.instr).dalu)
    (hunit : x.pos % (if (effects s x.instr).dalu then 4 else 2) = y.pos % (if (effects s x.instr).dalu then 4 else 2))
    (c : BitVec 3) (pre mid post : List Slot) : groupOk s c (pre ++ x :: (mid ++ y :: post)) = false := by
  have hunits : unitsOk s (pre ++ x :: (mid ++ y :: post)) = false := by
    cases hd : (effects s x.instr).dalu with
    | true =>
      rw [hd] at hkind hunit
      have hsame : x.pos % 4 = y.pos % 4 := hunit
      simp [unitsOk, List.filter_append, hd, ← hkind, hsame, distinct_of_twice]
    | false =>
      rw [hd] at hkind hunit
      have hsame : x.pos % 2 = y.pos % 2 := hunit
      simp [unitsOk, List.filter_append, hd, ← hkind, hsame, distinct_of_twice]
  rw [groupOk, hunits]
  rfl

/-- Settles O59: the parts of a set read the state before it, and an illegal set executes nothing. -/
theorem resultsOfOneSetComeTogether : Obligations.ResultsOfOneSetComeTogether :=
  ⟨fun _ hacc => ⟨fun _ _ w v hne => swap_by_tfrs hacc hne w v,
      fun a b _ c d _ w v hne hsat => two_additions hacc hsat a b c d hne w v⟩,
    fun _ _ _ _ hq hx hm hbad h => step_illegal hq hx hm hbad h,
    fun _ _ _ hf htop hp hd => decodeSet_noRow hf htop hp hd,
    fun _ _ _ hf hw hp hi => decodeSet_isap hf hw hp hi,
    fun _ c pre _ mid _ post hkind hunit => groupOk_of_same_unit hkind hunit c pre mid post⟩

end Sys2Proof.Machine
end
